-- ==== Sys2Proof/Word.lean ====
section
/-! DEFINITION. Words of the Kolgesha and the 64 lanes of a group (R3 to R5, file 00). -/

namespace Sys2Proof

/-- One byte of memory (R4). -/
abbrev Byte := BitVec 8
/-- A halfword, the unit of code (R41). -/
abbrev Half := BitVec 16
/-- A 32-bit lane value (R34). -/
abbrev Word := BitVec 32
/-- A 64-bit value: a scalar register, a lane mask, a pair of vector registers (R34, R35). -/
abbrev DWord := BitVec 64

/-- One value for each of the 64 lanes of a group, lane 0 first (R5). -/
abbrev Lanes (α : Type) := Vector α 64

/-- The lanes numbered by a function of the lane. -/
def Lanes.ofFn {α : Type} (f : Nat → α) : Lanes α :=
  ⟨((List.range 64).map f).toArray, by simp⟩

/-- The same value in every lane. -/
def Lanes.const {α : Type} (a : α) : Lanes α := Lanes.ofFn fun _ => a

/-- Lane `i`; the lane number is taken modulo 64, as a six-bit field names it. -/
def Lanes.get {α : Type} (l : Lanes α) (i : Nat) : α :=
  l[i % 64]'(Nat.mod_lt _ (by decide))

/-- Bit `i` of a lane mask (R5). -/
def lane (m : DWord) (i : Nat) : Bool := m.getLsbD i

/-- The mask of the lanes at which `f` holds. -/
def maskOf (f : Nat → Bool) : DWord :=
  (List.range 64).foldl (fun m i => if f i then m ||| (1#64 <<< i) else m) 0

/-- The lanes of a mask, lowest first. -/
def lanesOf (m : DWord) : List Nat := (List.range 64).filter (lane m)

/-- All ones (special 0xEF, the reset of p0). -/
def allOnes : DWord := BitVec.allOnes 64

end Sys2Proof
end

