-- ==== Sys2Proof/Config.lean ====
section
/-! DEFINITION. What the package fixes (R1, R101, R120, R126) and the free values that the manual leaves open (log 4). -/

namespace Sys2Proof.Config

/-- Core cycles in a heartbeat tick (R8, R16). -/
def tick : Nat := 256
/-- Register rows of a core (R35). -/
def rows : Nat := 8192
/-- Bytes of a vault (R164). -/
def vaultBytes : Nat := 16 * 1024 * 1024
/-- Outstanding memory requests of a core (R191). -/
def outstanding : Nat := 1536
/-- Ways of an L1 and of an L2 slice (R172, R174), and lines of an instruction cache (R183). -/
def ways : Nat := 16
def codeLines : Nat := 2048
/-- Reply slots and request buffers of a port (R309). -/
def replySlots : Nat := 8192
def requestBuffers : Nat := 4096
/-- Entries of a core's operand log (R126). -/
def logEntries : Nat := 64
/-- Block-barrier cells of a core, and of a cluster for spread blocks (R349). -/
def coreCells : Nat := 512
def clusterCells : Nat := 64
/-- Launch-barrier cells and set-table entries of a package (R349). -/
def launchCells : Nat := 64
def setEntries : Nat := 256
/-- Live launches of a context (R376). -/
def liveLaunches : Nat := 256

/-- Bytes of a chiplet's staging buffer for snapshots (R446). -/
def stagingBytes : Nat := 4 * 2 ^ 20
/-- Bytes of a port's log for one colour (R444). -/
def logBytes : Nat := 2 ^ 20
/-- Bytes that an eave streamer writes in a core cycle (256 GB/s at 800 MHz), and those that the shared cursor hands it at a time (R8, R450). -/
def streamRate : Nat := 320
def pieceBytes : Nat := 65536

/-- A free bit: nothing is known of it. The first number is State.free, the second tells the places of one step apart. -/
opaque freeBit : Nat → Nat → Bool
/-- A free word of 64 bits. -/
opaque freeWord : Nat → Nat → DWord
/-- The fixed function of R227 that the named operation (0 FRCP, 1 FRSQ, 2 FEXP2, 3 FLOG2, 4 FSIN, 5 FCOS) and width return
away from their special values. -/
opaque approx : Nat → Bool → DWord → DWord
/-- The 64-bit digest of a collective descriptor (R322), which the manual does not give. -/
opaque digest : List Byte → DWord
/-- The device's certificate chain (R470). -/
opaque certChain : List Byte
/-- The Guldanen image that the package was delivered with, and the key digests of its four fuse slots (R469). -/
opaque shippedImage : List Byte
opaque fuseKey : Nat → List Byte
/-- An Ed448 signature check of a message by a key (R469, R470, R472). -/
opaque ed448Verify : List Byte → List Byte → List Byte → Bool
/-- An Ed448 signature of the package's key (R470). -/
opaque ed448Sign : List Byte → List Byte

end Sys2Proof.Config
end

