-- ==== Sys2Proof/Syntax.lean ====
section
/-! DEFINITION. The instructions of the Kolgesha as syntax: spec/opcode_table.json, one constructor for each row. The fields
of a word are those of R42 to R51 (file 02), held as they stand in the word, ignored ones too, so that a word can be encoded again. -/

namespace Sys2Proof

/-- The fields of a 32-bit instruction other than LEN and MAJOR (R48). -/
structure F32 where
  dist : BitVec 3
  hold : Bool
  nowb : Bool
  dst  : BitVec 6
  src1 : BitVec 6
  src2 : BitVec 6
  mod  : Bool
  deriving DecidableEq, Repr

/-- The fields of a 64-bit instruction other than LEN, MAJOR and MINOR (R50). -/
structure F64 where
  dist : BitVec 3
  hold : Bool
  nowb : Bool
  dst  : BitVec 8
  s1   : BitVec 8
  s2   : BitVec 8
  s3   : BitVec 8
  cnt  : BitVec 4
  pred : BitVec 4
  pneg : Bool
  mod  : BitVec 4
  deriving DecidableEq, Repr

/-- The immediate of sub-format I16: bits 50:35, bit 35 lowest (R51). -/
def F64.imm16 (f : F64) : BitVec 16 := f.s3 ++ f.s2

/-- The immediate of sub-format I24: bits 50:27, bit 27 lowest (R51). -/
def F64.imm24 (f : F64) : BitVec 24 := f.s3 ++ f.s2 ++ f.s1

/-- The instructions and events of the Kolgesha: one constructor for each row of spec/opcode_table.json, named by the
row's mnemonic. The rows from 16-bit MOV to the 64-bit NOP and ILLEGAL_INSTR are words that a group issues; the others are
what a unit other than an issuing group does, with what reaches it from outside as operands. -/
inductive Instr where
  /-- MOV_16: 16-bit two-address move of vs into vd (R42). -/
  | mov16 (vd vs : BitVec 5)
  /-- IADD_16: 16-bit two-address wrapping integer add, vd <- vd + vs (R42). -/
  | iadd16 (vd vs : BitVec 5)
  /-- ISUB_16: 16-bit two-address wrapping integer subtract (R42). -/
  | isub16 (vd vs : BitVec 5)
  /-- IMUL_16: 16-bit two-address integer multiply, low 32 bits (R42). -/
  | imul16 (vd vs : BitVec 5)
  /-- AND_16: 16-bit two-address bitwise AND (R42). -/
  | and16 (vd vs : BitVec 5)
  /-- OR_16: 16-bit two-address bitwise OR (R42). -/
  | or16 (vd vs : BitVec 5)
  /-- XOR_16: 16-bit two-address bitwise XOR (R42). -/
  | xor16 (vd vs : BitVec 5)
  /-- SHL_16: 16-bit two-address shift left (R42). -/
  | shl16 (vd vs : BitVec 5)
  /-- SHR_16: 16-bit two-address logical shift right (R42). -/
  | shr16 (vd vs : BitVec 5)
  /-- SAR_16: 16-bit two-address arithmetic shift right (R42). -/
  | sar16 (vd vs : BitVec 5)
  /-- IMIN_16: 16-bit two-address signed minimum (R42). -/
  | imin16 (vd vs : BitVec 5)
  /-- IMAX_16: 16-bit two-address signed maximum (R42). -/
  | imax16 (vd vs : BitVec 5)
  /-- FADD_F32_16: 16-bit two-address FP32 add, nearest even (R42). -/
  | faddF32_16 (vd vs : BitVec 5)
  /-- FSUB_F32_16: 16-bit two-address FP32 subtract (R42). -/
  | fsubF32_16 (vd vs : BitVec 5)
  /-- FMUL_F32_16: 16-bit two-address FP32 multiply (R42). -/
  | fmulF32_16 (vd vs : BitVec 5)
  /-- FMAX_F32_16: 16-bit two-address FP32 maximum (R42). -/
  | fmaxF32_16 (vd vs : BitVec 5)
  /-- WAIT: Holds the group until every named completion counter reads zero (R43). -/
  | wait (m : BitVec 12)
  /-- NOP_16: SYS16 selector 0: no operation (R44). -/
  | nop16 (imm : BitVec 8)
  /-- BRK_16: 16-bit breakpoint raising BREAKPOINT with imm8 in XINFO (R388). -/
  | brk16 (imm : BitVec 8)
  /-- TRAP_16: 16-bit software trap raising SOFT_TRAP with imm8 in XINFO (R388). -/
  | trap16 (imm : BitVec 8)
  /-- BRS: Short branch of the whole run by a signed 12-bit halfword offset (R45). -/
  | brs (o : BitVec 12)
  /-- IADD_32: 32-bit form of iadd.i32, optional signed saturation (R66). -/
  | iadd32 (f : F32)
  /-- ISUB_32: 32-bit form of isub.i32, optional saturation (R66). -/
  | isub32 (f : F32)
  /-- IMUL_32: 32-bit form of imul.i32 (R66). -/
  | imul32 (f : F32)
  /-- IMULH_32: 32-bit form of imulh.i32, optional unsigned (R66). -/
  | imulh32 (f : F32)
  /-- IMAD_32: 32-bit form of imad.i32 accumulating into vd (R66). -/
  | imad32 (f : F32)
  /-- IMIN_32: 32-bit form of imin.i32, optional unsigned (R66). -/
  | imin32 (f : F32)
  /-- IMAX_32: 32-bit form of imax.i32, optional unsigned (R66). -/
  | imax32 (f : F32)
  /-- IABS_32: 32-bit form of iabs.i32 (R66). -/
  | iabs32 (f : F32)
  /-- AND_32: 32-bit form of and (R66). -/
  | and32 (f : F32)
  /-- OR_32: 32-bit form of or (R66). -/
  | or32 (f : F32)
  /-- XOR_32: 32-bit form of xor (R66). -/
  | xor32 (f : F32)
  /-- ANDN_32: 32-bit form of andn (R66). -/
  | andn32 (f : F32)
  /-- NOT_32: 32-bit form of not (R66). -/
  | not32 (f : F32)
  /-- SHL_32: 32-bit form of shl (R66). -/
  | shl32 (f : F32)
  /-- SHR_32: 32-bit form of shr (R66). -/
  | shr32 (f : F32)
  /-- SAR_32: 32-bit form of sar (R66). -/
  | sar32 (f : F32)
  /-- ROTL_32: 32-bit form of rotl (R66). -/
  | rotl32 (f : F32)
  /-- POPC_32: 32-bit form of popc (R66). -/
  | popc32 (f : F32)
  /-- CLZ_32: 32-bit form of clz (R66). -/
  | clz32 (f : F32)
  /-- CTZ_32: 32-bit form of ctz (R66). -/
  | ctz32 (f : F32)
  /-- BREV_32: 32-bit form of brev (R66). -/
  | brev32 (f : F32)
  /-- LEA_32: 32-bit form of lea, shift by 2 or by 3 under MOD (R66). -/
  | lea32 (f : F32)
  /-- MOV_32: 32-bit form of mov (R66). -/
  | mov32 (f : F32)
  /-- FADD_F32_32: 32-bit FP32 add, optional .ftz (R66). -/
  | faddF32_32 (f : F32)
  /-- FSUB_F32_32: 32-bit FP32 subtract (R66). -/
  | fsubF32_32 (f : F32)
  /-- FMUL_F32_32: 32-bit FP32 multiply (R66). -/
  | fmulF32_32 (f : F32)
  /-- FFMA_F32_32: 32-bit FP32 fused multiply-add into vd (R66). -/
  | ffmaF32_32 (f : F32)
  /-- FMIN_F32_32: 32-bit FP32 minimum (R66). -/
  | fminF32_32 (f : F32)
  /-- FMAX_F32_32: 32-bit FP32 maximum (R66). -/
  | fmaxF32_32 (f : F32)
  /-- FSCALE_F32_32: 32-bit FP32 scale by 2^SRC2 (R221). -/
  | fscaleF32_32 (f : F32)
  /-- FADD_F64_32: 32-bit FP64 add on register pairs (R66). -/
  | faddF64_32 (f : F32)
  /-- FSUB_F64_32: 32-bit FP64 subtract (R66). -/
  | fsubF64_32 (f : F32)
  /-- FMUL_F64_32: 32-bit FP64 multiply (R66). -/
  | fmulF64_32 (f : F32)
  /-- FFMA_F64_32: 32-bit FP64 fused multiply-add into vd (R66). -/
  | ffmaF64_32 (f : F32)
  /-- FMIN_F64_32: 32-bit FP64 minimum (R66). -/
  | fminF64_32 (f : F32)
  /-- FMAX_F64_32: 32-bit FP64 maximum (R66). -/
  | fmaxF64_32 (f : F32)
  /-- FADD_X2_32: 32-bit packed bf16x2 or f16x2 add (R66). -/
  | faddX2_32 (f : F32)
  /-- FSUB_X2_32: 32-bit packed subtract (R66). -/
  | fsubX2_32 (f : F32)
  /-- FMUL_X2_32: 32-bit packed multiply (R66). -/
  | fmulX2_32 (f : F32)
  /-- FFMA_X2_32: 32-bit packed fused multiply-add into vd (R66). -/
  | ffmaX2_32 (f : F32)
  /-- FMIN_X2_32: 32-bit packed minimum (R66). -/
  | fminX2_32 (f : F32)
  /-- FMAX_X2_32: 32-bit packed maximum (R66). -/
  | fmaxX2_32 (f : F32)
  /-- NOP_32: 32-bit hint major 0x3F, treated as NOP (R69). -/
  | nop32 (f : F32)
  /-- IADD: 64-bit-form integer add, major 0x00 or 0x01, optional saturation (R217). -/
  | iadd (wide : Bool) (f : F64)
  /-- ISUB: Integer subtract (R217). -/
  | isub (wide : Bool) (f : F64)
  /-- IMUL: Integer multiply, low w bits (R217). -/
  | imul (wide : Bool) (f : F64)
  /-- IMULH: Integer multiply, high w bits (R217). -/
  | imulh (wide : Bool) (f : F64)
  /-- IMAD: Integer multiply-add with S3 (R217). -/
  | imad (wide : Bool) (f : F64)
  /-- IDIV: Variable-latency integer division (R217). -/
  | idiv (wide : Bool) (f : F64)
  /-- IREM: Variable-latency integer remainder (R217). -/
  | irem (wide : Bool) (f : F64)
  /-- IMIN: Integer minimum (R217). -/
  | imin (wide : Bool) (f : F64)
  /-- IMAX: Integer maximum (R217). -/
  | imax (wide : Bool) (f : F64)
  /-- IABS: Integer absolute value (R217). -/
  | iabs (wide : Bool) (f : F64)
  /-- AND: Bitwise AND (R217). -/
  | and (wide : Bool) (f : F64)
  /-- OR: Bitwise OR (R217). -/
  | or (wide : Bool) (f : F64)
  /-- XOR: Bitwise XOR (R217). -/
  | xor (wide : Bool) (f : F64)
  /-- ANDN: Bitwise AND with complement (R217). -/
  | andn (wide : Bool) (f : F64)
  /-- NOT: Bitwise complement (R217). -/
  | not (wide : Bool) (f : F64)
  /-- SHL: Shift left (R217). -/
  | shl (wide : Bool) (f : F64)
  /-- SHR: Logical shift right (R217). -/
  | shr (wide : Bool) (f : F64)
  /-- SAR: Arithmetic shift right (R217). -/
  | sar (wide : Bool) (f : F64)
  /-- ROTL: Rotate left (R217). -/
  | rotl (wide : Bool) (f : F64)
  /-- BFX: Bit-field extraction (R219). -/
  | bfx (wide : Bool) (f : F64)
  /-- BFI: Bit-field insertion (R219). -/
  | bfi (wide : Bool) (f : F64)
  /-- POPC: Population count (R217). -/
  | popc (wide : Bool) (f : F64)
  /-- CLZ: Count leading zeros (R217). -/
  | clz (wide : Bool) (f : F64)
  /-- CTZ: Count trailing zeros (R217). -/
  | ctz (wide : Bool) (f : F64)
  /-- BREV: Bit reversal (R217). -/
  | brev (wide : Bool) (f : F64)
  /-- LEA: Add with shifted index (R217). -/
  | lea (wide : Bool) (f : F64)
  /-- ICMP: Integer compare writing predicate lane bits (R218). -/
  | icmp (wide : Bool) (f : F64)
  /-- SEL: Per-lane select by predicate (R217). -/
  | sel (wide : Bool) (f : F64)
  /-- MOV: Lane move (R217). -/
  | mov (wide : Bool) (f : F64)
  /-- IADD_IMM: Integer add with sign-extended imm16, major 0x02 (R217). -/
  | iaddImm (f : F64)
  /-- IMUL_IMM: Integer multiply with imm16 (R217). -/
  | imulImm (f : F64)
  /-- IMIN_IMM: Integer minimum with imm16 (R217). -/
  | iminImm (f : F64)
  /-- IMAX_IMM: Integer maximum with imm16 (R217). -/
  | imaxImm (f : F64)
  /-- AND_IMM: AND with imm16 (R217). -/
  | andImm (f : F64)
  /-- OR_IMM: OR with imm16 (R217). -/
  | orImm (f : F64)
  /-- XOR_IMM: XOR with imm16 (R217). -/
  | xorImm (f : F64)
  /-- SHL_IMM: Shift left by imm16 (R217). -/
  | shlImm (f : F64)
  /-- SHR_IMM: Logical shift right by imm16 (R217). -/
  | shrImm (f : F64)
  /-- SAR_IMM: Arithmetic shift right by imm16 (R217). -/
  | sarImm (f : F64)
  /-- ROTL_IMM: Rotate left by imm16 (R217). -/
  | rotlImm (f : F64)
  /-- BFX_IMM: Bit-field extraction with immediate control (R219). -/
  | bfxImm (f : F64)
  /-- BFI_IMM: Bit-field insertion into old vD with immediate control (R219). -/
  | bfiImm (f : F64)
  /-- ICMP_IMM: Integer compare against imm16 (R218). -/
  | icmpImm (f : F64)
  /-- MOVI: Vector move of sign-extended imm24 (R220). -/
  | movi (f : F64)
  /-- MOVI_HI: Writes imm24 into vD[31:8], keeping vD[7:0] (R220). -/
  | moviHi (f : F64)
  /-- FADD: FP32 or FP64 add with rounding mode, major 0x04 or 0x05 (R223). -/
  | fadd (wide : Bool) (f : F64)
  /-- FSUB: Floating-point subtract (R223). -/
  | fsub (wide : Bool) (f : F64)
  /-- FMUL: Floating-point multiply (R223). -/
  | fmul (wide : Bool) (f : F64)
  /-- FFMA: Floating-point fused multiply-add (R223). -/
  | ffma (wide : Bool) (f : F64)
  /-- FMIN: Floating-point minimum (R86). -/
  | fmin (wide : Bool) (f : F64)
  /-- FMAX: Floating-point maximum (R86). -/
  | fmax (wide : Bool) (f : F64)
  /-- FCMP: Floating-point compare writing predicate lane bits (R224). -/
  | fcmp (wide : Bool) (f : F64)
  /-- FCLASS: Writes a one-hot class word (R225). -/
  | fclass (wide : Bool) (f : F64)
  /-- FRCP: Approximate reciprocal, variable latency (R227). -/
  | frcp (wide : Bool) (f : F64)
  /-- FRSQ: Approximate reciprocal square root (R227). -/
  | frsq (wide : Bool) (f : F64)
  /-- FSQRT: Correctly rounded square root (R223). -/
  | fsqrt (wide : Bool) (f : F64)
  /-- FDIV: Correctly rounded division (R223). -/
  | fdiv (wide : Bool) (f : F64)
  /-- FEXP2: Approximate base-2 exponential (R227). -/
  | fexp2 (wide : Bool) (f : F64)
  /-- FLOG2: Approximate base-2 logarithm (R227). -/
  | flog2 (wide : Bool) (f : F64)
  /-- FSIN: Approximate sine (R227). -/
  | fsin (wide : Bool) (f : F64)
  /-- FCOS: Approximate cosine (R227). -/
  | fcos (wide : Bool) (f : F64)
  /-- FRND: Round to an integral value (R223). -/
  | frnd (wide : Bool) (f : F64)
  /-- FSCALE: Scale by a power of two (R223). -/
  | fscale (wide : Bool) (f : F64)
  /-- FGETEXP: Extracts floor(log2|x|) (R226). -/
  | fgetexp (wide : Bool) (f : F64)
  /-- FADD_X2: Packed 16-bit add, major 0x06 (R228). -/
  | faddX2 (f : F64)
  /-- FSUB_X2: Packed 16-bit subtract (R228). -/
  | fsubX2 (f : F64)
  /-- FMUL_X2: Packed 16-bit multiply (R228). -/
  | fmulX2 (f : F64)
  /-- FFMA_X2: Packed 16-bit fused multiply-add (R228). -/
  | ffmaX2 (f : F64)
  /-- FMIN_X2: Packed 16-bit minimum (R228). -/
  | fminX2 (f : F64)
  /-- FMAX_X2: Packed 16-bit maximum (R228). -/
  | fmaxX2 (f : F64)
  /-- FCMP_X2: Packed 16-bit compare writing element masks (R228). -/
  | fcmpX2 (f : F64)
  /-- CVT: Type conversion with rounding and saturation (R229). -/
  | cvt (f : F64)
  /-- PACK: Packs two elements into a field of vD (R230). -/
  | pack (f : F64)
  /-- UNPACK: Extracts one element into vD (R230). -/
  | unpack (f : F64)
  /-- AMAX: Largest magnitude over enabled elements into a scalar (R231). -/
  | amax (f : F64)
  /-- QUANT: Divides by a scale and rounds two values to E4M3 or E5M2 (R232). -/
  | quant (f : F64)
  /-- PLPACK: Stores a lane-form block as plane granules in the vault (R233). -/
  | plpack (f : F64)
  /-- PLUNPACK: Loads plane granules from the vault into lane form (R233). -/
  | plunpack (f : F64)
  /-- SHFL: Lane shuffle by index, up, down or xor (R235). -/
  | shfl (f : F64)
  /-- VOTE: Any, all, ballot or uniform vote over enabled lanes (R236). -/
  | vote (f : F64)
  /-- REDUX: Reduction of enabled lanes into a scalar (R237). -/
  | redux (f : F64)
  /-- SCAN: Inclusive or exclusive prefix reduction (R238). -/
  | scan (f : F64)
  /-- MATCH: Mask of lanes holding equal values (R239). -/
  | matchLanes (f : F64)
  /-- PAND: Predicate AND (R240). -/
  | pand (f : F64)
  /-- POR: Predicate OR (R240). -/
  | por (f : F64)
  /-- PXOR: Predicate XOR (R240). -/
  | pxor (f : F64)
  /-- PNOT: Predicate complement (R240). -/
  | pnot (f : F64)
  /-- PMOV: Predicate move, or move between predicate and scalar (R240). -/
  | pmov (f : F64)
  /-- SADD: Scalar add (R241). -/
  | sadd (f : F64)
  /-- SSUB: Scalar subtract (R241). -/
  | ssub (f : F64)
  /-- SMUL: Scalar multiply (R241). -/
  | smul (f : F64)
  /-- SAND: Scalar AND (R241). -/
  | sand (f : F64)
  /-- SOR: Scalar OR (R241). -/
  | sor (f : F64)
  /-- SXOR: Scalar XOR (R241). -/
  | sxor (f : F64)
  /-- SSHL: Scalar shift left (R241). -/
  | sshl (f : F64)
  /-- SSHR: Scalar logical or arithmetic shift right (R241). -/
  | sshr (f : F64)
  /-- SCMP: Scalar compare writing a whole predicate (R241). -/
  | scmp (f : F64)
  /-- SSEL: Scalar select by predicate (R241). -/
  | ssel (f : F64)
  /-- SMOV: Scalar move (R241). -/
  | smov (f : F64)
  /-- BCAST: Broadcasts lane k of a vector to enabled lanes (R241). -/
  | bcast (f : F64)
  /-- RDLANE: Reads lane k of a vector into a scalar (R241). -/
  | rdlane (f : F64)
  /-- SADD_IMM: Scalar add with imm16 (R241). -/
  | saddImm (f : F64)
  /-- SSUB_IMM: Scalar subtract imm16 (R241). -/
  | ssubImm (f : F64)
  /-- SMUL_IMM: Scalar multiply by imm16 (R241). -/
  | smulImm (f : F64)
  /-- SAND_IMM: Scalar AND with imm16 (R241). -/
  | sandImm (f : F64)
  /-- SOR_IMM: Scalar OR with imm16 (R241). -/
  | sorImm (f : F64)
  /-- SXOR_IMM: Scalar XOR with imm16 (R241). -/
  | sxorImm (f : F64)
  /-- SSHL_IMM: Scalar shift left by imm16 (R241). -/
  | sshlImm (f : F64)
  /-- SSHR_IMM: Scalar shift right by imm16 (R241). -/
  | sshrImm (f : F64)
  /-- SCMP_IMM: Scalar compare against imm16 (R241). -/
  | scmpImm (f : F64)
  /-- SMOVI: Scalar move of sign-extended imm24 (R242). -/
  | smovi (f : F64)
  /-- SMOVI_MID: Writes imm24 into sD[47:24] with sign fill above (R242). -/
  | smoviMid (f : F64)
  /-- SMOVI_TOP: Writes imm24[15:0] into sD[63:48] (R242). -/
  | smoviTop (f : F64)
  /-- WSET: Binds a walker to a base, element size and loop nest (R244). -/
  | wset (f : F64)
  /-- WSTAT: Reads walker status, address or indices (R246). -/
  | wstat (f : F64)
  /-- WREW: Rewinds a bound walker (R246). -/
  | wrew (f : F64)
  /-- LDG: Global lane load, optional acquire and promote (R189). -/
  | ldg (f : F64)
  /-- STG: Global lane store, optional release (R189). -/
  | stg (f : F64)
  /-- PREF: Prefetch into L1, L2 or TLB (R196). -/
  | pref (f : F64)
  /-- ATOMG: Global atomic at the unit of its scope (R199). -/
  | atomg (f : F64)
  /-- REDG: Global reduction without return (R199). -/
  | redg (f : F64)
  /-- LDL: Local vault load, optional full-empty qualifier (R189). -/
  | ldl (f : F64)
  /-- STL: Local vault store, optional full-empty qualifier (R189). -/
  | stl (f : F64)
  /-- ATOML: Local atomic at the owning bank (R199). -/
  | atoml (f : F64)
  /-- SLD: Scalar load through lane 0's address (R189). -/
  | sld (f : F64)
  /-- SST: Scalar store through lane 0's address (R189). -/
  | sst (f : F64)
  /-- FENCE: Release, acquire, acqrel or sequentially consistent fence at a scope (R203). -/
  | fence (f : F64)
  /-- LOCID: Writes the group's logical location ID (R206). -/
  | locid (f : F64)
  /-- SCOPEOF: Writes the lowest enclosing scope of two location IDs (R206). -/
  | scopeof (f : F64)
  /-- SCOPECOST: Reads one word of a discovery-page level entry (R207). -/
  | scopecost (f : F64)
  /-- VMAP: Maps global pages into vault segments (R209). -/
  | vmap (f : F64)
  /-- VUNMAP: Returns mapped segments to Invalid (R210). -/
  | vunmap (f : F64)
  /-- SJOIN: Joins the block to a sharing group by key (R211). -/
  | sjoin (f : F64)
  /-- SLEAVE: Leaves the block's sharing group (R212). -/
  | sleave (f : F64)
  /-- FESET: Sets a range of granules Full (R213). -/
  | feset (f : F64)
  /-- FECLR: Sets a range of granules Empty (R213). -/
  | feclr (f : F64)
  /-- PUT: Sends bytes to a window offset on a target package (R316). -/
  | put (f : F64)
  /-- GET: Reads bytes of a target's window into a destination (R317). -/
  | get (f : F64)
  /-- WCNT: Reads or waits on window counters, or reads and clears ERR (R326). -/
  | wcnt (f : F64)
  /-- NMO: Near-memory CAS, enqueue or chase at a pool node (R320). -/
  | nmo (f : F64)
  /-- TCOPY: Hands a copy item to the cluster's copy engine (R143). -/
  | tcopy (f : F64)
  /-- TGATHER: Indexed gather of rows by the copy engine (R156). -/
  | tgather (f : F64)
  /-- TSCATTER: Indexed scatter of rows by the copy engine (R156). -/
  | tscatter (f : F64)
  /-- TCOLL: Starts a collective across member packages (R157). -/
  | tcoll (f : F64)
  /-- TCANCEL: Cancels copy items by status address or all of the block (R159). -/
  | tcancel (f : F64)
  /-- TSCHED: Advances the tier-schedule cursor (R160). -/
  | tsched (f : F64)
  /-- TSTAT: Reads an item's live status (R161). -/
  | tstat (f : F64)
  /-- MXALLOC: Requests a matrix allocation of cells and tiles (R282). -/
  | mxalloc (f : F64)
  /-- MXFREE: Ends the block's matrix allocation (R282). -/
  | mxfree (f : F64)
  /-- MXWLOAD: Queues a weight load into shadow banks (R283). -/
  | mxwload (f : F64)
  /-- MXRUN: Queues a streaming pass into accumulator tiles (R257). -/
  | mxrun (f : F64)
  /-- MXDRAIN: Queues a drain of tile rows to the vault (R269). -/
  | mxdrain (f : F64)
  /-- MXFILL: Queues a fill of tile rows from the vault (R271). -/
  | mxfill (f : F64)
  /-- MXZERO: Queues zeroing of masked tiles (R283). -/
  | mxzero (f : F64)
  /-- MXFENCE: Operand-ready fence for lane-stored data (R267). -/
  | mxfence (f : F64)
  /-- MXSTAT: Reads entry, allocation or engine status (R284). -/
  | mxstat (f : F64)
  /-- MXCANCEL: Removes queued matrix entries (R285). -/
  | mxcancel (f : F64)
  /-- BRA: Branch of enabled threads by a halfword offset (R352). -/
  | bra (f : F64)
  /-- BRC: Whole-run branch on any, all or none of a predicate (R353). -/
  | brc (f : F64)
  /-- BRX: Per-thread indirect branch (R352). -/
  | brx (f : F64)
  /-- BRW: Whole-run branch on a walker end flag (R353). -/
  | brw (f : F64)
  /-- CALL: Call with link, deepening thread depth (R354). -/
  | call (f : F64)
  /-- CALLX: Indirect call (R354). -/
  | callx (f : F64)
  /-- RET: Return, or exit at depth 0 (R354). -/
  | ret (f : F64)
  /-- EXIT: Marks enabled threads exited (R355). -/
  | exit (f : F64)
  /-- BAR: Barrier arrival that blocks until the phase completes (R346). -/
  | bar (f : F64)
  /-- BARA: Barrier arrival that goes on (R346). -/
  | bara (f : F64)
  /-- ELECT: Writes a one-hot predicate of the lowest or highest enabled lane (R356). -/
  | elect (f : F64)
  /-- SLEEP: Holds the group until a later heartbeat tick (R358). -/
  | sleep (f : F64)
  /-- SPAWN: Submits child launches and suspends the block (R360). -/
  | spawn (f : F64)
  /-- FETCHW: Queues a request to withdraw an unplaced block (R361). -/
  | fetchw (f : F64)
  /-- REGGROW: Requests more register rows for the group (R364). -/
  | reggrow (f : F64)
  /-- REGSHRINK: Reduces the group's register allocation (R364). -/
  | regshrink (f : F64)
  /-- TRAP: Raises SOFT_TRAP (R388). -/
  | trap (f : F64)
  /-- BRK: Raises BREAKPOINT (R388). -/
  | brk (f : F64)
  /-- MFX: Reads a system register (R390). -/
  | mfx (f : F64)
  /-- FORKW: Forks the block into rival world copies (R429). -/
  | forkw (f : F64)
  /-- CHOOSE: Names a winning sibling or records a bid (R430). -/
  | choose (f : F64)
  /-- WORLD: Reads world index, info or budget (R431). -/
  | world (f : F64)
  /-- ABANDON: Gives up the innermost world (R432). -/
  | abandon (f : F64)
  /-- XRET: Ends handler entries and returns from the trap (R389). -/
  | xret (f : F64)
  /-- MTX: Writes a system register without behaviour of its own (R390). -/
  | mtx (f : F64)
  /-- MTX_XPC: Write to XPC or XDEPTH sets every PCRUN lane's PC-table entry (R389). -/
  | mtxXpc (f : F64)
  /-- MTX_VBUDGET: Write sets BUDGET to min(value, GRANT) (R417). -/
  | mtxVbudget (f : F64)
  /-- MTX_VPSIZE: Raising PAGES grows the view pool and performs held writes (R416). -/
  | mtxVpsize (f : F64)
  /-- MTX_VPBASE: Write to VPBASE, refused while any view is live (R414). -/
  | mtxVpbase (f : F64)
  /-- TLBINV: Drops translations within a scope (R135). -/
  | tlbinv (f : F64)
  /-- ICINV: Discards instruction cache lines within a scope (R391). -/
  | icinv (f : F64)
  /-- SNAP: Claims a snapshot colour and triggers the cut (R458). -/
  | snap (f : F64)
  /-- SNAPST: Reads a colour's snapshot state (R459). -/
  | snapst (f : F64)
  /-- NOP_64: 64-bit hint major 0x3F, treated as NOP (R69). -/
  | nop64 (minor : BitVec 6) (f : F64)
  /-- ILLEGAL_INSTR: Issue of an encoding that no instruction defines, which raises ILLEGAL_INSTR (R46). -/
  | illegalInstr (w : DWord)
  /-- YIELD: Sets the run's yield bits, ends the hold run and makes the group youngest (R357). -/
  | yield
  /-- EXIT_16: Marks every thread of the run exited (R355). -/
  | exit16
  /-- SLEEP_WAKE: The awaited tick is reached and the sleeping group becomes ready (R358). -/
  | sleepWake
  /-- SPAWN_RESUME: Suspended block is restored once every accepted child has completed (R360). -/
  | spawnResume
  /-- FETCHW_SERVICE: Distributor withdraws the lowest unplaced block of the named launch (R361). -/
  | fetchwService
  /-- MAILBOX_WRITE: Distributor writes the mailbox once it is Empty and sets it Full (R362). -/
  | mailboxWrite
  /-- REGGROW_GRANT: Core grants all requested rows at once (R364). -/
  | reggrowGrant
  /-- FORKW_COPY_PLACEMENT: Dispatcher places the fork's copies once room and tags are free (R429). -/
  | forkwCopyPlacement
  /-- VIEW_RETAG: L2 slices finish retagging a committed view's lines, freeing its tag (R418). -/
  | viewRetag
  /-- HEARTBEAT_TICK: Heartbeat tick delivered to every core in one cycle (R16). -/
  | heartbeatTick
  /-- RESULT_WRITEBACK: Class F result written after its fixed latency (R58). -/
  | resultWriteback
  /-- INSTRUCTION_COMPLETION: Class V operation completes, writes its destination and decrements its counter (R60). -/
  | instructionCompletion
  /-- INSTRUCTION_FETCH_FILL: Fetch agent fills a missed instruction line to the chiplet's cores (R184). -/
  | instructionFetchFill
  /-- PAGE_WALK: Walker finishes reading table entries and makes or fails a translation (R114). -/
  | pageWalk
  /-- PAGE_FAULT_ANSWER: System software answers resolved or fatal for a logged fault (R128). -/
  | pageFaultAnswer
  /-- ATS_TRANSLATION_COMPLETION: Host answers an ATS translation request (R123). -/
  | atsTranslationCompletion
  /-- PAGE_REQUEST_GROUP_RESPONSE: Host PRI response replays or fails the held access (R123). -/
  | pageRequestGroupResponse
  /-- ATS_INVALIDATION: Host invalidation request drops matching translations (R123). -/
  | atsInvalidation
  /-- PASID_TEARDOWN: Host tears down a PASID and the device frees it in order (R124). -/
  | pasidTeardown
  /-- VAULT_BANK_ACCESS: Local or qualified access performed at its bank on arrival (R167). -/
  | vaultBankAccess
  /-- SEGMENT_TRANSIT_END: Mapped page leaves In transit for Owned, Shared or Invalid (R180). -/
  | segmentTransitEnd
  /-- TIER_ENTRY_START: Copy engine starts an eligible tier-schedule entry (R105). -/
  | tierEntryStart
  /-- COPY_ITEM_TURN: Engine moves one 4 KiB round-robin turn of an item (R151). -/
  | copyItemTurn
  /-- COPY_ITEM_COMPLETION: Item completion release, status write and counter decrement (R147). -/
  | copyItemCompletion
  /-- REPLICA_REFETCH: Firmware rewrites poisoned granules from the replica (R110). -/
  | replicaRefetch
  /-- MX_ALLOC_GRANT: Engine grants the head MXALLOC request when cells and tiles are free (R251). -/
  | mxAllocGrant
  /-- MX_ENTRY_GRANT: Arbiter grants the eligible entry of highest priority (R265). -/
  | mxEntryGrant
  /-- MX_ENTRY_COMPLETION: Entry completion release, status write and counter decrement (R266). -/
  | mxEntryCompletion
  /-- LINK_REPLAY: Receiver asks for a bad flit and the sender replays it (R308). -/
  | linkReplay
  /-- PORT_FAILURE: A flit fails replay 16 times; the port is retired and requests reissued (R311). -/
  | portFailure
  /-- PUT_DELIVERY: Target writes PUT chunks, releases, increments TGT and raises IRQ (R316). -/
  | putDelivery
  /-- PUT_ACKNOWLEDGEMENT: Source decrements SRC and the PUT's counter, recording errors (R316). -/
  | putAcknowledgement
  /-- GET_REQUEST: Target reads its window for a GET (R317). -/
  | getRequest
  /-- GET_RESPONSE: GET data written at the destination and counter decremented (R317). -/
  | getResponse
  /-- NMO_REQUEST: Pool node performs a near-memory operation indivisibly (R320). -/
  | nmoRequest
  /-- NMO_RESPONSE: Results and STATUS written into the record (R320). -/
  | nmoResponse
  /-- POOL_ATOMIC_REQUEST: Pool node performs a pod-scope atomic, combining integer adds (R321). -/
  | poolAtomicRequest
  /-- COLLECTIVE_CHUNK: Pool node receives a member chunk and reduces or forwards it (R322). -/
  | collectiveChunk
  /-- HOST_MEMORY_ACCESS: Host CXL.mem access to device DRAM at the home slices (R328). -/
  | hostMemoryAccess
  /-- QUEUE_TABLE_READ: Scanner reads a context's queue table every 800,000 cycles (R366). -/
  | queueTableRead
  /-- SCANNER_READ: Scanner reads a due queue's write index and adjusts its interval (R371). -/
  | scannerRead
  /-- NOP: NOP packet starts and completes at once (R369). -/
  | nop
  /-- LAUNCH: LAUNCH packet submits a launch record (R369). -/
  | launch
  /-- INDIRECT: INDIRECT packet runs a prologue on a batten core (R373). -/
  | indirect
  /-- PROLOGUE_LAUNCH: Prologue exit code 0 launches the record (R373). -/
  | prologueLaunch
  /-- PROLOGUE_CANCEL: Prologue exit code 1 completes the packet with no launch (R373). -/
  | prologueCancel
  /-- PROLOGUE_REPEAT: Prologue exit code 2 launches and reruns the prologue afterwards (R373). -/
  | prologueRepeat
  /-- PROLOGUE_BUDGET_EXCEEDED: Prologue passes 1,048,576 instructions; queue stops (R373). -/
  | prologueBudgetExceeded
  /-- SIGNAL: SIGNAL packet stores VALUE to ADDR (R369). -/
  | signal
  /-- WAITGE: WAITGE packet waits for a word to reach VALUE (R369). -/
  | waitge
  /-- ARBITER_VISIT: Arbiter visits an active queue and starts packets under its deficit (R374). -/
  | arbiterVisit
  /-- BLOCK_PLACEMENT: Dispatcher places a block on a core or cluster (R377). -/
  | blockPlacement
  /-- GROUP_COMPLETION: Exited group completes once its counters read zero (R355). -/
  | groupCompletion
  /-- QUEUE_RESTART: Host command restarts a stopped queue at an index (R370). -/
  | queueRestart
  /-- PREEMPTION_REQUEST: Pre-emption request applies drain, flush or save to blocks (R394). -/
  | preemptionRequest
  /-- DRAIN_EXHAUSTED: Draining block issues DRAIN instructions and turns to saving (R396). -/
  | drainExhausted
  /-- DRAIN_TIMEOUT: 4,096 ticks pass while draining; block turns to saving (R396). -/
  | drainTimeout
  /-- BLOCK_SAVE: Block's image written once its work has stopped (R398). -/
  | blockSave
  /-- BLOCK_RESTORE: Saved block restored and resumed (R399). -/
  | blockRestore
  /-- SNAPSHOT_CLAIM: Host request claims a snapshot colour (R436). -/
  | snapshotClaim
  /-- SNAPSHOT_CUT: Package takes its cut and sends markers (R439). -/
  | snapshotCut
  /-- MARKER_ARRIVAL: Marker arrives on a channel, closing its log or starting a cut (R441). -/
  | markerArrival
  /-- EAVE_SWEEP: Streamer sweeps and stages an unpreserved granule (R447). -/
  | eaveSweep
  /-- STREAMER_WRITE: Streamer writes a record to the destination (R450). -/
  | streamerWrite
  /-- COLOUR_CLOSING: Directory writes header and status; colour becomes Free (R453). -/
  | colourClosing
  /-- SNAPSHOT_FAILURE: Colour fails with a code and its state is discarded (R452). -/
  | snapshotFailure
  /-- UNCORRECTABLE_ERROR: Uncorrectable storage error handled by its fate (R461). -/
  | uncorrectableError
  /-- PAGE_SCRUB: Firmware scrubs a quarantined page (R467). -/
  | pageScrub
  /-- OPPORTUNISTIC_REPLAY: Idle partition re-executes a queued instruction and compares (R465). -/
  | opportunisticReplay
  /-- RIDGE_MISMATCH: Lock-step mismatch halts the Ridge pair and replays the journal (R468). -/
  | ridgeMismatch
  /-- COLD_RESET: Power-on or command resets everything (R474). -/
  | coldReset
  /-- WARM_RESET: Contexts contained and firmware restarted (R474). -/
  | warmReset
  /-- FUNCTION_LEVEL_RESET: FLR tears down the virtual function's context (R474). -/
  | functionLevelReset
  /-- THERMAL_TRIP: Trip temperature forces a warm reset (R475). -/
  | thermalTrip
  /-- GET_VERSION: SPDM version request (R470). -/
  | getVersion
  /-- GET_CAPABILITIES: SPDM capabilities request (R470). -/
  | getCapabilities
  /-- NEGOTIATE_ALGORITHMS: SPDM algorithm negotiation (R470). -/
  | negotiateAlgorithms
  /-- GET_DIGESTS: SPDM digests request (R470). -/
  | getDigests
  /-- GET_CERTIFICATE: SPDM certificate request (R470). -/
  | getCertificate
  /-- CHALLENGE: SPDM challenge (R470). -/
  | challenge
  /-- GET_MEASUREMENTS: Signed measurement blocks returned (R470). -/
  | getMeasurements
  /-- IMAGE_STAGE: Host writes a firmware image that passes checks (R472). -/
  | imageStage
  /-- FIRMWARE_UPDATE: Host update command begins quiescing (R472). -/
  | firmwareUpdate
  /-- HANDOVER: Queues stopped; old image writes handover structure (R472). -/
  | handover
  /-- TRIAL_HEARTBEAT: New image's first heartbeat commits the update (R472). -/
  | trialHeartbeat
  /-- UPDATE_ROLLBACK: No heartbeat in 65,536 ticks; old image resumes (R472). -/
  | updateRollback
  /-- POWER_CAP: Command sets the power cap (R476). -/
  | powerCap
  /-- TELEMETRY: Command returns telemetry (R476). -/
  | telemetry
  /-- ERROR_LOG: Command reads the error log (R476). -/
  | errorLog
  /-- QUARANTINE_LIST: Command reads the quarantine list (R467). -/
  | quarantineList
  /-- IMAGE_TRANSFER: Command reads or writes saved images (R409). -/
  | imageTransfer
  /-- CREATE: Creates a context from a descriptor (R478). -/
  | create
  /-- DESTROY: Removes a context (R479). -/
  | destroy
  /-- RESTORE: Loads an image or snapshot into a created context (R478). -/
  | restore
  /-- CORRECTED_ERROR: A correctable storage error is repaired in place and counted in the error log (R461). -/
  | correctedError
  /-- THROTTLE: Sensed power or junction temperature reaches the cap or the throttle point, so the device gates partition issue and matrix plane cycles (R475). -/
  | throttle
  /-- TRIP_RELEASE: Junction temperature falls below 85 °C, ending the warm reset held since a thermal trip (R475). -/
  | tripRelease
  /-- HDM_DECODER_COMMIT: The host commits or changes a CXL HDM decoder, which takes effect only once no context is resident (R101). -/
  | hdmDecoderCommit
  /-- WINDOW_OF_ARRIVAL_END: A pool node's 64-cycle window of arrival for combining ends, and one add of the sum goes to the near-memory unit with the replies split (R321). -/
  | windowOfArrivalEnd
  deriving DecidableEq, Repr

end Sys2Proof
end

