-- ==== Sys2Proof/Decode.lean ====
section
/-! DEFINITION. The decoder of R41 to R51 and R65 to R69 (file 02) with the checks of R65 step 1, which depend on the word alone,
and the encoder written from the same tables. A word that R65 step 1 refuses decodes to illegalInstr, whose meaning raises ILLEGAL_INSTR. -/

namespace Sys2Proof

/-- Bits hi to lo of a 64-bit word as a number of the asked width. -/
def bitsAt (w : DWord) (lo n : Nat) : BitVec n := w.extractLsb' lo n

/-- Latency classes (R58); a hint of major 0x3F has none (R69). -/
inductive Latency where
  | f2 | f4 | f6 | v | c | b | hint
  deriving DecidableEq, Repr

/-- What an instruction encodes as. -/
inductive Code where
  /-- A two-address halfword (R42). -/
  | two (op : BitVec 4) (vd vs : BitVec 5)
  /-- Another halfword (R43 to R45). -/
  | half (w : Half)
  /-- A 32-bit word with its major (R48). -/
  | word (major : BitVec 6) (f : F32)
  /-- A 64-bit word with its major and minor (R50). -/
  | dword (major minor : BitVec 6) (f : F64)
  /-- An undefined word kept whole. -/
  | raw (w : DWord)
  /-- No word: the row is an event. -/
  | event
  deriving DecidableEq, Repr

/-- Length in bytes from the first halfword (R41). -/
def lengthOf (w : DWord) : Nat :=
  if w.getLsbD 0 then (if w.getLsbD 1 then 8 else 4) else 2

/-- The latency class of a 64-bit major and minor (R68). CVT is F6 when either type is 64 bits wide. -/
def latency64 (maj min : Nat) (f : F64) : Latency :=
  match maj with
  | 0x00 => if min = 5 ∨ min = 6 then .v else .f4
  | 0x01 => if min = 5 ∨ min = 6 then .v else .f6
  | 0x02 => .f4
  | 0x03 => .f4
  | 0x04 => if 8 ≤ min ∧ min ≤ 0xF then .v else .f4
  | 0x05 => if 8 ≤ min ∧ min ≤ 0xF then .v else .f6
  | 0x06 => .f4
  | 0x07 =>
    if min = 0 then
      (let d := f.s3.extractLsb' 0 4; let s := f.s3.extractLsb' 4 4
       if d = 6 ∨ d = 7 ∨ d = 0xD ∨ s = 6 ∨ s = 7 ∨ s = 0xD then .f6 else .f4)
    else if min = 3 ∨ min = 5 ∨ min = 6 then .v else .f4
  | 0x08 => if min ≤ 1 then .f4 else .v
  | 0x09 => .f2
  | 0x0A => if min = 2 ∨ min = 0xB ∨ min = 0xC then .f4 else .f2
  | 0x0B => if min = 2 then .f4 else .f2
  | 0x0C => .f2
  | 0x0D => if min = 0 then .f4 else .f2
  | 0x10 => if min = 2 then .c else if min = 0x18 then .b else .v
  | 0x11 => if min = 2 then .v else .f2
  | 0x12 => .v
  | 0x13 => .v
  | 0x14 => .v
  | 0x15 => .v
  | 0x18 => .c
  | 0x19 => if min = 1 ∨ min = 7 then .c else if min = 2 then .f2 else if min = 5 then .v else .b
  | 0x1A => if min = 3 then .f4 else if min = 4 then .b else if min ≤ 2 then .c else .v
  | 0x1B => if min = 0 then .b else if min = 1 then .v else if min = 2 then .f2 else .c
  | 0x1C => .v
  | _ => .hint

/-- A latching instruction: class F4 or F6 and a vector destination (R62). -/
def latching64 (maj min : Nat) (f : F64) : Bool :=
  let l := latency64 maj min f
  (l = .f4 || l = .f6) &&
    (match maj with
     | 0x00 => min != 0x1A
     | 0x01 => min != 0x1A
     | 0x02 => min != 0x1A
     | 0x03 => true
     | 0x04 => min != 6
     | 0x05 => min != 6
     | 0x06 => true
     | 0x07 => true
     | 0x08 => min == 0
     | 0x0A => min == 0xB
     | _ => false)

/-- MOD[61:60], MOD[63:62] and the single MOD bits. -/
def F64.modLow (f : F64) : BitVec 2 := f.mod.extractLsb' 0 2
/-- MOD[63:62]. -/
def F64.modHigh (f : F64) : BitVec 2 := f.mod.extractLsb' 2 2
/-- MOD bit k, k from 0 for bit 60. -/
def F64.modBit (f : F64) (k : Nat) : Bool := f.mod.getLsbD k
/-- S3[3:0], a type code (R76). -/
def F64.type (f : F64) : BitVec 4 := f.s3.extractLsb' 0 4
/-- S3[7:4], a second type code. -/
def F64.type2 (f : F64) : BitVec 4 := f.s3.extractLsb' 4 4

/-- MOD of the integer majors (R217, R218). -/
def modInt (wide : Bool) (min : Nat) (f : F64) : Bool :=
  match min with
  | 0x00 => f.mod == 0 || f.mod == 1 || f.mod == 3
  | 0x01 => f.mod == 0 || f.mod == 1 || f.mod == 3
  | 0x03 => f.mod.toNat ≤ 1
  | 0x05 => f.mod.toNat ≤ 1
  | 0x06 => f.mod.toNat ≤ 1
  | 0x07 => f.mod.toNat ≤ 1
  | 0x08 => f.mod.toNat ≤ 1
  | 0x13 => f.mod.toNat ≤ 1
  | 0x19 => wide || f.mod.toNat < 8
  | 0x1A => f.mod.toNat ≤ 9
  | _ => f.mod == 0

/-- MOD of the floating-point majors (R222). -/
def modFloat (min : Nat) (f : F64) : Bool :=
  if min = 6 then true
  else if min = 7 then f.mod == 0
  else if min ≤ 3 ∨ min = 0xA ∨ min = 0xB ∨ min = 0x10 ∨ min = 0x11 then !f.modBit 3
  else !f.modBit 3 && f.modLow == 0

/-- The integer type codes of R76 other than packed I4. -/
def isIntType (t : BitVec 4) : Bool := t.toNat ≤ 7

/-- MOD and the control fields of major 0x07 (R229 to R233). -/
def modConvert (min : Nat) (f : F64) : Bool :=
  match min with
  | 0 =>
    f.type.toNat < 0xE && f.type2.toNat < 0xE && !f.modBit 3 &&
      (!f.modBit 2 || f.type == 8 || f.type == 9 || f.type == 0xA || f.type == 0xB || (isIntType f.type && isIntType f.type2))
  | 1 => (f.modLow == 0 && f.modHigh == 0) || (f.modLow == 1 && f.modHigh.toNat ≤ 1) || f.modLow == 2
  | 2 =>
    f.modLow != 3 && f.modHigh == 0 && (f.imm16.extractLsb' 4 12 == 0) &&
      (let e := (f.imm16.extractLsb' 0 3).toNat
       if f.modLow == 0 then e ≤ 1 else if f.modLow == 1 then e ≤ 3 else true)
  | 3 => (f.type == 0xC || f.type == 0xA || f.type == 0xB || f.type == 8 || f.type == 9) && f.type2 == 0 && f.mod == 0
  | 4 => true
  | _ =>
    (f.type == 8 || f.type == 9 || f.type == 0xA || f.type == 0xB || f.type == 0 || f.type == 0xE) && f.type2 == 0 &&
      f.mod.toNat ≤ 1

/-- MOD and the control fields of major 0x08 (R235 to R239). -/
def modExchange (min : Nat) (f : F64) : Bool :=
  let redux := (f.type.toNat ≥ 4 && f.type.toNat ≤ 7 || f.type == 0xC || f.type == 0xD) && f.type2 == 0 &&
    (let op := (f.mod.extractLsb' 0 3).toNat
     op ≤ 5 && (op < 3 || f.type.toNat ≤ 7))
  match min with
  | 0 => !f.modBit 3
  | 1 => !f.modBit 3 && (!f.modBit 2 || f.modLow == 3)
  | 2 => redux && !f.modBit 3
  | 3 => redux
  | _ => f.mod == 0 || f.mod == 4

/-- MOD of the scalar majors (R241). -/
def modScalar (min : Nat) (f : F64) : Bool :=
  match min with
  | 7 => f.mod.toNat ≤ 1
  | 8 => f.mod.toNat ≤ 9
  | 0xB => f.mod == 0 || f.mod == 4
  | 0xC => f.mod == 0 || f.mod == 4
  | _ => f.mod == 0

/-- MOD and the guard of the control major (R351). -/
def modControl (min : Nat) (f : F64) : Bool :=
  match min with
  | 1 => f.modLow != 3 && f.modHigh == 0 && f.pred == 0 && !f.pneg
  | 3 => !f.modBit 3 && f.pred == 0 && !f.pneg
  | _ => f.mod == 0

/-- BAR and BARA: the id's range, imm16[15:8] and the reduction (R350 fault 1). -/
def modBar (f : F64) : Bool :=
  let id := (f.imm16.extractLsb' 0 4).toNat
  (f.imm16.extractLsb' 8 8 == 0) && (f.modHigh == 0 || f.modLow == 2) &&
    (if f.modLow == 0 then id = 0 else if f.modLow == 1 then true else id ≤ 3)

/-- MOD and the control fields of major 0x19 (R350, R356, R358, R359, R361, R364). -/
def modSync (min : Nat) (f : F64) : Bool :=
  match min with
  | 0 => modBar f
  | 1 => modBar f
  | 2 => f.mod.toNat ≤ 1
  | 4 => f.mod.toNat ≤ 1
  | 5 => f.mod.toNat ≤ 1
  | _ => f.mod == 0

/-- The SCOPE field of sub-format M (R186). -/
def F64.scope (f : F64) : BitVec 3 := f.s3.extractLsb' 4 3
/-- S3[7] of sub-format M: FEQ or W64 (R186). -/
def F64.s3Top (f : F64) : Bool := f.s3.getLsbD 7

/-- TYPE codes that a memory access takes (R186). -/
def memType (f : F64) : Bool := f.type.toNat < 0xE

/-- OP against W64 (R198). -/
def atomOp (f : F64) : Bool := f.type.toNat ≤ 12 || (f.type.toNat ≤ 14 && !f.s3Top)

/-- MOD and S3 of the memory major (R186, R193, R198, R202). -/
def modMemory (min : Nat) (f : F64) : Bool :=
  let ord := f.modLow
  let pro := f.modBit 2
  let plainScope := ord != 0 || f.scope == 0
  match min with
  | 0x00 => (ord == 0 || ord == 1) && (!pro || ord == 1) && !f.s3Top && plainScope && memType f
  | 0x01 => (ord == 0 || ord == 2) && !pro && !f.s3Top && plainScope && memType f
  | 0x02 => ord != 3 && !pro && !f.s3Top && f.scope == 0 && memType f
  | 0x03 => (!pro || ord == 1 || ord == 3) && atomOp f
  | 0x04 => (ord == 0 || ord == 2) && !pro && atomOp f && f.type != 8 && f.type != 9
  | 0x08 => (ord == 0 || ord == 1) && (!pro || f.s3Top) && plainScope && memType f
  | 0x09 => (ord == 0 || ord == 2) && (!pro || f.s3Top) && plainScope && memType f
  | 0x0A => !pro && !f.modBit 3 && plainScope && atomOp f
  | 0x10 => (ord == 0 || ord == 1) && (!pro || ord == 1) && !f.s3Top && plainScope && memType f
  | 0x11 => (ord == 0 || ord == 2) && !pro && !f.s3Top && plainScope && memType f
  | _ => f.type == 0 && !f.s3Top && !f.modBit 3 && (!pro || ord == 1 || ord == 3) && (ord != 0 || f.scope != 6)

/-- MOD of the vault and segment major (R208). -/
def modVault (min : Nat) (f : F64) : Bool :=
  match min with
  | 0 => (f.mod.extractLsb' 1 2) == 0
  | 4 => f.mod == 0
  | 5 => f.mod == 0
  | _ => (f.mod.extractLsb' 0 3) == 0

/-- MOD of the fabric major (R324). -/
def modFabric (min : Nat) (f : F64) : Bool :=
  match min with
  | 0 => f.modHigh == 0
  | 1 => f.mod.toNat ≤ 1
  | 2 => f.modHigh == 0
  | _ => true

/-- MOD of the copy major (R155). -/
def modCopy (min : Nat) (f : F64) : Bool :=
  match min with
  | 3 => f.mod.toNat ≤ 1
  | 4 => f.mod.toNat ≤ 1
  | 5 => f.modHigh == 0
  | _ => f.mod == 0

/-- MOD of the matrix major (R280). -/
def modMatrix (min : Nat) (f : F64) : Bool :=
  match min with
  | 0 => f.modLow != 3 && f.modHigh == 0
  | 8 => f.modLow != 3 && f.modHigh == 0
  | 9 => f.mod.toNat ≤ 1
  | _ => f.mod == 0

/-- MOD and the fields marked 0 of the system major (R387, R134). -/
def modSystem (min : Nat) (f : F64) : Bool :=
  match min with
  | 0 => f.mod == 0 && f.imm16.extractLsb' 8 8 == 0
  | 1 => f.mod == 0 && f.imm16.extractLsb' 8 8 == 0
  | 2 => f.mod == 0
  | 5 => f.modLow != 3 && f.modHigh == 0 && f.s3.extractLsb' 3 5 == 0
  | 6 => f.mod == 0 && f.s3.extractLsb' 3 5 == 0
  | _ => f.mod == 0 && f.imm16.extractLsb' 12 4 == 0

/-- MOD and the fields marked 0 of the worlds major (R427). -/
def modWorlds (min : Nat) (f : F64) : Bool :=
  match min with
  | 0 => f.mod == 0 && f.imm16.extractLsb' 4 12 == 0
  | 1 => f.mod.toNat ≤ 1
  | 2 => f.modLow != 3 && f.modHigh == 0
  | _ => f.mod == 0

/-- MOD and the control fields of a 64-bit instruction: each defined value of R56. -/
def controlOk64 (maj min : Nat) (f : F64) : Bool :=
  match maj with
  | 0x00 => modInt false min f
  | 0x01 => modInt true min f
  | 0x02 => modInt false min f
  | 0x03 => f.mod == 0
  | 0x04 => modFloat min f
  | 0x05 => modFloat min f
  | 0x06 => min == 6 || f.mod.extractLsb' 0 3 == 0
  | 0x07 => modConvert min f
  | 0x08 => modExchange min f
  | 0x09 => if min = 4 then f.mod.toNat ≤ 2 else f.mod == 0
  | 0x0A => modScalar min f
  | 0x0B => modScalar min f
  | 0x0C => f.mod == 0 && (min != 2 || f.imm24.extractLsb' 16 8 == 0)
  | 0x0D => min == 0 || (min == 1 && f.modHigh == 0) || f.mod == 0
  | 0x10 => modMemory min f
  | 0x11 => if min = 2 then f.mod.toNat ≤ 11 else f.mod == 0
  | 0x12 => modVault min f
  | 0x13 => modFabric min f
  | 0x14 => modCopy min f
  | 0x15 => modMatrix min f
  | 0x18 => modControl min f
  | 0x19 => modSync min f
  | 0x1A => modSystem min f
  | 0x1B => modWorlds min f
  | 0x1C => if min = 0 then f.mod.toNat ≤ 1 else f.modHigh == 0
  | _ => true

/-- CNT 12 to 14 are undefined, class V needs a counter and classes C and B take none (R50, R55). -/
def counterOk (l : Latency) (cnt : BitVec 4) : Bool :=
  match l with
  | .hint => true
  | .v => cnt.toNat < 12
  | .c => cnt == 15
  | .b => cnt == 15
  | _ => cnt.toNat < 12 || cnt == 15

/-- R65 step 1 for a 64-bit word whose major and minor are assigned. -/
def wordOk64 (maj min : Nat) (f : F64) : Bool :=
  maj == 0x3F ||
  (counterOk (latency64 maj min f) f.cnt && (!f.nowb || latching64 maj min f) && controlOk64 maj min f)

/-- MOD of the 32-bit majors (R66); the hint ignores it. -/
def wordOk32 (maj : Nat) (f : F32) : Bool :=
  !f.mod || maj == 0x3F || maj ≤ 1 || maj == 3 || maj == 5 || maj == 6 || maj == 0x15 || (0x18 ≤ maj && maj ≤ 0x2D)

/-- The words whose constructors Lean's compiled code cannot build (it builds at most 244 constructors that carry data), held
apart so that everything but the last step of decoding, Rare.toInstr, runs. -/
inductive Rare where
  | xret (f : F64) | mtx (f : F64) | mtxXpc (f : F64) | mtxVbudget (f : F64) | mtxVpsize (f : F64) | mtxVpbase (f : F64)
  | tlbinv (f : F64) | icinv (f : F64) | snap (f : F64) | snapst (f : F64) | nop64 (minor : BitVec 6) (f : F64) | illegalInstr (w : DWord)
  deriving DecidableEq, Repr

/-- The instruction of such a word. -/
noncomputable def Rare.toInstr : Rare → Instr
  | .xret f => .xret f
  | .mtx f => .mtx f
  | .mtxXpc f => .mtxXpc f
  | .mtxVbudget f => .mtxVbudget f
  | .mtxVpsize f => .mtxVpsize f
  | .mtxVpbase f => .mtxVpbase f
  | .tlbinv f => .tlbinv f
  | .icinv f => .icinv f
  | .snap f => .snap f
  | .snapst f => .snapst f
  | .nop64 minor f => .nop64 minor f
  | .illegalInstr w => .illegalInstr w

/-- A word decoded. -/
inductive Decoded where
  | common (i : Instr)
  | rare (r : Rare)
  deriving DecidableEq, Repr

/-- The decoded word as an instruction. -/
noncomputable def Decoded.toInstr : Decoded → Instr
  | .common i => i
  | .rare r => r.toInstr

/-- The MTX of a register number: the rows of the opcode table for XPC and XDEPTH (R389), VBUDGET (R417), VPSIZE (R416)
and VPBASE (R414), and the plain row for the others (R390). -/
def candMtx (f : F64) : Rare :=
  let num := (f.imm16.extractLsb' 0 12).toNat
  if num = 0x100 ∨ num = 0x284 then .mtxXpc f
  else if num = 0x004 then .mtxVbudget f
  else if num = 0x207 then .mtxVpsize f
  else if num = 0x205 then .mtxVpbase f
  else .mtx f

/-- The instruction a 16-bit two-address code names (R42). -/
def cand16 (op : Nat) (vd vs : BitVec 5) : Option Instr :=
  match op with
  | 0 => some (.mov16 vd vs)
  | 1 => some (.iadd16 vd vs)
  | 2 => some (.isub16 vd vs)
  | 3 => some (.imul16 vd vs)
  | 4 => some (.and16 vd vs)
  | 5 => some (.or16 vd vs)
  | 6 => some (.xor16 vd vs)
  | 7 => some (.shl16 vd vs)
  | 8 => some (.shr16 vd vs)
  | 9 => some (.sar16 vd vs)
  | 10 => some (.imin16 vd vs)
  | 11 => some (.imax16 vd vs)
  | 12 => some (.faddF32_16 vd vs)
  | 13 => some (.fsubF32_16 vd vs)
  | 14 => some (.fmulF32_16 vd vs)
  | 15 => some (.fmaxF32_16 vd vs)
  | _ => none

/-- The instruction a 32-bit major names (R66). -/
def cand32 (maj : Nat) (f : F32) : Option Instr :=
  match maj with
  | 0x00 => some (.iadd32 f)
  | 0x01 => some (.isub32 f)
  | 0x02 => some (.imul32 f)
  | 0x03 => some (.imulh32 f)
  | 0x04 => some (.imad32 f)
  | 0x05 => some (.imin32 f)
  | 0x06 => some (.imax32 f)
  | 0x07 => some (.iabs32 f)
  | 0x08 => some (.and32 f)
  | 0x09 => some (.or32 f)
  | 0x0A => some (.xor32 f)
  | 0x0B => some (.andn32 f)
  | 0x0C => some (.not32 f)
  | 0x0D => some (.shl32 f)
  | 0x0E => some (.shr32 f)
  | 0x0F => some (.sar32 f)
  | 0x10 => some (.rotl32 f)
  | 0x11 => some (.popc32 f)
  | 0x12 => some (.clz32 f)
  | 0x13 => some (.ctz32 f)
  | 0x14 => some (.brev32 f)
  | 0x15 => some (.lea32 f)
  | 0x16 => some (.mov32 f)
  | 0x18 => some (.faddF32_32 f)
  | 0x19 => some (.fsubF32_32 f)
  | 0x1A => some (.fmulF32_32 f)
  | 0x1B => some (.ffmaF32_32 f)
  | 0x1C => some (.fminF32_32 f)
  | 0x1D => some (.fmaxF32_32 f)
  | 0x1E => some (.fscaleF32_32 f)
  | 0x20 => some (.faddF64_32 f)
  | 0x21 => some (.fsubF64_32 f)
  | 0x22 => some (.fmulF64_32 f)
  | 0x23 => some (.ffmaF64_32 f)
  | 0x24 => some (.fminF64_32 f)
  | 0x25 => some (.fmaxF64_32 f)
  | 0x28 => some (.faddX2_32 f)
  | 0x29 => some (.fsubX2_32 f)
  | 0x2A => some (.fmulX2_32 f)
  | 0x2B => some (.ffmaX2_32 f)
  | 0x2C => some (.fminX2_32 f)
  | 0x2D => some (.fmaxX2_32 f)
  | 0x3F => some (.nop32 f)
  | _ => none

/-- Minors of majors 0x00 and 0x01 (R68). -/
def candInt (wide : Bool) (min : Nat) (f : F64) : Option Decoded :=
  match min with
  | 0x00 => some (.common (.iadd wide f))
  | 0x01 => some (.common (.isub wide f))
  | 0x02 => some (.common (.imul wide f))
  | 0x03 => some (.common (.imulh wide f))
  | 0x04 => some (.common (.imad wide f))
  | 0x05 => some (.common (.idiv wide f))
  | 0x06 => some (.common (.irem wide f))
  | 0x07 => some (.common (.imin wide f))
  | 0x08 => some (.common (.imax wide f))
  | 0x09 => some (.common (.iabs wide f))
  | 0x0A => some (.common (.and wide f))
  | 0x0B => some (.common (.or wide f))
  | 0x0C => some (.common (.xor wide f))
  | 0x0D => some (.common (.andn wide f))
  | 0x0E => some (.common (.not wide f))
  | 0x0F => some (.common (.shl wide f))
  | 0x10 => some (.common (.shr wide f))
  | 0x11 => some (.common (.sar wide f))
  | 0x12 => some (.common (.rotl wide f))
  | 0x13 => some (.common (.bfx wide f))
  | 0x14 => some (.common (.bfi wide f))
  | 0x15 => some (.common (.popc wide f))
  | 0x16 => some (.common (.clz wide f))
  | 0x17 => some (.common (.ctz wide f))
  | 0x18 => some (.common (.brev wide f))
  | 0x19 => some (.common (.lea wide f))
  | 0x1A => some (.common (.icmp wide f))
  | 0x1B => some (.common (.sel wide f))
  | 0x1C => some (.common (.mov wide f))
  | _ => none

/-- Minors of majors 0x04 and 0x05 (R68). -/
def candFloat (wide : Bool) (min : Nat) (f : F64) : Option Decoded :=
  match min with
  | 0x00 => some (.common (.fadd wide f))
  | 0x01 => some (.common (.fsub wide f))
  | 0x02 => some (.common (.fmul wide f))
  | 0x03 => some (.common (.ffma wide f))
  | 0x04 => some (.common (.fmin wide f))
  | 0x05 => some (.common (.fmax wide f))
  | 0x06 => some (.common (.fcmp wide f))
  | 0x07 => some (.common (.fclass wide f))
  | 0x08 => some (.common (.frcp wide f))
  | 0x09 => some (.common (.frsq wide f))
  | 0x0A => some (.common (.fsqrt wide f))
  | 0x0B => some (.common (.fdiv wide f))
  | 0x0C => some (.common (.fexp2 wide f))
  | 0x0D => some (.common (.flog2 wide f))
  | 0x0E => some (.common (.fsin wide f))
  | 0x0F => some (.common (.fcos wide f))
  | 0x10 => some (.common (.frnd wide f))
  | 0x11 => some (.common (.fscale wide f))
  | 0x12 => some (.common (.fgetexp wide f))
  | _ => none

/-- Minors of major 0x02 (R68). -/
def candMajor02 (min : Nat) (f : F64) : Option Decoded :=
  match min with
  | 0x00 => some (.common (.iaddImm f))
  | 0x02 => some (.common (.imulImm f))
  | 0x07 => some (.common (.iminImm f))
  | 0x08 => some (.common (.imaxImm f))
  | 0x0A => some (.common (.andImm f))
  | 0x0B => some (.common (.orImm f))
  | 0x0C => some (.common (.xorImm f))
  | 0x0F => some (.common (.shlImm f))
  | 0x10 => some (.common (.shrImm f))
  | 0x11 => some (.common (.sarImm f))
  | 0x12 => some (.common (.rotlImm f))
  | 0x13 => some (.common (.bfxImm f))
  | 0x14 => some (.common (.bfiImm f))
  | 0x1A => some (.common (.icmpImm f))
  | _ => none

/-- Minors of major 0x03 (R68). -/
def candMajor03 (min : Nat) (f : F64) : Option Decoded :=
  match min with
  | 0x00 => some (.common (.movi f))
  | 0x01 => some (.common (.moviHi f))
  | _ => none

/-- Minors of major 0x06 (R68). -/
def candMajor06 (min : Nat) (f : F64) : Option Decoded :=
  match min with
  | 0x00 => some (.common (.faddX2 f))
  | 0x01 => some (.common (.fsubX2 f))
  | 0x02 => some (.common (.fmulX2 f))
  | 0x03 => some (.common (.ffmaX2 f))
  | 0x04 => some (.common (.fminX2 f))
  | 0x05 => some (.common (.fmaxX2 f))
  | 0x06 => some (.common (.fcmpX2 f))
  | _ => none

/-- Minors of major 0x07 (R68). -/
def candMajor07 (min : Nat) (f : F64) : Option Decoded :=
  match min with
  | 0x00 => some (.common (.cvt f))
  | 0x01 => some (.common (.pack f))
  | 0x02 => some (.common (.unpack f))
  | 0x03 => some (.common (.amax f))
  | 0x04 => some (.common (.quant f))
  | 0x05 => some (.common (.plpack f))
  | 0x06 => some (.common (.plunpack f))
  | _ => none

/-- Minors of major 0x08 (R68). -/
def candMajor08 (min : Nat) (f : F64) : Option Decoded :=
  match min with
  | 0x00 => some (.common (.shfl f))
  | 0x01 => some (.common (.vote f))
  | 0x02 => some (.common (.redux f))
  | 0x03 => some (.common (.scan f))
  | 0x04 => some (.common (.matchLanes f))
  | _ => none

/-- Minors of major 0x09 (R68). -/
def candMajor09 (min : Nat) (f : F64) : Option Decoded :=
  match min with
  | 0x00 => some (.common (.pand f))
  | 0x01 => some (.common (.por f))
  | 0x02 => some (.common (.pxor f))
  | 0x03 => some (.common (.pnot f))
  | 0x04 => some (.common (.pmov f))
  | _ => none

/-- Minors of major 0x0A (R68). -/
def candMajor0A (min : Nat) (f : F64) : Option Decoded :=
  match min with
  | 0x00 => some (.common (.sadd f))
  | 0x01 => some (.common (.ssub f))
  | 0x02 => some (.common (.smul f))
  | 0x03 => some (.common (.sand f))
  | 0x04 => some (.common (.sor f))
  | 0x05 => some (.common (.sxor f))
  | 0x06 => some (.common (.sshl f))
  | 0x07 => some (.common (.sshr f))
  | 0x08 => some (.common (.scmp f))
  | 0x09 => some (.common (.ssel f))
  | 0x0A => some (.common (.smov f))
  | 0x0B => some (.common (.bcast f))
  | 0x0C => some (.common (.rdlane f))
  | _ => none

/-- Minors of major 0x0B (R68). -/
def candMajor0B (min : Nat) (f : F64) : Option Decoded :=
  match min with
  | 0x00 => some (.common (.saddImm f))
  | 0x01 => some (.common (.ssubImm f))
  | 0x02 => some (.common (.smulImm f))
  | 0x03 => some (.common (.sandImm f))
  | 0x04 => some (.common (.sorImm f))
  | 0x05 => some (.common (.sxorImm f))
  | 0x06 => some (.common (.sshlImm f))
  | 0x07 => some (.common (.sshrImm f))
  | 0x08 => some (.common (.scmpImm f))
  | _ => none

/-- Minors of major 0x0C (R68). -/
def candMajor0C (min : Nat) (f : F64) : Option Decoded :=
  match min with
  | 0x00 => some (.common (.smovi f))
  | 0x01 => some (.common (.smoviMid f))
  | 0x02 => some (.common (.smoviTop f))
  | _ => none

/-- Minors of major 0x0D (R68). -/
def candMajor0D (min : Nat) (f : F64) : Option Decoded :=
  match min with
  | 0x00 => some (.common (.wset f))
  | 0x01 => some (.common (.wstat f))
  | 0x02 => some (.common (.wrew f))
  | _ => none

/-- Minors of major 0x10 (R68). -/
def candMajor10 (min : Nat) (f : F64) : Option Decoded :=
  match min with
  | 0x00 => some (.common (.ldg f))
  | 0x01 => some (.common (.stg f))
  | 0x02 => some (.common (.pref f))
  | 0x03 => some (.common (.atomg f))
  | 0x04 => some (.common (.redg f))
  | 0x08 => some (.common (.ldl f))
  | 0x09 => some (.common (.stl f))
  | 0x0A => some (.common (.atoml f))
  | 0x10 => some (.common (.sld f))
  | 0x11 => some (.common (.sst f))
  | 0x18 => some (.common (.fence f))
  | _ => none

/-- Minors of major 0x11 (R68). -/
def candMajor11 (min : Nat) (f : F64) : Option Decoded :=
  match min with
  | 0x00 => some (.common (.locid f))
  | 0x01 => some (.common (.scopeof f))
  | 0x02 => some (.common (.scopecost f))
  | _ => none

/-- Minors of major 0x12 (R68). -/
def candMajor12 (min : Nat) (f : F64) : Option Decoded :=
  match min with
  | 0x00 => some (.common (.vmap f))
  | 0x01 => some (.common (.vunmap f))
  | 0x02 => some (.common (.sjoin f))
  | 0x03 => some (.common (.sleave f))
  | 0x04 => some (.common (.feset f))
  | 0x05 => some (.common (.feclr f))
  | _ => none

/-- Minors of major 0x13 (R68). -/
def candMajor13 (min : Nat) (f : F64) : Option Decoded :=
  match min with
  | 0x00 => some (.common (.put f))
  | 0x01 => some (.common (.get f))
  | 0x02 => some (.common (.wcnt f))
  | 0x03 => some (.common (.nmo f))
  | _ => none

/-- Minors of major 0x14 (R68). -/
def candMajor14 (min : Nat) (f : F64) : Option Decoded :=
  match min with
  | 0x00 => some (.common (.tcopy f))
  | 0x01 => some (.common (.tgather f))
  | 0x02 => some (.common (.tscatter f))
  | 0x03 => some (.common (.tcoll f))
  | 0x04 => some (.common (.tcancel f))
  | 0x05 => some (.common (.tsched f))
  | 0x06 => some (.common (.tstat f))
  | _ => none

/-- Minors of major 0x15 (R68). -/
def candMajor15 (min : Nat) (f : F64) : Option Decoded :=
  match min with
  | 0x00 => some (.common (.mxalloc f))
  | 0x01 => some (.common (.mxfree f))
  | 0x02 => some (.common (.mxwload f))
  | 0x03 => some (.common (.mxrun f))
  | 0x04 => some (.common (.mxdrain f))
  | 0x05 => some (.common (.mxfill f))
  | 0x06 => some (.common (.mxzero f))
  | 0x07 => some (.common (.mxfence f))
  | 0x08 => some (.common (.mxstat f))
  | 0x09 => some (.common (.mxcancel f))
  | _ => none

/-- Minors of major 0x18 (R68). -/
def candMajor18 (min : Nat) (f : F64) : Option Decoded :=
  match min with
  | 0x00 => some (.common (.bra f))
  | 0x01 => some (.common (.brc f))
  | 0x02 => some (.common (.brx f))
  | 0x03 => some (.common (.brw f))
  | 0x04 => some (.common (.call f))
  | 0x05 => some (.common (.callx f))
  | 0x06 => some (.common (.ret f))
  | 0x07 => some (.common (.exit f))
  | _ => none

/-- Minors of major 0x19 (R68). -/
def candMajor19 (min : Nat) (f : F64) : Option Decoded :=
  match min with
  | 0x00 => some (.common (.bar f))
  | 0x01 => some (.common (.bara f))
  | 0x02 => some (.common (.elect f))
  | 0x03 => some (.common (.sleep f))
  | 0x04 => some (.common (.spawn f))
  | 0x05 => some (.common (.fetchw f))
  | 0x06 => some (.common (.reggrow f))
  | 0x07 => some (.common (.regshrink f))
  | _ => none

/-- Minors of major 0x1A (R68). -/
def candMajor1A (min : Nat) (f : F64) : Option Decoded :=
  match min with
  | 0x00 => some (.common (.trap f))
  | 0x01 => some (.common (.brk f))
  | 0x02 => some (.rare (.xret f))
  | 0x03 => some (.common (.mfx f))
  | 0x05 => some (.rare (.tlbinv f))
  | 0x06 => some (.rare (.icinv f))
  | 0x04 => some (.rare (candMtx f))
  | _ => none

/-- Minors of major 0x1B (R68). -/
def candMajor1B (min : Nat) (f : F64) : Option Decoded :=
  match min with
  | 0x00 => some (.common (.forkw f))
  | 0x01 => some (.common (.choose f))
  | 0x02 => some (.common (.world f))
  | 0x03 => some (.common (.abandon f))
  | _ => none

/-- Minors of major 0x1C (R68). -/
def candMajor1C (min : Nat) (f : F64) : Option Decoded :=
  match min with
  | 0x00 => some (.rare (.snap f))
  | 0x01 => some (.rare (.snapst f))
  | _ => none

/-- The instruction a 64-bit major and minor name (R67, R68, R69). -/
def cand64 (maj min : Nat) (f : F64) : Option Decoded :=
  match maj with
  | 0x00 => candInt false min f
  | 0x01 => candInt true min f
  | 0x04 => candFloat false min f
  | 0x05 => candFloat true min f
  | 0x02 => candMajor02 min f
  | 0x03 => candMajor03 min f
  | 0x06 => candMajor06 min f
  | 0x07 => candMajor07 min f
  | 0x08 => candMajor08 min f
  | 0x09 => candMajor09 min f
  | 0x0A => candMajor0A min f
  | 0x0B => candMajor0B min f
  | 0x0C => candMajor0C min f
  | 0x0D => candMajor0D min f
  | 0x10 => candMajor10 min f
  | 0x11 => candMajor11 min f
  | 0x12 => candMajor12 min f
  | 0x13 => candMajor13 min f
  | 0x14 => candMajor14 min f
  | 0x15 => candMajor15 min f
  | 0x18 => candMajor18 min f
  | 0x19 => candMajor19 min f
  | 0x1A => candMajor1A min f
  | 0x1B => candMajor1B min f
  | 0x1C => candMajor1C min f
  | 0x3F => some (.rare (.nop64 (BitVec.ofNat 6 min) f))
  | _ => none

/-- The encoding of an instruction, from the same tables: R42 to R45, R48 and R66, R50 and R68. An event has none. -/
def Instr.code : Instr → Code
  | .mov16 vd vs => .two 0 vd vs
  | .iadd16 vd vs => .two 1 vd vs
  | .isub16 vd vs => .two 2 vd vs
  | .imul16 vd vs => .two 3 vd vs
  | .and16 vd vs => .two 4 vd vs
  | .or16 vd vs => .two 5 vd vs
  | .xor16 vd vs => .two 6 vd vs
  | .shl16 vd vs => .two 7 vd vs
  | .shr16 vd vs => .two 8 vd vs
  | .sar16 vd vs => .two 9 vd vs
  | .imin16 vd vs => .two 10 vd vs
  | .imax16 vd vs => .two 11 vd vs
  | .faddF32_16 vd vs => .two 12 vd vs
  | .fsubF32_16 vd vs => .two 13 vd vs
  | .fmulF32_16 vd vs => .two 14 vd vs
  | .fmaxF32_16 vd vs => .two 15 vd vs
  | .wait m => .half (m ++ 0x2#4)
  | .nop16 imm => .half (imm ++ 0x06#8)
  | .yield => .half 0x0016
  | .brk16 imm => .half (imm ++ 0x26#8)
  | .exit16 => .half 0x0036
  | .trap16 imm => .half (imm ++ 0x46#8)
  | .brs o => .half (o ++ 0xA#4)
  | .iadd32 f => .word 0x00 f
  | .isub32 f => .word 0x01 f
  | .imul32 f => .word 0x02 f
  | .imulh32 f => .word 0x03 f
  | .imad32 f => .word 0x04 f
  | .imin32 f => .word 0x05 f
  | .imax32 f => .word 0x06 f
  | .iabs32 f => .word 0x07 f
  | .and32 f => .word 0x08 f
  | .or32 f => .word 0x09 f
  | .xor32 f => .word 0x0A f
  | .andn32 f => .word 0x0B f
  | .not32 f => .word 0x0C f
  | .shl32 f => .word 0x0D f
  | .shr32 f => .word 0x0E f
  | .sar32 f => .word 0x0F f
  | .rotl32 f => .word 0x10 f
  | .popc32 f => .word 0x11 f
  | .clz32 f => .word 0x12 f
  | .ctz32 f => .word 0x13 f
  | .brev32 f => .word 0x14 f
  | .lea32 f => .word 0x15 f
  | .mov32 f => .word 0x16 f
  | .faddF32_32 f => .word 0x18 f
  | .fsubF32_32 f => .word 0x19 f
  | .fmulF32_32 f => .word 0x1A f
  | .ffmaF32_32 f => .word 0x1B f
  | .fminF32_32 f => .word 0x1C f
  | .fmaxF32_32 f => .word 0x1D f
  | .fscaleF32_32 f => .word 0x1E f
  | .faddF64_32 f => .word 0x20 f
  | .fsubF64_32 f => .word 0x21 f
  | .fmulF64_32 f => .word 0x22 f
  | .ffmaF64_32 f => .word 0x23 f
  | .fminF64_32 f => .word 0x24 f
  | .fmaxF64_32 f => .word 0x25 f
  | .faddX2_32 f => .word 0x28 f
  | .fsubX2_32 f => .word 0x29 f
  | .fmulX2_32 f => .word 0x2A f
  | .ffmaX2_32 f => .word 0x2B f
  | .fminX2_32 f => .word 0x2C f
  | .fmaxX2_32 f => .word 0x2D f
  | .nop32 f => .word 0x3F f
  | .iadd wide f => .dword (if wide then 0x01 else 0x00) 0x00 f
  | .isub wide f => .dword (if wide then 0x01 else 0x00) 0x01 f
  | .imul wide f => .dword (if wide then 0x01 else 0x00) 0x02 f
  | .imulh wide f => .dword (if wide then 0x01 else 0x00) 0x03 f
  | .imad wide f => .dword (if wide then 0x01 else 0x00) 0x04 f
  | .idiv wide f => .dword (if wide then 0x01 else 0x00) 0x05 f
  | .irem wide f => .dword (if wide then 0x01 else 0x00) 0x06 f
  | .imin wide f => .dword (if wide then 0x01 else 0x00) 0x07 f
  | .imax wide f => .dword (if wide then 0x01 else 0x00) 0x08 f
  | .iabs wide f => .dword (if wide then 0x01 else 0x00) 0x09 f
  | .and wide f => .dword (if wide then 0x01 else 0x00) 0x0A f
  | .or wide f => .dword (if wide then 0x01 else 0x00) 0x0B f
  | .xor wide f => .dword (if wide then 0x01 else 0x00) 0x0C f
  | .andn wide f => .dword (if wide then 0x01 else 0x00) 0x0D f
  | .not wide f => .dword (if wide then 0x01 else 0x00) 0x0E f
  | .shl wide f => .dword (if wide then 0x01 else 0x00) 0x0F f
  | .shr wide f => .dword (if wide then 0x01 else 0x00) 0x10 f
  | .sar wide f => .dword (if wide then 0x01 else 0x00) 0x11 f
  | .rotl wide f => .dword (if wide then 0x01 else 0x00) 0x12 f
  | .bfx wide f => .dword (if wide then 0x01 else 0x00) 0x13 f
  | .bfi wide f => .dword (if wide then 0x01 else 0x00) 0x14 f
  | .popc wide f => .dword (if wide then 0x01 else 0x00) 0x15 f
  | .clz wide f => .dword (if wide then 0x01 else 0x00) 0x16 f
  | .ctz wide f => .dword (if wide then 0x01 else 0x00) 0x17 f
  | .brev wide f => .dword (if wide then 0x01 else 0x00) 0x18 f
  | .lea wide f => .dword (if wide then 0x01 else 0x00) 0x19 f
  | .icmp wide f => .dword (if wide then 0x01 else 0x00) 0x1A f
  | .sel wide f => .dword (if wide then 0x01 else 0x00) 0x1B f
  | .mov wide f => .dword (if wide then 0x01 else 0x00) 0x1C f
  | .fadd wide f => .dword (if wide then 0x05 else 0x04) 0x00 f
  | .fsub wide f => .dword (if wide then 0x05 else 0x04) 0x01 f
  | .fmul wide f => .dword (if wide then 0x05 else 0x04) 0x02 f
  | .ffma wide f => .dword (if wide then 0x05 else 0x04) 0x03 f
  | .fmin wide f => .dword (if wide then 0x05 else 0x04) 0x04 f
  | .fmax wide f => .dword (if wide then 0x05 else 0x04) 0x05 f
  | .fcmp wide f => .dword (if wide then 0x05 else 0x04) 0x06 f
  | .fclass wide f => .dword (if wide then 0x05 else 0x04) 0x07 f
  | .frcp wide f => .dword (if wide then 0x05 else 0x04) 0x08 f
  | .frsq wide f => .dword (if wide then 0x05 else 0x04) 0x09 f
  | .fsqrt wide f => .dword (if wide then 0x05 else 0x04) 0x0A f
  | .fdiv wide f => .dword (if wide then 0x05 else 0x04) 0x0B f
  | .fexp2 wide f => .dword (if wide then 0x05 else 0x04) 0x0C f
  | .flog2 wide f => .dword (if wide then 0x05 else 0x04) 0x0D f
  | .fsin wide f => .dword (if wide then 0x05 else 0x04) 0x0E f
  | .fcos wide f => .dword (if wide then 0x05 else 0x04) 0x0F f
  | .frnd wide f => .dword (if wide then 0x05 else 0x04) 0x10 f
  | .fscale wide f => .dword (if wide then 0x05 else 0x04) 0x11 f
  | .fgetexp wide f => .dword (if wide then 0x05 else 0x04) 0x12 f
  | .iaddImm f => .dword 0x02 0x00 f
  | .imulImm f => .dword 0x02 0x02 f
  | .iminImm f => .dword 0x02 0x07 f
  | .imaxImm f => .dword 0x02 0x08 f
  | .andImm f => .dword 0x02 0x0A f
  | .orImm f => .dword 0x02 0x0B f
  | .xorImm f => .dword 0x02 0x0C f
  | .shlImm f => .dword 0x02 0x0F f
  | .shrImm f => .dword 0x02 0x10 f
  | .sarImm f => .dword 0x02 0x11 f
  | .rotlImm f => .dword 0x02 0x12 f
  | .bfxImm f => .dword 0x02 0x13 f
  | .bfiImm f => .dword 0x02 0x14 f
  | .icmpImm f => .dword 0x02 0x1A f
  | .movi f => .dword 0x03 0x00 f
  | .moviHi f => .dword 0x03 0x01 f
  | .faddX2 f => .dword 0x06 0x00 f
  | .fsubX2 f => .dword 0x06 0x01 f
  | .fmulX2 f => .dword 0x06 0x02 f
  | .ffmaX2 f => .dword 0x06 0x03 f
  | .fminX2 f => .dword 0x06 0x04 f
  | .fmaxX2 f => .dword 0x06 0x05 f
  | .fcmpX2 f => .dword 0x06 0x06 f
  | .cvt f => .dword 0x07 0x00 f
  | .pack f => .dword 0x07 0x01 f
  | .unpack f => .dword 0x07 0x02 f
  | .amax f => .dword 0x07 0x03 f
  | .quant f => .dword 0x07 0x04 f
  | .plpack f => .dword 0x07 0x05 f
  | .plunpack f => .dword 0x07 0x06 f
  | .shfl f => .dword 0x08 0x00 f
  | .vote f => .dword 0x08 0x01 f
  | .redux f => .dword 0x08 0x02 f
  | .scan f => .dword 0x08 0x03 f
  | .matchLanes f => .dword 0x08 0x04 f
  | .pand f => .dword 0x09 0x00 f
  | .por f => .dword 0x09 0x01 f
  | .pxor f => .dword 0x09 0x02 f
  | .pnot f => .dword 0x09 0x03 f
  | .pmov f => .dword 0x09 0x04 f
  | .sadd f => .dword 0x0A 0x00 f
  | .ssub f => .dword 0x0A 0x01 f
  | .smul f => .dword 0x0A 0x02 f
  | .sand f => .dword 0x0A 0x03 f
  | .sor f => .dword 0x0A 0x04 f
  | .sxor f => .dword 0x0A 0x05 f
  | .sshl f => .dword 0x0A 0x06 f
  | .sshr f => .dword 0x0A 0x07 f
  | .scmp f => .dword 0x0A 0x08 f
  | .ssel f => .dword 0x0A 0x09 f
  | .smov f => .dword 0x0A 0x0A f
  | .bcast f => .dword 0x0A 0x0B f
  | .rdlane f => .dword 0x0A 0x0C f
  | .saddImm f => .dword 0x0B 0x00 f
  | .ssubImm f => .dword 0x0B 0x01 f
  | .smulImm f => .dword 0x0B 0x02 f
  | .sandImm f => .dword 0x0B 0x03 f
  | .sorImm f => .dword 0x0B 0x04 f
  | .sxorImm f => .dword 0x0B 0x05 f
  | .sshlImm f => .dword 0x0B 0x06 f
  | .sshrImm f => .dword 0x0B 0x07 f
  | .scmpImm f => .dword 0x0B 0x08 f
  | .smovi f => .dword 0x0C 0x00 f
  | .smoviMid f => .dword 0x0C 0x01 f
  | .smoviTop f => .dword 0x0C 0x02 f
  | .wset f => .dword 0x0D 0x00 f
  | .wstat f => .dword 0x0D 0x01 f
  | .wrew f => .dword 0x0D 0x02 f
  | .ldg f => .dword 0x10 0x00 f
  | .stg f => .dword 0x10 0x01 f
  | .pref f => .dword 0x10 0x02 f
  | .atomg f => .dword 0x10 0x03 f
  | .redg f => .dword 0x10 0x04 f
  | .ldl f => .dword 0x10 0x08 f
  | .stl f => .dword 0x10 0x09 f
  | .atoml f => .dword 0x10 0x0A f
  | .sld f => .dword 0x10 0x10 f
  | .sst f => .dword 0x10 0x11 f
  | .fence f => .dword 0x10 0x18 f
  | .locid f => .dword 0x11 0x00 f
  | .scopeof f => .dword 0x11 0x01 f
  | .scopecost f => .dword 0x11 0x02 f
  | .vmap f => .dword 0x12 0x00 f
  | .vunmap f => .dword 0x12 0x01 f
  | .sjoin f => .dword 0x12 0x02 f
  | .sleave f => .dword 0x12 0x03 f
  | .feset f => .dword 0x12 0x04 f
  | .feclr f => .dword 0x12 0x05 f
  | .put f => .dword 0x13 0x00 f
  | .get f => .dword 0x13 0x01 f
  | .wcnt f => .dword 0x13 0x02 f
  | .nmo f => .dword 0x13 0x03 f
  | .tcopy f => .dword 0x14 0x00 f
  | .tgather f => .dword 0x14 0x01 f
  | .tscatter f => .dword 0x14 0x02 f
  | .tcoll f => .dword 0x14 0x03 f
  | .tcancel f => .dword 0x14 0x04 f
  | .tsched f => .dword 0x14 0x05 f
  | .tstat f => .dword 0x14 0x06 f
  | .mxalloc f => .dword 0x15 0x00 f
  | .mxfree f => .dword 0x15 0x01 f
  | .mxwload f => .dword 0x15 0x02 f
  | .mxrun f => .dword 0x15 0x03 f
  | .mxdrain f => .dword 0x15 0x04 f
  | .mxfill f => .dword 0x15 0x05 f
  | .mxzero f => .dword 0x15 0x06 f
  | .mxfence f => .dword 0x15 0x07 f
  | .mxstat f => .dword 0x15 0x08 f
  | .mxcancel f => .dword 0x15 0x09 f
  | .bra f => .dword 0x18 0x00 f
  | .brc f => .dword 0x18 0x01 f
  | .brx f => .dword 0x18 0x02 f
  | .brw f => .dword 0x18 0x03 f
  | .call f => .dword 0x18 0x04 f
  | .callx f => .dword 0x18 0x05 f
  | .ret f => .dword 0x18 0x06 f
  | .exit f => .dword 0x18 0x07 f
  | .bar f => .dword 0x19 0x00 f
  | .bara f => .dword 0x19 0x01 f
  | .elect f => .dword 0x19 0x02 f
  | .sleep f => .dword 0x19 0x03 f
  | .spawn f => .dword 0x19 0x04 f
  | .fetchw f => .dword 0x19 0x05 f
  | .reggrow f => .dword 0x19 0x06 f
  | .regshrink f => .dword 0x19 0x07 f
  | .trap f => .dword 0x1A 0x00 f
  | .brk f => .dword 0x1A 0x01 f
  | .xret f => .dword 0x1A 0x02 f
  | .mfx f => .dword 0x1A 0x03 f
  | .tlbinv f => .dword 0x1A 0x05 f
  | .icinv f => .dword 0x1A 0x06 f
  | .forkw f => .dword 0x1B 0x00 f
  | .choose f => .dword 0x1B 0x01 f
  | .world f => .dword 0x1B 0x02 f
  | .abandon f => .dword 0x1B 0x03 f
  | .snap f => .dword 0x1C 0x00 f
  | .snapst f => .dword 0x1C 0x01 f
  | .mtx f => .dword 0x1A 0x04 f
  | .mtxXpc f => .dword 0x1A 0x04 f
  | .mtxVbudget f => .dword 0x1A 0x04 f
  | .mtxVpsize f => .dword 0x1A 0x04 f
  | .mtxVpbase f => .dword 0x1A 0x04 f
  | .nop64 minor f => .dword 0x3F minor f
  | .illegalInstr w => .raw w
  | _ => .event

/-- The fields of a 32-bit word (R48). -/
def F32.ofWord (w : Word) : F32 where
  dist := w.extractLsb' 2 3
  hold := w.getLsbD 5
  nowb := w.getLsbD 12
  dst  := w.extractLsb' 13 6
  src1 := w.extractLsb' 19 6
  src2 := w.extractLsb' 25 6
  mod  := w.getLsbD 31

/-- The fields of a 64-bit word (R50). -/
def F64.ofWord (w : DWord) : F64 where
  dist := w.extractLsb' 2 3
  hold := w.getLsbD 5
  nowb := w.getLsbD 18
  dst  := w.extractLsb' 19 8
  s1   := w.extractLsb' 27 8
  s2   := w.extractLsb' 35 8
  s3   := w.extractLsb' 43 8
  cnt  := w.extractLsb' 51 4
  pred := w.extractLsb' 55 4
  pneg := w.getLsbD 59
  mod  := w.extractLsb' 60 4

/-- R42 to R46: the halfword's instruction, none where it is undefined. -/
def decode16 (h : Half) : Option Instr :=
  let imm : BitVec 8 := h.extractLsb' 8 8
  match (h.extractLsb' 0 4).toNat with
  | 0x2 => some (.wait (h.extractLsb' 4 12))
  | 0x6 =>
    match (h.extractLsb' 4 4).toNat with
    | 0 => some (.nop16 imm)
    | 1 => if imm = 0 then some .yield else none
    | 2 => some (.brk16 imm)
    | 3 => if imm = 0 then some .exit16 else none
    | 4 => some (.trap16 imm)
    | _ => none
  | 0xA => some (.brs (h.extractLsb' 4 12))
  | 0xE => none
  | _ => cand16 (h.extractLsb' 2 4).toNat (h.extractLsb' 6 5) (h.extractLsb' 11 5)

/-- R48 and R66: the word's instruction, none where it is undefined. -/
def decode32 (w : Word) : Option Instr :=
  let maj := (w.extractLsb' 6 6).toNat
  let f := F32.ofWord w
  if wordOk32 maj f then cand32 maj f else none

/-- R50, R55, R56, R67 to R69: the word's instruction, none where it is undefined. -/
def decode64 (w : DWord) : Option Decoded :=
  let maj := (w.extractLsb' 6 6).toNat
  let min := (w.extractLsb' 12 6).toNat
  let f := F64.ofWord w
  if wordOk64 maj min f then cand64 maj min f else none

/-- The bits of a word that belong to an instruction of its length. -/
def ownBits (w : DWord) : DWord :=
  match lengthOf w with
  | 2 => w &&& 0xFFFF#64
  | 4 => w &&& 0xFFFFFFFF#64
  | _ => w

/-- The word defined by the low bits, none where no instruction defines them. -/
def defined (w : DWord) : Option Decoded :=
  match lengthOf w with
  | 2 => (decode16 (w.extractLsb' 0 16)).map .common
  | 4 => (decode32 (w.extractLsb' 0 32)).map .common
  | _ => decode64 w

/-- The word whose first halfword is lowest, decoded; the bits above its length are not read. Total: a word that no
instruction defines reads as ILLEGAL_INSTR (R65 step 1). -/
def readWord (w : DWord) : Decoded :=
  match defined w with
  | some d => d
  | none => .rare (.illegalInstr (ownBits w))

/-- The instruction of a word. -/
noncomputable def decodeWord (w : DWord) : Instr := (readWord w).toInstr

/-- Why bytes decode to no instruction at all. -/
inductive DecodeError where
  /-- Fewer bytes than the length that the first halfword gives (R41). -/
  | truncated
  deriving DecidableEq, Repr

/-- The little-endian word of at most eight bytes (R4). -/
def leWord : List Byte → DWord
  | [] => 0
  | b :: bs => (b.setWidth 64) ||| (leWord bs <<< 8)

/-- The low bytes of a word, least significant first (R4). -/
def leBytes : Nat → DWord → List Byte
  | 0, _ => []
  | n + 1, w => w.setWidth 8 :: leBytes n (w >>> 8)

/-- The instruction at the head of the bytes and the bytes after it. -/
noncomputable def decode (bs : List Byte) : Except DecodeError (Instr × List Byte) :=
  let w := leWord (bs.take 8)
  let n := lengthOf w
  if bs.length < 2 ∨ bs.length < n then .error .truncated
  else .ok (decodeWord w, bs.drop n)

/-- The word of a 32-bit instruction (R48). -/
def F32.toWord (major : BitVec 6) (f : F32) : Word :=
  BitVec.ofBool f.mod ++ f.src2 ++ f.src1 ++ f.dst ++ BitVec.ofBool f.nowb ++ major ++ BitVec.ofBool f.hold ++ f.dist ++ 1#2

/-- The word of a 64-bit instruction (R50). -/
def F64.toWord (major minor : BitVec 6) (f : F64) : DWord :=
  f.mod ++ BitVec.ofBool f.pneg ++ f.pred ++ f.cnt ++ f.s3 ++ f.s2 ++ f.s1 ++ f.dst ++ BitVec.ofBool f.nowb ++ minor ++ major ++
    BitVec.ofBool f.hold ++ f.dist ++ 3#2

/-- The word of an instruction, zero-extended; an event has none. -/
def Code.toWord : Code → DWord
  | .two op vd vs => ((vs ++ vd ++ op ++ 0#2 : BitVec 16)).setWidth 64
  | .half w => w.setWidth 64
  | .word major f => (f.toWord major).setWidth 64
  | .dword major minor f => f.toWord major minor
  | .raw w => w
  | .event => 0

/-- The encoded bytes of an instruction, lowest address first; an event has none. -/
def encode (i : Instr) : List Byte :=
  match i.code with
  | .event => []
  | c => leBytes (lengthOf c.toWord) c.toWord

/-- A row of the table that is a word of the instruction set, not an event. -/
def Instr.isWord (i : Instr) : Bool := i.code != .event

/-- The instruction whose bits are `w`, numbered as spec/opcode_table.json numbers them: bits above `nbits` are zero. -/
noncomputable def decodeTableWord (nbits w : Nat) : Option Instr :=
  match decode (leBytes 8 (BitVec.ofNat 64 (w % 2 ^ nbits))) with
  | .ok (i, _) => some i
  | .error _ => none

end Sys2Proof
end

