-- ==== Sys2Proof/Machine/State.lean ====
section
/-! DEFINITION. The state of the package as plain data (INVENTORY.md, heading State), the reasons a step can stop, and the state
after reset. -/

namespace Sys2Proof.Machine

/-- Why the machine stops with a fault: none of the behaviours of this manual stops it (R13), so nothing raises this. -/
inductive Fault where
  /-- Raised by nothing: R13 leaves no behaviour open and every trap is taken. Safe. -/
  | none
  deriving DecidableEq, Repr

/-- Why an instruction has no meaning. -/
inductive Refusal where
  /-- Raised by exec's arm of an instruction whose meaning is not written. Safe: no claim about it can be proved. -/
  | notModelled (mnemonic : String)
  deriving DecidableEq, Repr

/-! ## Memory -/

/-- Bytes by address in the canonical form: addresses strictly rising, no zero byte listed; an unlisted byte reads zero (log 5). -/
abbrev Memory := List Host.Cell

/-! ## The group -/

/-- A bypass latch: its 64 bits a lane, the lanes its producer enabled, and the cycle it can be read from (R62). -/
structure Latch where
  val   : Lanes DWord
  mask  : DWord
  ready : Nat
  deriving DecidableEq, Repr

/-- The hold run in progress: instructions already issued, 0 when none is in progress, and the latches b0 first (R61, R62). -/
structure HoldRun where
  pos     : Nat
  latches : List Latch
  deriving DecidableEq, Repr

/-- No run in progress: every latch invalid. -/
def HoldRun.none : HoldRun := ⟨0, []⟩

/-- A walker register (R243): the pattern, the indices and the flags; `ndim` is the number of dimensions minus 1. -/
structure Walker where
  bound  : Bool
  base   : DWord
  esize  : BitVec 2
  ndim   : BitVec 2
  count  : Vector Word 4
  stride : Vector Word 4
  idx    : Vector Word 4
  endf   : BitVec 4
  deriving DecidableEq, Repr

/-- A walker as it is at group start (R34, R246): unbound, reading zero. -/
def Walker.unbound : Walker := ⟨false, 0, 0, 0, Vector.replicate 4 0, Vector.replicate 4 0, Vector.replicate 4 0, 0⟩

/-- One register write of an instruction: the lanes it writes and their values. A vector pair takes both halves. -/
inductive RegWrite where
  /-- Vector register `r`, or the pair from `r`, in the lanes of `mask`. -/
  | vec (r : Nat) (pair : Bool) (mask : DWord) (val : Lanes DWord)
  /-- Scalar register `r`. -/
  | sca (r : Nat) (val : DWord)
  /-- The bits of `mask` in predicate `r`. -/
  | prd (r : Nat) (mask val : DWord)
  /-- Walker register `r`. -/
  | wlk (r : Nat) (val : Walker)
  deriving DecidableEq, Repr

/-- A place a register write goes to, for the hazards of R59. -/
inductive RegRef where
  | vec (r : Nat) | sca (r : Nat) | prd (r : Nat) | wlk (r : Nat)
  deriving DecidableEq, Repr

/-- The levels of a barrier (R345). -/
inductive BarLevel where
  | grp | blk | set | launch
  deriving DecidableEq, Repr

/-- A barrier as a thread names it: its level and id (R350). -/
structure BarRef where
  level : BarLevel
  id    : Nat
  deriving DecidableEq, Repr

/-- What a blocked thread waits for: the barrier and the phase of its arrival, and the scope of the acquire that its resumption makes,
none under .nofence (R330, R346, R347). -/
structure BarWait where
  bar   : BarRef
  phase : Nat
  scope : Option Nat
  deriving DecidableEq, Repr

/-- Arrivals of a group's threads at one barrier: how many each thread has made (R345). -/
structure BarCount where
  bar   : BarRef
  count : Lanes Nat
  deriving DecidableEq, Repr

/-- A group's contribution to the reduction of a phase of a set of the launch (R348). -/
structure Contribution where
  set   : Nat
  phase : Nat
  lin   : Nat
  gidx  : Nat
  op    : BitVec 2
  value : DWord
  deriving DecidableEq, Repr

/-- The banked trap registers (R383) and the lanes of the trapped run (R333). -/
structure TrapRegs where
  xpc    : DWord
  xcause : DWord
  xstat  : DWord
  xaddr  : DWord
  xinfo  : DWord
  xscr   : DWord
  xdepth : DWord
  pcrun  : DWord
  deriving DecidableEq, Repr

/-- The trap registers before any trap (R383: reset 0). -/
def TrapRegs.zero : TrapRegs := ⟨0, 0, 0, 0, 0, 0, 0, 0⟩

/-- A trap to be taken: what the core writes to the banked registers (R384). XSCR and XPC are absent where the trap is precise. -/
structure Trap where
  cause : Nat
  xaddr : DWord
  xinfo : DWord
  stat  : BitVec 20
  defer : Bool
  xpc   : Option (BitVec 57)
  xscr  : Option (BitVec 57)
  deriving DecidableEq, Repr

/-- The handler table of a privileged group (R382): PC, depth, active and yield bits, and the entries that ended by EXIT. -/
structure Handler where
  pc    : Lanes (BitVec 57)
  depth : Lanes (BitVec 8)
  act   : DWord
  yld   : DWord
  exits : DWord
  /-- Entries whose threads wait in a BAR (R346). -/
  blk   : DWord
  deriving DecidableEq, Repr

/-- No handler runs. -/
def Handler.none : Handler := ⟨Lanes.const 0, Lanes.const 0, 0, 0, 0, 0⟩

/-- Why a group issues nothing though it has a run (R378). -/
inductive Hold where
  /-- It may issue. -/
  | free
  /-- Its next instruction could not issue; it tries again once something has changed (R61, R378). -/
  | stalled
  /-- A WAIT of these counters has issued and they are not all zero (R43, R357). -/
  | wait (names : BitVec 12)
  /-- SLEEP, until the tick has begun (R358). -/
  | sleep (tick : Nat)
  /-- REGGROW to n, not yet granted (R364). -/
  | grow (n : Nat)
  /-- FENCE: ORD, scope and PRO, with the tick a .sc fence waits for once its .acqrel condition holds (R203). -/
  | fence (ord : BitVec 2) (scope : Nat) (pro : Bool) (tick : Option Nat)
  /-- SPAWN, until every accepted child has completed (R360). -/
  | spawn
  /-- FORKW of n copies with its destination, until the copies are placed (R429). -/
  | fork (n dst : Nat)
  deriving DecidableEq, Repr

/-- What an access does. -/
inductive AccKind where
  | load | store | atom
  deriving DecidableEq, Repr

/-- How far one lane of an access has come. -/
inductive LaneState where
  /-- Not yet performed. -/
  | todo
  /-- Waiting in the queue of its granule (R168). -/
  | queued
  /-- In an operand-log entry (R125): the reason and level of its fault, and whether its page is a firmware page. -/
  | logged (reason level : Nat) (firmware : Bool)
  /-- Performed. -/
  | done
  /-- Failed: its destination keeps its old value (R131, R194). -/
  | failed
  deriving DecidableEq, Repr

/-- One lane of an access: its address, for a local one the block and offset it names at issue (R171), its store datum or operand,
the expected value of a CAS, and the value read. -/
structure LaneAcc where
  lane   : Nat
  addr   : DWord
  blk    : Nat
  off    : Nat
  data   : BitVec 128
  expect : DWord
  st     : LaneState
  got    : BitVec 128
  deriving DecidableEq, Repr

/-- Where an access writes what it reads. -/
inductive Dst where
  | none
  /-- Vector register or pair. -/
  | vec (r : Nat) (pair : Bool)
  /-- Scalar register. -/
  | sca (r : Nat)
  /-- The lane form gathered from plane granules (R233): register, type code, enabled lanes. -/
  | planes (r : Nat) (type : BitVec 4) (mask : DWord)
  deriving DecidableEq, Repr

/-- Full-empty qualifiers of a local access (R167, R193). -/
inductive Qual where
  | plain | fe | fec | fef | fee
  deriving DecidableEq, Repr

/-- A memory instruction in flight (R186 to R201, R233). `type` is the TYPE code or OP, `size` the access size in bytes. -/
structure Access where
  kind  : AccKind
  loc   : Bool
  type  : BitVec 4
  size  : Nat
  ord   : BitVec 2
  pro   : Bool
  scope : Nat
  qual  : Qual
  dst   : Dst
  /-- It acts in the root view whatever the group's world (R425). -/
  root  : Bool
  /-- The lines for whose held writes VIEW_POOL has been recorded (R416). -/
  held  : List Nat
  lanes : List LaneAcc
  deriving DecidableEq, Repr

/-- An instruction issued and not complete: what remains of it. -/
inductive FlightOp where
  /-- Only its register writes and flags remain (class F, and class V of chapter 08). -/
  | result
  /-- A memory access. -/
  | access (a : Access)
  /-- VMAP: shared form, global pages still to take, local page, done mask and destination (R209). -/
  | vmap (shared : Bool) (pages : List (Nat × Nat × Nat)) (mask : DWord) (dst : Nat)
  /-- VUNMAP: pages still to return, mask and destination (R210). -/
  | vunmap (pages : List (Nat × Nat)) (mask : DWord) (dst : Nat)
  /-- SJOIN of a key (R211). -/
  | sjoin (key : Word) (dst : Nat)
  /-- SLEAVE (R212). -/
  | sleave
  /-- FESET or FECLR of granules (R213): block key, first granule, count, and whether the shared window named them. -/
  | febits (full : Bool) (block first n : Nat) (shared : Bool)
  /-- PUT, GET, NMO: the fabric request that carries it, by its key (R316, R317, R320). -/
  | fabric (req : Nat)
  /-- WCNT: selector, window, value, destination (R326). -/
  | wcnt (sel : BitVec 2) (w : Nat) (v : DWord) (dst : Nat)
  /-- A copy item by its key (R147). -/
  | copy (item : Nat)
  /-- TCANCEL of items by key (R159). -/
  | tcancel (items : List Nat)
  /-- TSCHED, waiting for the entries below a layer under .wait (R160). -/
  | tsched (wait : Bool) (layer : Nat)
  /-- TSTAT's read (R161). -/
  | tstat (addr : DWord) (dst : Nat)
  /-- MXALLOC: tiles, mode, destination (R282). -/
  | mxalloc (n : Nat) (mode : Nat) (dst : Nat)
  /-- MXFREE, waiting for its entries (R282). -/
  | mxfree
  /-- A matrix entry by its key (R265, R266). -/
  | mxentry (entry : Nat)
  /-- MXFENCE (R267). -/
  | mxfence
  /-- MXSTAT: selector, address, destination (R284). -/
  | mxstat (sel : BitVec 2) (addr : DWord) (dst : Nat)
  /-- MXCANCEL of entries by key (R285). -/
  | mxcancel (entries : List Nat)
  /-- FETCHW, until the distributor has queued its request (R361): the request's key. -/
  | fetchw (mail : Nat)
  /-- TLBINV: form, range, scope (R135). -/
  | tlbinv (form : BitVec 2) (base len : Nat) (scope : Nat)
  /-- ICINV at a scope (R391). -/
  | icinv (scope : Nat)
  /-- CHOOSE on a sibling set by its key: whether it made the decision, and the destination (R430). -/
  | choose (set : Nat) (made : Bool) (dst : Nat)
  /-- SNAP: the colour once its claim has succeeded, the descriptor as read, predicate and destination (R458). -/
  | snap (colour : Option Nat) (desc : List Byte) (prd dst : Nat)
  /-- BAR with a reduction (R348): the set of the launch, the phase, the operation and the destination. -/
  | reduce (set phase : Nat) (op : BitVec 2) (dst : Nat)
  /-- SNAPST: selector, colour, destination (R459). -/
  | snapst (sel : BitVec 2) (colour : Nat) (dst : Nat)
  deriving DecidableEq, Repr

/-- An instruction in flight (R58 to R60, R216). -/
structure Flight where
  key    : Nat
  word   : DWord
  pc     : BitVec 57
  /-- The cycle of its write for class F, none for class V. -/
  due    : Option Nat
  cnt    : BitVec 4
  writes : List RegWrite
  /-- Registers it will write, for R59. -/
  dests  : List RegRef
  /-- FPST flags it sets with its result (R216). -/
  flags  : BitVec 5
  /-- Writes of younger instructions that have landed meanwhile (R59). -/
  late   : List RegWrite
  op     : FlightOp
  deriving DecidableEq, Repr

/-- A fatal fault waiting for its delivery (R131, R133): the trap, the counter and registers that bring it, and its order. -/
structure Deferred where
  trap  : Trap
  cnt   : BitVec 4
  dests : List RegRef
  seq   : Nat
  /-- The flight whose operand-log entry it frees. -/
  key   : Nat
  /-- Delivery decrements the counter, and XINFO takes the resume point (R131). -/
  dec    : Bool
  resume : Bool
  deriving DecidableEq, Repr

/-- A group (R34, R330, R383). -/
structure Group where
  /-- A group is here: false only in the idle place that State.cur holds when no group is chosen. -/
  live    : Bool
  /-- Key of its block, and its index in it (special 0xE6). -/
  block   : Nat
  gidx    : Nat
  /-- Logical location ID (R17, R25). -/
  locid   : Word
  /-- A group of a front-end core, under the scalar control profile (R372). -/
  front   : Bool
  /-- Vector allocation A (R35). -/
  alloc   : Nat
  vregs   : Vector (Lanes Word) 128
  sregs   : Vector DWord 96
  preds   : Vector DWord 16
  walkers : Vector Walker 8
  cnts    : Vector (BitVec 6) 12
  fpst    : DWord
  /-- The main PC table (R330): PCs, depths, active (and blocked) entries, blocked entries, yield bits, barriers waited on. -/
  pc      : Lanes (BitVec 57)
  depth   : Lanes (BitVec 8)
  act     : DWord
  blk     : DWord
  yld     : DWord
  barw    : Lanes (Option BarWait)
  run     : HoldRun
  /-- Cycle of its last issue (R57). -/
  last    : Option Nat
  /-- The run that issued last (R331). -/
  lastPc  : BitVec 57
  lastRun : DWord
  /-- Lower is older (R379). -/
  age     : Nat
  hold    : Hold
  priv    : Bool
  x       : TrapRegs
  etrap   : Option TrapRegs
  handler : Handler
  /-- Writes to PCACT, PCBLK and PCYLD, which take effect at XRET (R333). -/
  actW    : Option DWord
  blkW    : Option DWord
  yldW    : Option DWord
  /-- The banked hold run (R64). -/
  banked  : HoldRun
  flights : List Flight
  deferred : List Deferred
  arrivals : List BarCount
  /-- A FENCE has made the next store, atomic or reduction a release write at a scope wider than .core (R288, R395). -/
  fenced   : Bool
  /-- A shadow group runs beside it, and what its next comparison finds to differ: the lane and the kind (R464). -/
  shadow  : Bool
  differs : Option (Nat × Nat)
  /-- The slot of the shadow in its partition. -/
  shSlot  : Nat
  /-- Poisoned registers (R461, R462). -/
  poison  : List RegRef
  /-- System software has answered fatal for the page that its stalled instruction waits for (R128, R132, R155). -/
  refused : Bool
  /-- Preservation bits of its register rows for the two colours: 128 vector rows, then the 21 rows of R404 (R178, R445). -/
  unpres  : Vector (BitVec 149) 2
  deriving DecidableEq, Repr

/-- A group as at group start (R34, R330) at a place: entry address, launch values in s0 and s1. -/
def Group.start (block gidx : Nat) (locid : Word) (alloc : Nat) (entry : BitVec 57) (s0 s1 : DWord) (age : Nat) : Group where
  live := true
  block := block
  gidx := gidx
  locid := locid
  front := false
  alloc := alloc
  vregs := Vector.replicate 128 (Lanes.const 0)
  sregs := ((Vector.replicate 96 0).set 0 s0).set 1 s1
  preds := (Vector.replicate 16 0).set 0 allOnes
  walkers := Vector.replicate 8 Walker.unbound
  cnts := Vector.replicate 12 0
  fpst := 0
  pc := Lanes.const entry
  depth := Lanes.const 0
  act := allOnes
  blk := 0
  yld := 0
  barw := Lanes.const none
  run := HoldRun.none
  last := none
  lastPc := entry
  lastRun := allOnes
  age := age
  hold := .free
  priv := false
  x := TrapRegs.zero
  etrap := none
  handler := Handler.none
  actW := none
  blkW := none
  yldW := none
  banked := HoldRun.none
  flights := []
  deferred := []
  arrivals := []
  fenced := false
  shadow := false
  differs := none
  shSlot := 0
  poison := []
  refused := false
  unpres := Vector.replicate 2 0

/-- No group: the place State.cur holds when none is chosen. Every thread has exited, so no run issues (R331). -/
def Group.idle : Group := { Group.start 0 0 0 0 0 0 0 0 with live := false, act := 0 }

/-! ## Caches, translations, the vault -/

/-- One valid byte of a cache: the unit that holds it (a core for the L1s, a chiplet for the L2s), the context that brought or wrote it, the
view tag, the physical address, the value and its dirty bit (R172, R174, R176). A line is the bytes of one 128-byte address range; the tags
above 0 are a context's own (R177). -/
structure CByte where
  unit  : Nat
  pasid : Nat
  view  : Nat
  pa    : Nat
  val   : Byte
  dirty : Bool
  deriving DecidableEq, Repr

/-- A byte of an instruction cache: core, context, virtual address, value (R183; log 7). -/
structure IByte where
  core  : Nat
  pasid : Nat
  va    : Nat
  val   : Byte
  deriving DecidableEq, Repr

/-- The translation caches of R120 and R149. -/
inductive TlbKind where
  | l1 | l2 | walk5 | walk4 | walk3 | engine
  deriving DecidableEq, Repr

/-- An entry of a translation cache: its unit, context, aligned virtual base and size, what it gives. A walk-cache entry gives
the base of the next node in `pa`. -/
structure TlbEntry where
  kind  : TlbKind
  unit  : Nat
  pasid : Nat
  va    : Nat
  size  : Nat
  pa    : Nat
  w     : Bool
  x     : Bool
  h     : Bool
  attr  : BitVec 2
  f     : Bool
  d     : Bool
  deriving DecidableEq, Repr

/-- State of an operand-log entry (R126, R127): reserved while its instruction is being translated, then as in R127. -/
inductive LogState where
  | reserved | pending | resolved | fatal
  deriving DecidableEq, Repr

/-- An operand-log entry (R126, R127). INSTR, PC, ADDRS, DATA, EXPECT, SCOPE and MASK are those of the flight it names. -/
structure LogEntry where
  core   : Nat
  block  : Nat
  gidx   : Nat
  flight : Nat
  state  : LogState
  reason : Nat
  level  : Nat
  wr     : Bool
  seq    : Nat
  deriving DecidableEq, Repr

/-- A request waiting at a granule (R168): the lane of a flight of a group, or an engine's item or the distributor by its key. -/
inductive Waiter where
  | lane (block gidx flight lane : Nat) (qual : Qual)
  | item (item : Nat) (qual : Qual)
  | mailbox (key : Nat)
  deriving DecidableEq, Repr

/-- A block's vault allocation (R163, R164, R168): its place in a vault, its bytes, the Full and the poisoned granules in rising
order, and the waiting requests, each with its granule, oldest first. -/
structure Alloc where
  core    : Nat
  base    : Nat
  size    : Nat
  bytes   : Memory
  full    : List Nat
  poison  : List Nat
  waiters : List (Nat × Waiter)
  /-- Its 4 KiB segments not yet preserved for the two colours (R178, R445). -/
  unpres0 : List Nat
  unpres1 : List Nat
  deriving DecidableEq, Repr

/-- No allocation. -/
def Alloc.empty : Alloc := ⟨0, 0, 0, [], [], [], [], [], []⟩

/-- A segment that is not Invalid (R180, R181): context and page address, the mapping block and its local page, the form, and
whether it is in transit, to its form or, when `leaving`, to Invalid. -/
structure Segment where
  pa      : Nat
  va      : Nat
  pasid   : Nat
  block   : Nat
  lpage   : Nat
  shared  : Bool
  transit : Bool
  leaving : Bool
  deriving DecidableEq, Repr

/-- An ATS request outstanding (R123): the walking unit, the context, the page and what its leaf gives; `pri` once the host has
reported the page not present and a Page Request is out, `refused` once that has failed, until an access takes the fault. -/
structure AtsReq where
  key   : Nat
  unit  : Nat
  pasid : Nat
  va    : Nat
  size  : Nat
  host  : Nat
  w     : Bool
  x     : Bool
  attr  : BitVec 2
  f     : Bool
  d     : Bool
  pri   : Bool
  refused : Bool
  deriving DecidableEq, Repr

/-- A slot of a context's view pool in use: the line of a view, its mask of bytes written or committed, its data (R413, R415), which
of its granules are poisoned, and the slot's number. -/
structure ViewLine where
  pasid : Nat
  view  : Nat
  pa    : Nat
  va    : Nat
  mask  : BitVec 128
  data  : List Byte
  bad   : BitVec 8
  slot  : Nat
  deriving DecidableEq, Repr

/-- World states (R419). -/
inductive WorldState where
  | running | forked | done | abandoned
  deriving DecidableEq, Repr

/-- An outbox entry (R426, R435): a PUT with its source, descriptor and offset, or an NMO with its record. -/
inductive OutEntry where
  | put (loc : Bool) (src desc off : DWord)
  | nmo (record : List Byte) (ord : BitVec 2)
  deriving DecidableEq, Repr

/-- A live view and its world (R410, R411, R419, R435). -/
structure View where
  pasid  : Nat
  num    : Nat
  parent : Nat
  set    : Nat
  state  : WorldState
  depth  : Nat
  index  : Nat
  nsib   : Nat
  pinned : Bool
  bid    : Option DWord
  block  : Nat
  outbox : List OutEntry
  deriving DecidableEq, Repr

/-- A sibling set's decision (R419). -/
inductive Decision where
  | openSet | winner (w : Nat) | noWinner
  deriving DecidableEq, Repr

/-- A sibling set (R410, R420): its launch, its parent view, the winner's view once decided, whether its winner has been merged
(R421), and the linear index of its block. -/
structure SibSet where
  key      : Nat
  pasid    : Nat
  launch   : Nat
  parent   : Nat
  n        : Nat
  decision : Decision
  view     : Nat
  merged   : Bool
  lin      : Nat
  deriving DecidableEq, Repr

/-- A member slot of a sharing group (R170, R171): never held, held by a block, or revoked. -/
inductive ShSlot where
  | never | held (block : Nat) | revoked
  deriving DecidableEq, Repr

/-- A sharing group of a context (R170). -/
structure Sharing where
  pasid : Nat
  key   : Word
  slots : List ShSlot
  deriving DecidableEq, Repr

/-! ## Copy engines -/

/-- A tensor record as read (R136). -/
structure Tensor where
  base   : Nat
  type   : BitVec 4
  space  : Nat
  ndim   : Nat
  feset  : Bool
  fewait : Bool
  fetake : Bool
  plane  : Bool
  scope  : Nat
  conv   : BitVec 3
  skind  : Nat
  counts : List Nat
  strides : List Int
  scale  : Nat
  status : Nat
  deriving DecidableEq, Repr

/-- A record of no elements. -/
def Tensor.zero : Tensor := ⟨0, 0, 0, 1, false, false, false, false, 0, 0, 0, [0, 1, 1, 1], [0, 0, 0, 0], 0, 0⟩

/-- What an item does (R143, R156, R157), or which tier-schedule entry it moves (R105). -/
inductive CopyKind where
  | copy | gather | scatter | coll | tier (entry : Nat)
  deriving DecidableEq, Repr

/-- A granule act that an item waits to perform (R146): a take of its bytes, or a write under a mask that sets it Full, of poisoned
data or not, which ends the destination granule of an index. -/
structure Pend where
  block : Nat
  off   : Nat
  take  : Bool
  data  : List Byte
  mask  : BitVec 16
  bad   : Bool
  gran  : Nat
  /-- The values that a write writes, by their numbers in the walk, and whether they complete the granule. -/
  nums  : List Nat
  last  : Bool
  deriving DecidableEq, Repr

/-- An item of a copy engine (R143 to R153). `block`, `gidx` and `flight` are its issuer's; a tier entry has the named block, or
none. -/
structure CopyItem where
  key    : Nat
  kind   : CopyKind
  pasid  : Nat
  /-- The view that it writes, and the one that it reads: they differ for a TCOLL.irrev (R425). -/
  view   : Nat
  rview  : Nat
  block  : Option Nat
  gidx   : Nat
  flight : Nat
  pc     : BitVec 57
  unit   : Nat
  dst    : Tensor
  src    : Tensor
  idx    : Tensor
  /-- The collective descriptor of a TCOLL (R157). -/
  coll   : List Byte
  /-- Its records as they were read at issue: the destination's 128 bytes, the source's, and those of the third or zeros (R406). -/
  raw    : List Byte
  /-- The model's own: what its free choices hang on (R145, log 4). -/
  seed   : Nat
  /-- A tier entry of DTIER 4: it installs lines at their home slices and writes no memory (R104). -/
  install : Bool
  /-- The index values of a gather or scatter once they have been read, none for one that could not be read (R156). -/
  rows   : Option (List (Option Int))
  /-- Chunks of a collective's result that have been delivered into its window (R322). -/
  got    : List Nat
  /-- Destination granules already moved or skipped, by index in walk order; values already written of a granule that is not, each with the granule's
  index and its number in the walk (R146); and source granules taken, with their contents; a poisoned one has none. -/
  moved  : List Nat
  wrote  : List (Nat × Nat)
  taken  : List (Nat × List Byte)
  pend   : Option Pend
  /-- The live status (R152). -/
  state  : Nat
  reason : Nat
  poison : Bool
  oob    : Bool
  bytes  : Nat
  faultva : Nat
  /-- Poisoned granules (R107). -/
  npoison : Nat
  /-- The address that it waits for in state 2 plus 1, the pages answered fatal (R150), and the lines for whose held writes VIEW_POOL has been recorded
  (R416). -/
  waitva : Nat
  refused : List Nat
  held   : List Nat
  /-- The shared local window as it was when the item was issued (R171). -/
  slots  : List ShSlot
  deriving DecidableEq, Repr

/-- What an engine or the device has still to store, because its place waits (R152, R179, R416): the unit, the context and the view, a virtual
address, or an offset in the allocation of a block, the bytes, the scope of the release that follows, and the item or matrix entry whose status
record it is, or 0. -/
structure Owed where
  unit  : Nat
  pasid : Nat
  view  : Nat
  block : Option Nat
  va    : Nat
  bytes : List Byte
  scope : Nat
  by_   : Nat
  deriving DecidableEq, Repr

/-- The state of a tier-schedule entry of a context (R107). -/
structure SchedEntry where
  pasid  : Nat
  index  : Nat
  state  : Nat
  npoison : Nat
  deriving DecidableEq, Repr

/-- A FETCHW request (R361, R362): the context, the fetching block, the LAUNCHID, whether the distributor has queued it, the block whose
vault holds the mailbox with its offset, and the 16 bytes once it has been served. -/
structure Mail where
  key   : Nat
  pasid : Nat
  by_   : Nat
  id    : Nat
  here  : Bool
  block : Nat
  off   : Nat
  bytes : List Byte
  deriving DecidableEq, Repr

/-- An add request waiting in a pool node's window of arrival (R321): its port, its order, its total and the request it belongs
to: the flight and address of a lane group of this package, or a request from outside. -/
structure AddReq where
  port   : Nat
  since  : Nat
  block  : Nat
  gidx   : Nat
  flight : Nat
  addr   : DWord
  total  : DWord
  deriving DecidableEq, Repr

/-- A window of arrival: the pool address, the width and the requests (R321). -/
structure Combine where
  pa    : Nat
  wide  : Bool
  reqs  : List AddReq
  deriving DecidableEq, Repr

/-! ## Matrix engines -/

/-- One weight bank of a weight tile (R248): the format code of its cells, those cells that have another one, each as 128 × column + row with its
code, the tile scale, the poison marks by column, a bit for each row, and the element codes by column. A list of no columns stands for cells
without marks, or for weights of +0. -/
structure MxBank where
  fmt   : Nat
  odd   : List (Nat × Nat)
  scale : Word
  bad   : List (BitVec 128)
  cols  : List (List Nat)
  deriving DecidableEq, Repr

/-- A bank as a grant leaves it (R250): +0 in E4M3, scale 1.0. -/
def MxBank.clean : MxBank := ⟨0, [], 0x3F800000, [], []⟩

/-- A weight tile by its segment and column tile within the allocation's cells: bank 0, bank 1, and whether bank 1 is active. -/
structure MxWeights where
  seg  : Nat
  col  : Nat
  b0   : MxBank
  b1   : MxBank
  one  : Bool
  deriving DecidableEq, Repr

/-- An accumulator tile (R249, R275): its rows of FP32, an empty one for +0, its poison bits, and its mismatch record as R272 lays it
out. -/
structure MxTile where
  num  : Nat
  rows : List (List Word)
  bad  : BitVec 128
  mism : DWord
  deriving DecidableEq, Repr

/-- A tile of +0. -/
def MxTile.clean (k : Nat) : MxTile := ⟨k, [], 0, 0⟩

/-- An allocation of an engine (R250): its cluster, its block, its mode (1 full, 2 pane, 3 redundant), its pane, its tiles, and the
weight tiles that differ from those of a grant. In redundant mode the partner has mirrors of the tiles, and weight tiles of its own, whose
segments are the partner's (R273). -/
structure MxAlloc where
  cluster : Nat
  block   : Nat
  mode    : Nat
  pane    : Nat
  tiles   : List MxTile
  weights : List MxWeights
  mtiles  : List MxTile
  mweights : List MxWeights
  deriving DecidableEq, Repr

/-- A request for an allocation (R251): by the MXALLOC of a flight for n tiles, or by the restore of a block with what it held (R277). -/
structure MxReq where
  cluster : Nat
  block   : Nat
  gidx    : Nat
  flight  : Nat
  n       : Nat
  mode    : Nat
  pane    : Nat
  image   : Option MxAlloc
  deriving DecidableEq, Repr

/-- A granule that a drain writes (R269): the local address, the bytes, their mask, and whether they are poisoned. -/
structure MxOut where
  addr : Nat
  data : List Byte
  mask : BitVec 16
  bad  : Bool
  deriving DecidableEq, Repr

/-- An entry of a reservation table (R263): its engine, its issuer, the parameter block read at issue or the tiles of an MXZERO, the
shared window at its issue, its arrival and the cycle since which it is eligible, its grant as a plane cycle, its status (R279), and what
it still has to write. -/
structure MxEntry where
  key     : Nat
  cluster : Nat
  block   : Nat
  gidx    : Nat
  flight  : Nat
  /-- 1 MXWLOAD, 2 MXRUN, 3 MXDRAIN, 4 MXFILL, 5 MXZERO. -/
  op      : Nat
  parm    : List Byte
  mask    : Word
  slots   : List ShSlot
  arrived : Nat
  since   : Option Nat
  granted : Option Nat
  flags   : BitVec 5
  poison  : Bool
  emu     : Bool
  waitcyc : Nat
  outs    : List MxOut
  /-- Its results are discarded (R278). -/
  void    : Bool
  /-- 0, or the final STATE of an entry that is over and whose status record is still to be stored (R266). -/
  ended   : Nat
  /-- The block, the granule and what it held before stores that no MXFENCE had passed when the command was issued (R267, R12). -/
  loose   : List (Nat × Nat × List (List Byte))
  deriving DecidableEq, Repr

/-- A granule of a vault that a lane has stored and no MXFENCE of its group has yet passed (R267): the allocation's block and the
granule, the storing block, group and flight, and what the granule held before each of those stores. -/
structure Unfenced where
  home   : Nat
  gran   : Nat
  block  : Nat
  gidx   : Nat
  flight : Nat
  past   : List (List Byte)
  deriving DecidableEq, Repr

/-! ## Work: contexts, launches, blocks -/

/-- A placement-table entry (R21). -/
structure PlEntry where
  phys    : BitVec 8
  retmap  : BitVec 8
  chipmap : BitVec 16
  laymap  : BitVec 8
  clmap   : BitVec 16
  deriving DecidableEq, Repr

/-- A set entry of a launch (R340). -/
structure SetEntry where
  kind  : Nat
  place : Nat
  gang  : Bool
  strict : Bool
  lo    : List Nat
  hi    : List Nat
  /-- Members of a bitmap set, read when the launch is accepted. -/
  bits  : List Nat
  /-- A set-table entry was free for it at launch start (R349). -/
  inTable : Bool
  deriving DecidableEq, Repr

/-- A launch record as read (R337). -/
structure LaunchRec where
  entry    : Nat
  launchId : Nat
  groups   : Nat
  regs     : Nat
  sregs    : Nat
  vault    : Nat
  gridx    : Nat
  gridy    : Nat
  gridz    : Nat
  cls      : Nat
  lbars    : BitVec 8
  mxpri    : Nat
  flags    : BitVec 8
  drain    : Nat
  args     : DWord
  done     : Nat
  setsVa   : Nat
  nsets    : Nat
  deriving DecidableEq, Repr

/-- The empty record. -/
def LaunchRec.zero : LaunchRec := ⟨0, 0, 1, 4, 1, 0, 1, 1, 1, 0, 0, 0, 0, 0, 0, 0, 0, 0⟩

/-- A live launch (R336 to R343, R376). -/
structure Launch where
  key      : Nat
  pasid    : Nat
  addr     : Nat
  rc       : LaunchRec
  sets     : List SetEntry
  /-- Launch barriers for which a cell was free at launch start (R349). -/
  lcells   : List Nat
  nest     : Nat
  /-- The block whose SPAWN started it (R360). -/
  parent   : Option Nat
  /-- The queue that started it (R374), and the view its children run in. -/
  queue    : Option Nat
  /-- The next linear index that the dispatcher comes to, those above it already placed with a set (R341), flushed blocks that go first (R397),
  and withdrawn ones (R361). -/
  nextBlk  : Nat
  ahead    : List Nat
  again    : List Nat
  withdrawn : List Nat
  /-- Withdrawn blocks not yet counted: the block and the block that fetched it (R361). -/
  fetched  : List (Nat × Nat)
  completed : Nat
  noworld  : Nat
  /-- Contributions to set-barrier reductions (R348). -/
  contribs : List Contribution
  /-- Sum of ISSUED over completed blocks, and how many completed by running (R395). -/
  issuedSum : Nat
  ran      : Nat
  /-- Issues of its groups not yet charged to its queue (R375). -/
  owed     : Nat
  /-- Ended by an unhandled trap or by containment (R386, R466). -/
  torn     : Bool
  /-- The instance of its PLACE in which each set's members go, once one has been placed (R341). -/
  keys     : List (Nat × Nat)
  deriving DecidableEq, Repr

/-- Where a block is (R396, R422). -/
inductive Residence where
  | running | draining (left : Nat) (since : Nat) | flushing | saving | suspending | saved | discarded
  deriving DecidableEq, Repr

/-- A block that has been placed (R335, R403). -/
structure Block where
  key      : Nat
  launch   : Nat
  pasid    : Nat
  lin      : Nat
  bx       : Nat
  byy      : Nat
  bz       : Nat
  ngroups  : Nat
  /-- Logical location ID of group 0's core, slot and partition zero, and whether the block is spread over its cluster. -/
  home     : Word
  spread   : Bool
  res      : Residence
  vault    : Alloc
  /-- Instructions issued, WIDE, SPAWN children still running (R395, R360). -/
  issued   : Nat
  wide     : Bool
  children : Nat
  /-- Sharing-group slot (R170). -/
  share    : Option (Word × Nat)
  /-- Block-barrier ids in use, each with its cell (R349), and those that have been found exhausted (R393). -/
  bcells   : List Nat
  xcells   : List Nat
  /-- The view it runs in, 0 for the root (R410), and its world index (special 0xEC). -/
  view     : Nat
  worldIdx : Nat
  /-- WHY of the image that its save writes (R401). -/
  why      : Nat
  deriving DecidableEq, Repr

/-- A block holds resources of a core or cluster. -/
def Block.resident (b : Block) : Bool :=
  match b.res with
  | .saved => false
  | .discarded => false
  | _ => true

/-- What a saved block's units no longer hold (R398, R399): its copy items, matrix allocations, queued matrix entries and operand-log entries,
and its mapped segments, each with its local page, its form and its global address; HBEAT at its save; and its image as firmware has written it, with
its place among the images of the context's (R401, R409). -/
structure Parked where
  block   : Nat
  items   : List CopyItem
  allocs  : List MxAlloc
  entries : List MxEntry
  logs    : List LogEntry
  segs    : List (Nat × Bool × Nat)
  tick    : DWord
  image   : Option (Nat × List Byte)
  deriving DecidableEq, Repr

/-- A context (R112, R477). -/
structure Context where
  pasid   : Nat
  ptroot  : DWord
  shape   : Word
  place   : List PlEntry
  sdtbase : DWord
  mxfmt   : DWord
  tsbase  : DWord
  winbase : DWord
  qbase   : DWord
  budget  : BitVec 8
  live    : BitVec 8
  grant   : BitVec 8
  vpbase  : DWord
  vpsize  : Word
  xvec    : DWord
  xdump   : DWord
  rights  : Word
  vf      : Nat
  saveBase : Nat
  saveSize : Nat
  /-- Generation of the discovery page (R29), and the cycle at which the scanner reads the queue table again (R366). -/
  gen     : DWord
  qdue    : Nat
  /-- Every package of its placement has reported status 0 (R478): it runs. -/
  begun   : Bool
  deriving DecidableEq, Repr

/-! ## The fabric -/

/-- What a fabric request does (R316, R317, R320). -/
inductive FabKind where
  | put | get | nmo
  deriving DecidableEq, Repr

/-- Bytes of a window from an offset, and the poisoned granules among them, counted from its first. -/
structure FabChunk where
  off   : Nat
  bytes : List Byte
  bad   : List Nat
  deriving DecidableEq, Repr

/-- A fabric request of this package that is outstanding (R309, R316 to R320): its issuer, whose flight it decrements unless an outbox sent
it (R426); its own address; the window, the offset, the length and the target package; for an NMO the record, its order, the arena and the
physical address; then the offsets of the chunks still to move, the data of a GET, the result of an NMO, whether the target has counted a
PUT, the code of R323 with its offset, and the pages answered fatal. -/
structure FabReq where
  key     : Nat
  kind    : FabKind
  pasid   : Nat
  view    : Nat
  block   : Nat
  gidx    : Nat
  flight  : Option Nat
  loc     : Bool
  slots   : List ShSlot
  addr    : Nat
  win     : Nat
  off     : Nat
  n       : Nat
  target  : Nat
  host    : Bool
  parm    : List Byte
  ord     : BitVec 2
  nores   : Bool
  pa      : Nat
  arena   : Nat
  asize   : Nat
  todo    : List Nat
  data    : List FabChunk
  result  : Option (List DWord × Nat)
  counted : Bool
  code    : Nat
  codeAt  : Nat
  refused : List Nat
  /-- Chunks that another package has still to answer, or that a GET has still to write, and the lines for whose held writes VIEW_POOL has been recorded
  (R416). -/
  left    : List Nat
  held    : List Nat
  deriving DecidableEq, Repr

/-- The counters of a window of a context (R315); those not listed are zero. -/
structure WinCount where
  pasid : Nat
  win   : Nat
  tgt   : DWord
  src   : Word
  err   : BitVec 8
  deriving DecidableEq, Repr

/-- A request of another package that stands in a request buffer of a port (R309): a PUT chunk, or the chunk of a GET; the context, the package
that sent it and its tag, the window, the offset and the length of the whole, the offset of the chunk, its bytes with their poisoned granules,
and the pages answered fatal. -/
structure Arrival where
  put     : Bool
  port    : Nat
  pasid   : Nat
  sender  : Nat
  tag     : Nat
  win     : Nat
  off     : Nat
  n       : Nat
  at_     : Nat
  bytes   : List Byte
  bad     : List Nat
  refused : List Nat
  deriving DecidableEq, Repr

/-- A PUT of another package as its target keeps it (R316): the chunks that have been written or have failed, the code of R323 with the offset of
the first granule that failed, and whether it has been counted or answered. -/
structure InPut where
  pasid  : Nat
  sender : Nat
  tag    : Nat
  got    : List Nat
  code   : Nat
  codeAt : Nat
  done   : Bool
  deriving DecidableEq, Repr

/-- What has left the package: its class (0 PUT chunk, 1 GET request, 2 reply to a GET, 3 acknowledgement, 4 marker, 5 collective chunk, 6
MSI-X, 7 reply to the host, 8 cancellation of a collective), the port or virtual function, the context, the target package or vector, two
numbers and bytes with their poisoned granules. -/
structure Sent where
  kind   : Nat
  port   : Nat
  pasid  : Nat
  target : Nat
  a      : Nat
  b      : Nat
  bytes  : List Byte
  bad    : List Nat
  deriving DecidableEq, Repr

/-- A result that a pool node keeps for a port under a request's tag (R311). -/
structure NodeResult where
  node   : Nat
  port   : Nat
  tag    : Nat
  result : List DWord × Nat
  deriving DecidableEq, Repr

/-- The chunks of a collective as its pool node holds them (R322): the context, the sequence number, the chunk, the member and its bytes,
in the wire type; `digest` is that of its descriptor. A member of 128 stands for the cancellation of the collective (R159). -/
structure CollChunk where
  pasid  : Nat
  seq    : Nat
  chunk  : Nat
  member : Nat
  digest : Nat
  bytes  : List Byte
  bad    : List Nat
  deriving DecidableEq, Repr

/-! ## Queues -/

/-- A packet that has been read (R368, R369): whether it has started and completed, its launch, the block of its prologue, the prologue's
run count, whether the prologue runs again after the launch, and the batten core that it has gone to (R372). -/
structure Packet where
  idx     : Nat
  bytes   : List Byte
  started : Bool
  done    : Bool
  launch  : Option Nat
  pro     : Option Nat
  runs    : Nat
  again   : Bool
  core    : Nat
  deriving DecidableEq, Repr

/-- A queue (R366, R367, R370, R371, R374): the entry as last read, the device's read index, the interval state and the cycle at which its
write index is due, the stop, the deficit, the packets read and not completed, a pre-emption request that stays with it (R380), whether its read
waits for a translation, and the charges of launches that have ended, for the next tick (R375). -/
structure Queue where
  pasid   : Nat
  num     : Nat
  valid   : Bool
  ring    : Nat
  log2n   : Nat
  weight  : Nat
  widx    : Nat
  ridx    : Nat
  qstat   : Nat
  rd      : Nat
  k       : Nat
  due     : Nat
  stopped : Bool
  deficit : Int
  packets : List Packet
  /-- WHY of a pre-emption request that it keeps for its next packet (R380). -/
  preempt : Option Nat
  /-- A read waits for a translation: of the write index, or of the packets up to an index (R380). -/
  asked   : Bool
  upto    : Nat
  owed    : Nat
  deriving DecidableEq, Repr

/-! ## Snapshots -/

/-- A colour's state in the directory (R437). -/
inductive ColourState where
  | free | cutting | recording | closing
  deriving DecidableEq, Repr

/-- What a record preserves (R445): a page, a vault segment, a register row, a cache line of a core or chiplet, a matrix unit; or what has no
granule. -/
inductive SnapRef where
  | page (pa : Nat)
  | segment (block index : Nat)
  | row (block gidx index : Nat)
  | line (unit view pa : Nat)
  | matrix (cluster unit : Nat)
  | other
  deriving DecidableEq, Repr

/-- A record of a colour (R451): its kind, PKG, the granule, ID and LAUNCHID, its contents at the cut, none where poison has lost them, and where in the
destination it has been written. -/
structure SnapRec where
  kind   : Nat
  pkg    : Nat
  ref    : SnapRef
  id     : Nat
  launch : Nat
  bytes  : List Byte
  out    : Option Nat
  deriving DecidableEq, Repr

/-- A colour of a context (R436 to R444, R453). -/
structure Colour where
  pasid   : Nat
  num     : Nat
  st      : ColourState
  seq     : Nat
  /-- The descriptor as read at the claim (R449). -/
  desc    : List Byte
  /-- The SNAP that claimed it: block, group and flight. -/
  snapper : Option (Nat × Nat × Nat)
  /-- The tick at which this package takes its cut, once it is known; whether it has; HBEAT at the cut. -/
  cutDue  : Option Nat
  cut     : Bool
  cutTick : DWord
  /-- Ports whose marker has arrived here, 32 more than those whose marker has arrived at its pool node, and, for the channels of other packages, 64 more
  than 128 times the node and the node's port; the pool nodes, and 128 more than the logical packages, that have still to take their cut; the packages
  that have still to preserve their granules and close their logs; and the pool pages that were listed at the claim (R444). -/
  markers : List Nat
  nodes   : List Nat
  away    : List Nat
  pool    : List Nat
  recs    : List SnapRec
  /-- Matrix units still unpreserved. -/
  unpres  : List SnapRef
  /-- Requests outstanding at the cut whose responses are still to be logged (R443). -/
  awaits  : List Nat
  /-- Bytes written; the shared cursor of the destination, from DEST on; and what each streamer has left of its piece: the streamer, where it goes on, and
  the bytes left (R450). -/
  bytes   : Nat
  cursor  : Nat
  pieces  : List (Nat × Nat × Nat)
  failed  : Bool
  code    : Nat
  deriving DecidableEq, Repr

/-! ## Management -/

/-- States of a live update (R472). -/
inductive UpdateState where
  | idle | staged | quiescing | handing | trial
  deriving DecidableEq, Repr

/-- An entry of the error log (R461, R465, R471): a code of the kind of error, the context, and numbers that say where. -/
structure ErrEntry where
  kind  : Nat
  pasid : Nat
  nums  : List Nat
  deriving DecidableEq, Repr

/-- An answer to a management command or an SPDM request: the command, its status and its bytes. -/
structure Reply where
  command : String
  status  : Nat
  bytes   : List Byte
  deriving DecidableEq, Repr

/-- A request for pre-emption that has still to be applied (R394): a context, one of its queues or one block, and WHY of the image. -/
structure Preempt where
  pasid : Nat
  queue : Option Nat
  block : Option Nat
  why   : Nat
  deriving DecidableEq, Repr

/-- Firmware, security, power and errors (R467 to R476). -/
structure Management where
  /-- The boot ROM's version, the active slot, the images of the two slots, the configuration, the security version of the image and the
  fused minimum, the key digests of the fuse slots and those revoked, and the count of live updates (R469, R470). -/
  rom      : Nat
  active   : Nat
  image0   : List Byte
  image1   : List Byte
  config   : List Byte
  minimum  : Nat
  keys     : List (List Byte)
  revoked  : BitVec 4
  updates  : Nat
  /-- No image could be started (R469). -/
  recovery : Bool
  /-- Live update: its state, the handover structure, the tick of the trial's start, MXEMU and the format page of the image on trial, and the page of the
  image that runs, none being the one shipped (R472, R98, R99). -/
  update   : UpdateState
  handover : List Byte
  trial    : Nat
  newEmu   : DWord
  newPage  : List Byte
  page     : List Byte
  /-- SPDM: the version and capabilities exchanged, and the transcript (R470). -/
  spdm     : Nat
  script   : List Byte
  /-- The power cap in watts, gating, and a warm reset held (R475). -/
  cap      : Nat
  gated    : Bool
  tripped  : Bool
  errors   : List ErrEntry
  quarantine : List Nat
  /-- Pages whose scrub has failed, and that the list was full (R467). -/
  failed   : List Nat
  degraded : Bool
  /-- Replay mismatches, each with its partition and tick, and retired partitions (R465). -/
  replays  : List (Nat × Nat)
  retired  : List Nat
  /-- The tick of the last lock-step mismatch (R468), and the groups of the two Ridge cores, which run firmware (R372, log 87). -/
  ridge    : Option Nat
  pair     : Group × Group
  replies  : List Reply
  deriving DecidableEq, Repr

/-- At a cold reset (R469, R474; log 3): the image that the package was delivered with runs from slot 0 (log 72). -/
def Management.reset : Management where
  rom := 1
  active := 0
  image0 := Config.shippedImage
  image1 := []
  config := []
  minimum := 0
  keys := (List.range 4).map Config.fuseKey
  revoked := 0
  updates := 0
  recovery := false
  update := .idle
  handover := []
  trial := 0
  newEmu := 0x1C0
  newPage := []
  page := []
  spdm := 0
  script := []
  cap := 3000
  gated := false
  tripped := false
  errors := []
  quarantine := []
  failed := []
  degraded := false
  replays := []
  retired := []
  ridge := none
  pair := ({ Group.start 0 0 0 0 0 0 0 0 with front := true, act := 1 }, { Group.start 0 0 0 0 0 0 0 0 with front := true, act := 1 })
  replies := []

/-- An instruction of class F4 or F6 that a partition may execute again (R465): the partition, the word, the lanes that it enabled, and its operands as it
read them. -/
structure Replayed where
  part : Nat
  word : DWord
  mask : DWord
  ops  : List (Lanes DWord)
  deriving DecidableEq, Repr

/-! ## What moves next -/

/-- What an event row concerns and what reaches the package from outside with it: a block and a group, the key of an object,
numbers, bytes and an answer. Each event's meaning says which of them it reads. -/
structure Cue where
  block : Nat
  gidx  : Nat
  key   : Nat
  nums  : List Nat
  bytes : List Byte
  yes   : Bool
  deriving DecidableEq, Repr

/-- The empty cue. -/
def Cue.none : Cue := ⟨0, 0, 0, [], [], false⟩

/-- The caches that a line or an entry leaves for lack of room (R120, R172, R174, R183): an L1's lines carry a view tag. -/
inductive CacheKind where
  | l1 (view : Nat) | l2 | tlb (k : TlbKind) | code
  deriving DecidableEq, Repr

/-- One entry of the agenda (log 1): an event of the table, the group that issues next, or a replacement: the line or entry of an address
leaves a cache of a unit (log 6). -/
inductive Turn where
  | event (i : Instr) (c : Cue)
  | issue (block gidx : Nat)
  | evict (cache : CacheKind) (unit pasid addr : Nat)
  deriving DecidableEq, Repr

/-- The package. -/
structure State where
  /-- Core cycles (R8), and HBEAT (R39). -/
  cycle   : Nat
  hbeat   : DWord
  mxemu   : DWord
  /-- Pod slot of the package (R18). -/
  slot    : Nat
  /-- The model's own: free values used so far, and names given so far (log 4, log 1). -/
  free    : Nat
  nextKey : Nat
  /-- The model's own: what moves next, the turns taken in the default order, and the present event's cue (log 1). -/
  agenda  : List Turn
  turn    : Nat
  cue     : Cue
  mem     : Memory
  /-- Poisoned granules of memory by physical granule number (R109), and those for which a cache holds whole stores that have still to be written back
  (R463): a core's L1, or an L2 as 512 more than its chiplet, and the granule. -/
  poison  : List Nat
  mended  : List (Nat × Nat)
  /-- Committed HDM decoders in force, and those that take effect once no context is resident (R101): base and size. -/
  hdm     : List (Nat × Nat)
  hdmNext : List (Nat × Nat)
  l1      : List CByte
  l2      : List CByte
  /-- Home copies of pool and host lines (R176). -/
  homes   : List CByte
  icache  : List IByte
  tlb     : List TlbEntry
  olog    : List LogEntry
  ats     : List AtsReq
  segs    : List Segment
  vlines  : List ViewLine
  views   : List View
  sibs    : List SibSet
  /-- Tags of committed views whose lines the L2 slices have still to retag (R418): context and name. -/
  aliases : List (Nat × Nat)
  sharing : List Sharing
  /-- Pages not yet preserved for a colour of a context: context, colour, physical address (R445); and lines: context, colour, the cache that holds the
  line (a core's L1, 256 more than a chiplet for its L2, 512 more for its home copies), physical address. -/
  unpresPages : List (Nat × Nat × Nat)
  unpresLines : List (Nat × Nat × Nat × Nat)
  /-- The eave streamers: a chiplet, and how far the bytes that it has written take it, at its rate (R450). -/
  eave    : List (Nat × Nat)
  items   : List CopyItem
  /-- Stores of engines and of the device that wait, oldest first. -/
  owed    : List Owed
  sched   : List SchedEntry
  mails   : List Mail
  combine : List Combine
  /-- Matrix engines: allocations, requests in arrival order, entries in arrival order, and unfenced granules (R267). -/
  mxAllocs : List MxAlloc
  mxReqs  : List MxReq
  mxEntries : List MxEntry
  unfenced : List Unfenced
  /-- Failed Rosvy ports (R311), those whose other side has its stop bit set, and those where this package has set its own (R309). -/
  ports   : List Nat
  stops   : List Nat
  stopping : List Nat
  /-- Fabric requests in the order of their issue, those of other packages in the request buffers and their PUTs, window counters, results kept at
  pool nodes, chunks of collectives, and what has left the package. -/
  fabric  : List FabReq
  inbox   : List Arrival
  inPuts  : List InPut
  windows : List WinCount
  results : List NodeResult
  chunks  : List CollChunk
  sent    : List Sent
  /-- Queues, the arbiter's list of active ones with the place it visits next (R374), pre-emption requests, and what saved blocks hold at units. -/
  queues  : List Queue
  /-- Reads of write indices made in a cycle (R371): the cycle and their number. -/
  scans   : Nat × Nat
  arbiter : List (Nat × Nat)
  arbAt   : Nat
  preempts : List Preempt
  /-- Saved blocks that are ready to come back, in the order in which they became so (R376). -/
  returns : List Nat
  parked  : List Parked
  colours : List Colour
  mgmt    : Management
  /-- Contexts that firmware has still to contain (R466), and PASIDs torn down but not yet reported free, with whether a DESTROY waits for that
  (R124, R479); and contexts whose removal waits for stores of theirs, with that and whether the virtual function is told of it (R466). -/
  toContain : List Nat
  dying   : List (Nat × Bool × Bool)
  leaving : List (Nat × Bool)
  ctxs    : List Context
  launches : List Launch
  blocks  : List Block
  /-- The group that issues, and the others. -/
  cur     : Group
  others  : List Group
  /-- Issues of the present cycle by groups that have left their partitions since (R379): the partition and the cycle. -/
  gone    : List (Nat × Nat)
  /-- What completed blocks have freed in a cycle (R380): the cycle, group slots with their rows, and runs of vault bytes. -/
  freed   : Nat × List (Nat × Nat × Nat) × List (Nat × Nat × Nat)
  /-- The request that the view table has served last (R423): the cycle, the context and the location ID. -/
  tabled  : Nat × Nat × Nat
  /-- The replay queues of the partitions, the latest instruction of each first (R465). -/
  replayQ : List Replayed
  deriving DecidableEq, Repr

/-- The package right after a cold reset (R474): no context, launch, block or group; every cache empty. -/
def State.reset : State where
  cycle := 0
  hbeat := 0
  mxemu := 0x1C0
  slot := 0
  free := 0
  nextKey := 1
  agenda := []
  turn := 0
  cue := Cue.none
  mem := []
  poison := []
  mended := []
  hdm := []
  hdmNext := []
  l1 := []
  l2 := []
  homes := []
  icache := []
  tlb := []
  olog := []
  ats := []
  segs := []
  vlines := []
  views := []
  sibs := []
  aliases := []
  sharing := []
  unpresPages := []
  unpresLines := []
  eave := []
  items := []
  owed := []
  sched := []
  mails := []
  combine := []
  mxAllocs := []
  mxReqs := []
  mxEntries := []
  unfenced := []
  ports := []
  stops := []
  stopping := []
  fabric := []
  inbox := []
  inPuts := []
  windows := []
  results := []
  chunks := []
  sent := []
  queues := []
  scans := (0, 0)
  arbiter := []
  arbAt := 0
  preempts := []
  returns := []
  parked := []
  colours := []
  mgmt := Management.reset
  toContain := []
  dying := []
  leaving := []
  ctxs := []
  launches := []
  blocks := []
  cur := Group.idle
  others := []
  gone := []
  freed := (0, [], [])
  tabled := (0, 0, 0)
  replayQ := []

end Sys2Proof.Machine
end

