-- ==== Sys2Proof/Machine/Ops.lean ====
section
/-! DEFINITION. The named operations over the state: memory in its canonical form, registers, groups, free values, the choice of
a run (R331), taking a trap (R381, R384, R386) and ending a handler (R382, R389). -/

namespace Sys2Proof.Machine

/-! ## Bytes by address -/

/-- The byte at an address; an unlisted address reads zero (log 5). -/
def Memory.get : Memory → Nat → Byte
  | [], _ => 0
  | (a, b) :: m, x => if x = a then b else if x < a then 0 else Memory.get m x

/-- Writes one byte and keeps the canonical form. -/
def Memory.set : Memory → Nat → Byte → Memory
  | [], x, v => if v = 0 then [] else [(x, v)]
  | (a, b) :: m, x, v =>
    if x = a then (if v = 0 then m else (x, v) :: m)
    else if x < a then (if v = 0 then (a, b) :: m else (x, v) :: (a, b) :: m)
    else (a, b) :: Memory.set m x v

/-- The bytes from an address upwards. -/
def Memory.read (m : Memory) (a n : Nat) : List Byte := (List.range n).map fun i => m.get (a + i)

/-- Writes bytes from an address upwards. -/
def Memory.write : Memory → Nat → List Byte → Memory
  | m, _, [] => m
  | m, a, b :: bs => Memory.write (m.set a b) (a + 1) bs

/-- The canonical form: addresses strictly rising from `lo`, no byte equal to what an unlisted address reads as. -/
def Memory.wfFrom : Nat → Memory → Bool
  | _, [] => true
  | lo, (a, b) :: m => decide (lo ≤ a) && (b != 0) && Memory.wfFrom (a + 1) m

/-- The canonical form. -/
def Memory.wf (m : Memory) : Bool := Memory.wfFrom 0 m

/-- The little-endian number of bytes (R4). -/
def leNat : List Byte → Nat
  | [] => 0
  | b :: bs => b.toNat + 256 * leNat bs

/-- The low `n` bytes of a number, least significant first (R4). -/
def natBytes : Nat → Nat → List Byte
  | 0, _ => []
  | n + 1, x => BitVec.ofNat 8 x :: natBytes n (x / 256)

/-- Inserts into a strictly rising list of numbers. -/
def insertNat (x : Nat) : List Nat → List Nat
  | [] => [x]
  | a :: l => if x < a then x :: a :: l else if x = a then a :: l else a :: insertNat x l

/-! ## Registers -/

/-- Element `i` of a vector, or `d` past its end. -/
def vget {α : Type} {n : Nat} (v : Vector α n) (i : Nat) (d : α) : α := v[i]?.getD d

/-- Vector register row `r`. -/
def Group.vrow (g : Group) (r : Nat) : Lanes Word := vget g.vregs r (Lanes.const 0)
/-- Scalar register `r`. -/
def Group.sreg (g : Group) (r : Nat) : DWord := vget g.sregs r 0
/-- Predicate `r`; p0 reads as all ones (R240). -/
def Group.preg (g : Group) (r : Nat) : DWord := if r = 0 then allOnes else vget g.preds r 0
/-- Walker `r`. -/
def Group.walker (g : Group) (r : Nat) : Walker := vget g.walkers r Walker.unbound
/-- Counter `f`. -/
def Group.counter (g : Group) (f : Nat) : BitVec 6 := vget g.cnts f 0

/-- Lanes of `mask` take the new value; the others keep the old (R54). -/
def mergeLanes {α : Type} (mask : DWord) (new old : Lanes α) : Lanes α :=
  Lanes.ofFn fun i => if lane mask i then new.get i else old.get i

/-- Writes row `r`, which preserves it (R446); a write to a row past the allocation is discarded (R364). -/
def Group.setRow (g : Group) (r : Nat) (mask : DWord) (val : Lanes Word) : Group :=
  if r < g.alloc then
    { g with
      vregs := g.vregs.setIfInBounds r (mergeLanes mask val (g.vrow r))
      unpres := g.unpres.map fun b => b &&& ~~~(1#149 <<< r) }
  else g

/-- Writes the bits of `mask` of a predicate; a write to p0 is ignored (R53). -/
def Group.setPred (g : Group) (r : Nat) (mask val : DWord) : Group :=
  if r = 0 then g
  else { g with preds := g.preds.setIfInBounds r ((val &&& mask) ||| (g.preg r &&& ~~~mask)) }

/-- Writes a scalar register. -/
def Group.setSreg (g : Group) (r : Nat) (v : DWord) : Group := { g with sregs := g.sregs.setIfInBounds r v }

/-- Registers that a write fills whole: their poison goes (R462). -/
def RegWrite.whole : RegWrite → List RegRef
  | .vec r pair mask _ => if mask = allOnes then (if pair then [.vec r, .vec (r + 1)] else [.vec r]) else []
  | .sca r _ => [.sca r]
  | .prd r mask _ => if mask = allOnes then [.prd r] else []
  | .wlk r _ => [.wlk r]

/-- One register write, its poison aside. -/
def Group.putReg (g : Group) : RegWrite → Group
  | .vec r pair mask val =>
    let g := g.setRow r mask (val.map (·.setWidth 32))
    if pair then g.setRow (r + 1) mask (val.map fun (x : DWord) => BitVec.setWidth 32 (x >>> 32)) else g
  | .sca r v => g.setSreg r v
  | .prd r mask v => g.setPred r mask v
  | .wlk r w => { g with walkers := g.walkers.setIfInBounds r w }

/-- One register write. -/
def Group.writeReg (g : Group) (w : RegWrite) : Group :=
  { g.putReg w with poison := g.poison.filter fun r => !w.whole.contains r }

/-- The places a write goes to. -/
def RegWrite.refs : RegWrite → List RegRef
  | .vec r pair _ _ => if pair then [.vec r, .vec (r + 1)] else [.vec r]
  | .sca r _ => [.sca r]
  | .prd r _ _ => [.prd r]
  | .wlk r _ => [.wlk r]

/-- FPST takes further sticky flags (R38). -/
def Group.raise (g : Group) (flags : BitVec 5) : Group := { g with fpst := g.fpst ||| flags.setWidth 64 }

/-- Decrements the counter that `cnt` names; codes above 11 name none (R50, R60). -/
def Group.release (g : Group) (cnt : BitVec 4) : Group :=
  if cnt.toNat < 12 then { g with cnts := g.cnts.setIfInBounds cnt.toNat (g.counter cnt.toNat - 1) } else g

/-- Increments the counter that `cnt` names (R60). -/
def Group.claim (g : Group) (cnt : BitVec 4) : Group :=
  if cnt.toNat < 12 then { g with cnts := g.cnts.setIfInBounds cnt.toNat (g.counter cnt.toNat + 1) } else g

/-! ## Where groups, blocks, launches and contexts are -/

/-- The group is the one of this index in this block. -/
def Group.is (g : Group) (block gidx : Nat) : Bool := g.live && g.block == block && g.gidx == gidx

/-- Every group of the package. -/
def State.groups (s : State) : List Group := (s.cur :: s.others).filter (·.live)

/-- The group of an index in a block. -/
def State.group? (s : State) (block gidx : Nat) : Option Group := (s.cur :: s.others).find? (·.is block gidx)

/-- Changes the groups that `p` selects. -/
def State.mapGroups (s : State) (p : Group → Bool) (f : Group → Group) : State :=
  { s with cur := if p s.cur then f s.cur else s.cur, others := s.others.map fun g => if p g then f g else g }

/-- Changes one group. -/
def State.onGroup (s : State) (block gidx : Nat) (f : Group → Group) : State := s.mapGroups (·.is block gidx) f

/-- Removes the groups that `p` selects. -/
def State.dropGroups (s : State) (p : Group → Bool) : State :=
  { s with cur := if p s.cur then Group.idle else s.cur, others := s.others.filter fun g => !p g }

/-- Makes a group the one that issues. -/
def State.choose (s : State) (block gidx : Nat) : State :=
  if s.cur.is block gidx then s
  else match s.others.find? (·.is block gidx) with
    | none => s
    | some g =>
      { s with
        cur := g
        others := (if s.cur.live then [s.cur] else []) ++ s.others.filter fun h => !h.is block gidx }

/-- The block of a key. -/
def State.block? (s : State) (k : Nat) : Option Block := s.blocks.find? (·.key == k)
/-- Changes one block. -/
def State.onBlock (s : State) (k : Nat) (f : Block → Block) : State :=
  { s with blocks := s.blocks.map fun b => if b.key == k then f b else b }
/-- The launch of a key. -/
def State.launch? (s : State) (k : Nat) : Option Launch := s.launches.find? (·.key == k)
/-- Changes one launch. -/
def State.onLaunch (s : State) (k : Nat) (f : Launch → Launch) : State :=
  { s with launches := s.launches.map fun l => if l.key == k then f l else l }
/-- The context of a PASID. -/
def State.ctx? (s : State) (pasid : Nat) : Option Context := s.ctxs.find? (·.pasid == pasid)
/-- Changes one context. -/
def State.onCtx (s : State) (pasid : Nat) (f : Context → Context) : State :=
  { s with ctxs := s.ctxs.map fun c => if c.pasid == pasid then f c else c }

/-- The block of a group. -/
def State.blockOf (s : State) (g : Group) : Option Block := s.block? g.block
/-- The launch of a group. -/
def State.launchOf (s : State) (g : Group) : Option Launch := (s.blockOf g).bind fun b => s.launch? b.launch
/-- The context of a group. -/
def State.ctxOf (s : State) (g : Group) : Option Context := (s.blockOf g).bind fun b => s.ctx? b.pasid
/-- The PASID of a group; 0 where its block is gone. -/
def State.pasidOf (s : State) (g : Group) : Nat := ((s.blockOf g).map (·.pasid)).getD 0
/-- The view a group runs in, 0 for the root (R410). -/
def State.viewOf (s : State) (g : Group) : Nat := ((s.blockOf g).map (·.view)).getD 0

/-- Work that waits on firmware waits, and the scanner starts no packet (R473). -/
def State.updating (s : State) : Bool := s.mgmt.update == .quiescing || s.mgmt.update == .handing || s.mgmt.update == .trial
/-- Firmware serves a management command: it does not update itself (R473), no thermal trip holds the package (R475), and an SPDM session stands (R476), which
is taken to need the exchange of versions, capabilities and algorithms (DESIGN CHOICE, log 73). -/
def State.serving (s : State) : Bool := !s.updating && !s.mgmt.tripped && decide (3 ≤ s.mgmt.spdm)

/-- A context stands still for a snapshot's cut (R439). -/
def State.cutHolds (s : State) (pasid : Nat) : Bool :=
  s.colours.any fun c => c.pasid == pasid && c.st == .cutting && !c.cut && (match c.cutDue with | some t => decide (t ≤ s.hbeat.toNat) | none => false)

/-- A name never given before. -/
def State.fresh (s : State) : Nat × State := (s.nextKey, { s with nextKey := s.nextKey + 1 })

/-- Whatever held a group back may have changed: every stalled group tries again (R378). -/
def State.wake (s : State) : State :=
  s.mapGroups (fun g => g.hold == .stalled) fun g => { g with hold := .free }

/-! ## The error log -/

/-- Kinds of entries of the error log (log 70): a corrected error, an uncorrectable one, a replay mismatch, a failed port, a Ridge mismatch, a
containment, and a tier entry whose destination does not fit its block (R106). -/
def ErrKind.corrected := 1
def ErrKind.uncorrectable := 2
def ErrKind.replay := 3
def ErrKind.port := 4
def ErrKind.ridge := 5
def ErrKind.contained := 6
def ErrKind.tier := 7

/-- An entry of firmware's error log (R461, R471): it names a PASID and holds no data. -/
def State.logError (s : State) (kind pasid : Nat) (nums : List Nat) : State :=
  { s with mgmt := { s.mgmt with errors := s.mgmt.errors ++ [⟨kind, pasid, nums⟩] } }

/-! ## The run that issues (R331, R382) -/

/-- A run: its lanes, its PC and its call depth. -/
structure Run where
  mask  : DWord
  pc    : BitVec 57
  depth : BitVec 8
  deriving DecidableEq, Repr

/-- The PCs of the table that issues: the handler's while privileged (R382). -/
def Group.pcs (g : Group) : Lanes (BitVec 57) := if g.priv then g.handler.pc else g.pc
/-- The depths of the table that issues. -/
def Group.depths (g : Group) : Lanes (BitVec 8) := if g.priv then g.handler.depth else g.depth
/-- Its active entries. -/
def Group.active (g : Group) : DWord := if g.priv then g.handler.act &&& ~~~g.handler.blk else g.act &&& ~~~g.blk
/-- Its yield bits, cleared where every active entry has its bit set. -/
def Group.yields (g : Group) : DWord :=
  let y := if g.priv then g.handler.yld else g.yld
  if g.active &&& ~~~y = 0 then 0 else y

/-- The key by which runs are ordered: the deepest first, then the lowest PC (R331). -/
def Group.key (g : Group) (i : Nat) : Nat := (255 - (g.depths.get i).toNat) * 2 ^ 57 + (g.pcs.get i).toNat

/-- The least of a list of numbers. -/
def least : List Nat → Option Nat
  | [] => none
  | a :: l => some (l.foldl min a)

/-- The run whose WAIT holds the group: it is chosen until the WAIT is over (R357). -/
def Group.waitRun (g : Group) : Option Run := ((lanesOf g.lastRun).head?).map fun i => ⟨g.lastRun, g.lastPc, g.depths.get i⟩

/-- The run that R331 selects, none where no entry is active. -/
def Group.keyRun (g : Group) : Option Run :=
  let cand := g.active &&& ~~~g.yields
  match least ((lanesOf cand).map g.key) with
  | none => none
  | some k =>
    let m := maskOf fun i => lane cand i && g.key i == k
    match (lanesOf m).head? with
    | none => none
    | some i => some ⟨m, g.pcs.get i, g.depths.get i⟩

/-- The run that issues next. -/
def Group.nextRun (g : Group) : Option Run :=
  match g.hold with
  | .wait _ => g.waitRun
  | _ => g.keyRun

/-- Clears every yield bit where every active entry has its bit set (R331). -/
def Group.clearYields (g : Group) : Group :=
  if g.priv then { g with handler := { g.handler with yld := g.yields } } else { g with yld := g.yields }

/-- Sets PC and depth of lanes in the table that issues. -/
def Group.setPcs (g : Group) (pc : Nat → BitVec 57) (depth : Nat → BitVec 8) (mask : DWord) : Group :=
  let p := mergeLanes mask (Lanes.ofFn pc) g.pcs
  let d := mergeLanes mask (Lanes.ofFn depth) g.depths
  if g.priv then { g with handler := { g.handler with pc := p, depth := d } } else { g with pc := p, depth := d }

/-- The lanes of a run go on at the next instruction, `n` bytes further (R332). -/
def Group.advance (g : Group) (r : Run) (n : Nat) : Group :=
  g.setPcs (fun _ => r.pc + BitVec.ofNat 57 n) (fun _ => r.depth) r.mask

/-! ## Free values (log 4) -/

/-- The free word of a place in this step. -/
def State.freeWord (s : State) (k : Nat) : DWord := Config.freeWord s.free k
/-- The free bit of a place in this step. -/
def State.freeBit (s : State) (k : Nat) : Bool := Config.freeBit s.free k
/-- A free choice among some things, the first where there is one only. -/
def State.freePick {α : Type} (s : State) (place : Nat) (v : α) (vs : List α) : α :=
  ((v :: vs)[(s.freeWord place).toNat % (vs.length + 1)]?).getD v

/-! ## Taking a trap and returning -/

/-- Cause codes (R384). -/
def Cause.illegalInstr := 0x01
def Cause.illegalOperand := 0x02
def Cause.priv := 0x03
def Cause.latchInvalid := 0x04
def Cause.misalign := 0x05
def Cause.pageFatal := 0x06
def Cause.prot := 0x07
def Cause.localBounds := 0x08
def Cause.localRevoked := 0x09
def Cause.dataPoison := 0x0A
def Cause.breakpoint := 0x0B
def Cause.softTrap := 0x0C
def Cause.mxFormat := 0x0D
def Cause.mxRecord := 0x0E
def Cause.mxMismatch := 0x0F
def Cause.barClass := 0x10
def Cause.barExhaust := 0x11
def Cause.setExhaust := 0x12
def Cause.viewExhaust := 0x13
def Cause.viewPool := 0x14
def Cause.worldEscape := 0x15
def Cause.worldPinned := 0x16
def Cause.worldState := 0x17
def Cause.shadowMismatch := 0x18
def Cause.copyRecord := 0x19
def Cause.window := 0x1A
def Cause.regExhaust := 0x1B

/-- A precise trap with its XADDR and XINFO (R384). -/
def Trap.precise (cause : Nat) (xaddr xinfo : DWord) : Trap := ⟨cause, xaddr, xinfo, 0, false, none, none⟩

/-- The address field of XPC, XSCR and XVEC: bits 56:1 (R383). -/
def addrField (v : DWord) : DWord := v &&& 0x01FFFFFFFFFFFFFE

/-- The banked registers a trap fills (R384): the instruction reported, where execution goes on without the trap, INRUN. -/
def trapRegs (t : Trap) (r : Run) (inRun : Bool) : TrapRegs where
  xpc := addrField ((t.xpc.getD r.pc).setWidth 64)
  xcause := BitVec.ofNat 64 t.cause
  xstat := t.stat.setWidth 64 ||| (if t.defer then 0x100000 else 0) ||| (if inRun then 0x200000 else 0)
  xaddr := t.xaddr
  xinfo := t.xinfo
  xscr := addrField ((t.xscr.getD r.pc).setWidth 64)
  xdepth := r.depth.setWidth 64
  pcrun := r.mask

/-- The latches with their ready cycles counted from a cycle, and back (R64). -/
def HoldRun.bank (h : HoldRun) (t : Nat) : HoldRun :=
  { h with latches := h.latches.map fun l => { l with ready := l.ready - t } }
def HoldRun.unbank (h : HoldRun) (t : Nat) : HoldRun :=
  { h with latches := h.latches.map fun l => { l with ready := l.ready + t } }

/-- TrapEntry of R381 on a group that is not privileged, at cycle `t`, with the handler at `xvec`. The PCT registers of the
trapped run read XPC and XDEPTH (R389). -/
def Group.enterTrap (g : Group) (tr : Trap) (r : Run) (t : Nat) (xvec : BitVec 57) : Group :=
  let x := trapRegs tr r (g.run.pos != 0)
  { g with
    x := x
    banked := g.run.bank t
    run := HoldRun.none
    handler :=
      { pc := mergeLanes r.mask (Lanes.const xvec) g.handler.pc
        depth := mergeLanes r.mask (Lanes.const 0) g.handler.depth
        act := r.mask
        yld := 0
        exits := 0
        blk := 0 }
    pc := mergeLanes r.mask (Lanes.const (x.xpc.setWidth 57)) g.pc
    depth := mergeLanes r.mask (Lanes.const r.depth) g.depth
    actW := none
    blkW := none
    yldW := none
    hold := .free
    last := some t
    refused := false
    priv := true }

/-- The launch of a block ends under R386: its groups issue nothing more. -/
def State.endLaunch (s : State) (block : Nat) : State :=
  match s.block? block with
  | none => s
  | some b => s.onLaunch b.launch fun l => { l with torn := true }

/-- Takes a trap on the issuing group at one run, at cycle `t` (R381, R384, R386). A prologue ends there (R373). Unhandled where XVEC is 0 or the group is
privileged: the hold run and the launch end, and an unprivileged group's banked registers take the trap's values. -/
def State.takeTrap (s : State) (tr : Trap) (r : Run) (t : Nat) : State :=
  let g := s.cur
  let xvec : DWord := ((s.ctxOf g).map (·.xvec)).getD 0
  let x := trapRegs tr r (g.run.pos != 0)
  if g.front then { s with cur := { g with etrap := some x, act := 0, last := some t, run := HoldRun.none } }
  else if g.priv then ({ s with cur := { g with etrap := some x, last := some t, run := HoldRun.none } }).endLaunch g.block
  else if xvec = 0 then
    ({ s with cur := { g with x := x, etrap := some x, last := some t, banked := g.run.bank t, run := HoldRun.none } }).endLaunch g.block
  else { s with cur := g.enterTrap tr r t (xvec.setWidth 57) }

/-- The masks of the main table after the writes of PCACT, PCBLK and PCYLD (R333): an entry with neither bit has exited, and a
thread whose PCBLK bit is cleared leaves its barrier wait. -/
def Group.applyTableWrites (g : Group) : Group :=
  let act := g.actW.getD g.act
  let blk := g.blkW.getD g.blk
  let yld := g.yldW.getD g.yld
  { g with
    act := act ||| blk
    blk := blk
    yld := yld
    barw := Lanes.ofFn fun i => if lane blk i then g.barw.get i else none
    actW := none
    blkW := none
    yldW := none }

/-- Threads wait in a BAR: their entries of the table that issues are blocked (R346, R382). -/
def Group.blockThreads (g : Group) (mask : DWord) : Group :=
  if g.priv then { g with handler := { g.handler with blk := g.handler.blk ||| mask } } else { g with blk := g.blk ||| mask }

/-- The end of the handler at cycle `t`: R382 and steps 1 to 4 of R389. -/
def Group.endHandler (g : Group) (t : Nat) : Group :=
  let gone := g.handler.exits
  let g := { g with act := g.act &&& ~~~gone, blk := g.blk &&& ~~~gone, yld := g.yld &&& ~~~gone }
  let g := g.applyTableWrites
  { g with
    run := if g.banked.pos = 0 then HoldRun.none else g.banked.unbank t
    banked := HoldRun.none
    handler := Handler.none
    priv := false }

/-- Threads exit (R355): their main entries, or their handler entries, whose main entries exit at the handler's end (R382). -/
def Group.exitThreads (g : Group) (mask : DWord) (t : Nat) : Group :=
  if g.priv then
    let h := { g.handler with act := g.handler.act &&& ~~~mask, exits := g.handler.exits ||| (mask &&& g.handler.act) }
    let g := { g with handler := h }
    if h.act = 0 then g.endHandler t else g
  else { g with act := g.act &&& ~~~mask, blk := g.blk &&& ~~~mask, yld := g.yld &&& ~~~mask }

/-- Handler entries end by XRET; the handler ends when none remains active (R382, R389). -/
def Group.returnThreads (g : Group) (mask : DWord) (t : Nat) : Group :=
  let h := { g.handler with act := g.handler.act &&& ~~~mask }
  let g := { g with handler := h }
  if h.act = 0 then g.endHandler t else g

end Sys2Proof.Machine
end

