-- ==== Sys2Proof/Machine/Flags.lean ====
section
/-! DEFINITION. The FPST flags (R38, R87), the condition codes of integer comparisons (R218) and of floating-point comparisons (R224). -/

namespace Sys2Proof.Machine

/-- Invalid operation. -/
def flagNV : BitVec 5 := 0x01
/-- Division by zero. -/
def flagDZ : BitVec 5 := 0x02
/-- Overflow. -/
def flagOF : BitVec 5 := 0x04
/-- Underflow. -/
def flagUF : BitVec 5 := 0x08
/-- Inexact. -/
def flagNX : BitVec 5 := 0x10

/-- A flag that is set where a condition holds. -/
def flagIf (p : Bool) (f : BitVec 5) : BitVec 5 := if p then f else 0

/-- The condition codes of ICMP and SCMP on values of 64 bits, or of 32 held in 64 (R218). -/
def intCond (wide : Bool) (code : Nat) (x y : DWord) : Bool :=
  let sx := if wide then x.toInt else (x.setWidth 32).toInt
  let sy := if wide then y.toInt else (y.setWidth 32).toInt
  let ux := if wide then x.toNat else (x.setWidth 32).toNat
  let uy := if wide then y.toNat else (y.setWidth 32).toNat
  match code with
  | 0 => ux == uy
  | 1 => ux != uy
  | 2 => sx < sy
  | 3 => sx ≤ sy
  | 4 => sx > sy
  | 5 => sx ≥ sy
  | 6 => ux < uy
  | 7 => ux ≤ uy
  | 8 => ux > uy
  | _ => ux ≥ uy

/-- How two floating-point operands compare (R224). -/
inductive FpOrder where
  | lt | eq | gt | unordered
  deriving DecidableEq, Repr

/-- The condition codes of FCMP (R224). -/
def fpCond (code : Nat) : FpOrder → Bool
  | .unordered => code == 1 || code == 7
  | .lt => code == 1 || code == 2 || code == 3 || code == 6
  | .eq => code == 0 || code == 3 || code == 5 || code == 6
  | .gt => code == 1 || code == 4 || code == 5 || code == 6

/-- An ordered condition, which sets NV on a quiet NaN (R224). -/
def fpOrdered (code : Nat) : Bool := 2 ≤ code && code ≤ 5

end Sys2Proof.Machine
end

