-- ==== Sys2Proof/Machine/Float.lean ====
section
/-! DEFINITION. Floating-point formats and arithmetic (file 03: R79 to R91), exact over the numbers and rounded once. -/

namespace Sys2Proof.Machine

/-! ## Formats and values -/

/-- A format (R79): exponent bits, fraction bits, bias; E4M3 has no infinity, E4M3 and E5M2 have no signalling NaN (R80). -/
structure Fmt where
  ebits : Nat
  fbits : Nat
  bias  : Nat
  e4m3  : Bool
  snan  : Bool
  deriving DecidableEq, Repr

def Fmt.fp64 : Fmt := ⟨11, 52, 1023, false, true⟩
def Fmt.fp32 : Fmt := ⟨8, 23, 127, false, true⟩
def Fmt.fp16 : Fmt := ⟨5, 10, 15, false, true⟩
def Fmt.bf16 : Fmt := ⟨8, 7, 127, false, true⟩
def Fmt.fe4m3 : Fmt := ⟨4, 3, 7, true, false⟩
def Fmt.fe5m2 : Fmt := ⟨5, 2, 15, false, false⟩

/-- The lane format of a major's half: FP32 or FP64 (R222). -/
def Fmt.lane (wide : Bool) : Fmt := if wide then .fp64 else .fp32

/-- Bits of a word of the format. -/
def Fmt.width (f : Fmt) : Nat := f.ebits + f.fbits + 1
/-- The sign bit's place value. -/
def Fmt.signBit (f : Fmt) : Nat := 2 ^ (f.ebits + f.fbits)
/-- Exponent of the smallest normal value, and of its last place. -/
def Fmt.emin (f : Fmt) : Int := 1 - (f.bias : Int)
/-- The largest exponent of a finite value. -/
def Fmt.emax (f : Fmt) : Int := if f.e4m3 then 8 else f.bias
/-- The significand of the largest finite value, as an integer of fbits + 1 bits (R79). -/
def Fmt.topSig (f : Fmt) : Nat := if f.e4m3 then 14 else 2 ^ (f.fbits + 1) - 1

/-- A value: a NaN, an infinity, or (−1)^neg · m · 2^e with a zero keeping its sign (R80). -/
inductive Fp where
  | nan (signalling : Bool)
  | inf (neg : Bool)
  | num (neg : Bool) (m : Nat) (e : Int)
  deriving DecidableEq, Repr

/-- The value of a word (R80). -/
def Fmt.decode (f : Fmt) (w : DWord) : Fp :=
  let x := w.toNat % 2 ^ f.width
  let neg := decide (x ≥ f.signBit)
  let e := (x / 2 ^ f.fbits) % 2 ^ f.ebits
  let m := x % 2 ^ f.fbits
  if e = 2 ^ f.ebits - 1 ∧ f.e4m3 then
    (if m = 7 then .nan false else .num neg (m + 8) ((e : Int) - f.bias - f.fbits))
  else if e = 2 ^ f.ebits - 1 then
    (if m = 0 then .inf neg else .nan (f.snan && decide (m < 2 ^ (f.fbits - 1))))
  else if e = 0 then .num neg m (f.emin - f.fbits)
  else .num neg (m + 2 ^ f.fbits) ((e : Int) - f.bias - f.fbits)

/-- A word with a sign. -/
def Fmt.signed (f : Fmt) (neg : Bool) (mag : Nat) : DWord := BitVec.ofNat 64 ((if neg then f.signBit else 0) + mag)
/-- Zero. -/
def Fmt.zero (f : Fmt) (neg : Bool) : DWord := f.signed neg 0
/-- Infinity, for a format that has one. -/
def Fmt.inf (f : Fmt) (neg : Bool) : DWord := f.signed neg ((2 ^ f.ebits - 1) * 2 ^ f.fbits)
/-- The largest finite value. -/
def Fmt.largest (f : Fmt) (neg : Bool) : DWord :=
  f.signed neg (if f.e4m3 then 0x7E else (2 ^ f.ebits - 1) * 2 ^ f.fbits - 1)
/-- The canonical NaN (R85). -/
def Fmt.nan (f : Fmt) : DWord :=
  if f.e4m3 then 0x7F else BitVec.ofNat 64 ((2 ^ f.ebits - 1) * 2 ^ f.fbits + 2 ^ (f.fbits - 1))

/-! ## Rounding (R82 to R84) -/

/-- The rounding modes, as MOD[61:60] codes them (R68, R82). -/
inductive Round where
  | even | zero | up | down
  deriving DecidableEq, Repr

/-- The mode of a two-bit code. -/
def Round.ofCode (c : BitVec 2) : Round :=
  match c.toNat with | 0 => .even | 1 => .zero | 2 => .up | _ => .down

/-- The integer that the magnitude `n / d` rounds to, and whether it is inexact. -/
def roundNat (mode : Round) (neg : Bool) (n d : Nat) : Nat × Bool :=
  let q := n / d
  let r := n % d
  if r = 0 then (q, false)
  else
    let up := match mode with
      | .even => decide (2 * r > d) || (decide (2 * r = d) && decide (q % 2 = 1))
      | .zero => false
      | .up => !neg
      | .down => neg
    (if up then q + 1 else q, true)

/-- `n / d · 2^e` counted in units of `2^q`, as a fraction. -/
def inUnits (n d : Nat) (e q : Int) : Nat × Nat :=
  if e ≥ q then (n * 2 ^ (e - q).toNat, d) else (n, d * 2 ^ (q - e).toNat)

/-- The exponent of the leading bit of `n / d · 2^e`, for n and d not zero. -/
def leading (n d : Nat) (e : Int) : Int :=
  let t : Int := (n.log2 : Int) - d.log2
  let below := if t ≥ 0 then decide (n < d * 2 ^ t.toNat) else decide (n * 2 ^ (-t).toNat < d)
  e + (if below then t - 1 else t)

/-- Rounds (−1)^neg · n / d · 2^e once to the format, with the flags of R87 (R82, R83, R84). The range above is taken as
unbounded until the result is known; a result is tiny when it is below the smallest normal magnitude rounded with unbounded
exponent. -/
def roundTo (f : Fmt) (mode : Round) (ftz satf neg : Bool) (n d : Nat) (e : Int) : DWord × BitVec 5 :=
  if n = 0 then (f.zero neg, 0)
  else
    let top := leading n d e
    let free := inUnits n d e (top - f.fbits)
    let tiny := decide (top < f.emin) && decide (leading (roundNat mode neg free.1 free.2).1 1 (top - f.fbits) < f.emin)
    if ftz && tiny then (f.zero neg, flagUF ||| flagNX)
    else
      let q := (max top f.emin) - f.fbits
      let grid := inUnits n d e q
      let (m, inexact) := roundNat mode neg grid.1 grid.2
      let (m, q) := if m = 2 ^ (f.fbits + 1) then (2 ^ f.fbits, q + 1) else (m, q)
      if q > f.emax - f.fbits ∨ (q = f.emax - f.fbits ∧ m > f.topSig) then
        let toInf := match mode with | .even => true | .zero => false | .up => !neg | .down => neg
        (if satf then f.largest neg else if f.e4m3 then f.nan else if toInf then f.inf neg else f.largest neg, flagOF ||| flagNX)
      else
        let mag := if m < 2 ^ f.fbits then m else (q + f.fbits + f.bias).toNat * 2 ^ f.fbits + (m - 2 ^ f.fbits)
        (f.signed neg mag, flagIf inexact flagNX ||| flagIf (inexact && tiny) flagUF)

/-- How an operation rounds: its mode and .ftz. -/
structure Rnd where
  mode : Round
  ftz  : Bool
  deriving DecidableEq, Repr

/-- To nearest even, subnormals kept. -/
def Rnd.plain : Rnd := ⟨.even, false⟩

/-- Rounds a finite value. -/
def Rnd.round (r : Rnd) (f : Fmt) (neg : Bool) (m : Nat) (e : Int) : DWord × BitVec 5 := roundTo f r.mode r.ftz false neg m 1 e

/-- An operand read under .ftz: a subnormal becomes a zero of its sign (R84). -/
def Rnd.read (r : Rnd) (f : Fmt) (w : DWord) : Fp :=
  match f.decode w with
  | .num neg m e => if r.ftz ∧ m < 2 ^ f.fbits then .num neg 0 e else .num neg m e
  | v => v

/-- A signalling NaN. -/
def Fp.isSnan : Fp → Bool
  | .nan s => s
  | _ => false
/-- A NaN. -/
def Fp.isNan : Fp → Bool
  | .nan _ => true
  | _ => false
/-- A zero. -/
def Fp.isZero : Fp → Bool
  | .num _ m _ => m == 0
  | _ => false
/-- The sign. -/
def Fp.neg : Fp → Bool
  | .nan _ => false
  | .inf n => n
  | .num n _ _ => n
/-- The opposite value. -/
def Fp.negate : Fp → Fp
  | .nan s => .nan s
  | .inf n => .inf (!n)
  | .num n m e => .num (!n) m e

/-- The canonical NaN, with NV where an operand signals. -/
def Fmt.nanOf (f : Fmt) (vs : List Fp) : DWord × BitVec 5 := (f.nan, flagIf (vs.any Fp.isSnan) flagNV)

/-! ## Exact sums -/

/-- A finite value in units of 2^q, for q at most its exponent. -/
def scaled (neg : Bool) (m : Nat) (e q : Int) : Int := let x : Int := (m * 2 ^ (e - q).toNat : Nat); if neg then -x else x

/-- The rounded exact sum of finite values given as sign, magnitude and exponent; an exact zero of values not all of one sign of
zero takes the sign that R223 gives. -/
def sumRound (f : Fmt) (r : Rnd) (vs : List (Bool × Nat × Int)) : DWord × BitVec 5 :=
  let q := vs.foldl (fun q v => min q v.2.2) (match vs with | [] => 0 | v :: _ => v.2.2)
  let t := vs.foldl (fun t v => t + scaled v.1 v.2.1 v.2.2 q) (0 : Int)
  if t = 0 then
    let allNeg := vs.all (·.1) && !vs.isEmpty && vs.all fun v => v.2.1 == 0
    let allPos := vs.all (fun v => !v.1) && vs.all fun v => v.2.1 == 0
    (f.zero (allNeg || (!allPos && r.mode == .down)), 0)
  else r.round f (decide (t < 0)) t.natAbs q

/-! ## Arithmetic (R223) -/

/-- The sum of two values. -/
def fpSum (f : Fmt) (r : Rnd) (a b : Fp) : DWord × BitVec 5 :=
  match a, b with
  | .num n m e, .num n' m' e' => sumRound f r [(n, m, e), (n', m', e')]
  | .inf n, .inf n' => if n = n' then (f.inf n, 0) else (f.nan, flagNV)
  | .inf n, .num _ _ _ => (f.inf n, 0)
  | .num _ _ _, .inf n => (f.inf n, 0)
  | a, b => f.nanOf [a, b]

/-- FADD. -/
def fpAdd (f : Fmt) (r : Rnd) (x y : DWord) : DWord × BitVec 5 := fpSum f r (r.read f x) (r.read f y)
/-- FSUB. -/
def fpSub (f : Fmt) (r : Rnd) (x y : DWord) : DWord × BitVec 5 := fpSum f r (r.read f x) (r.read f y).negate

/-- FMUL. -/
def fpMul (f : Fmt) (r : Rnd) (x y : DWord) : DWord × BitVec 5 :=
  match r.read f x, r.read f y with
  | .num n m e, .num n' m' e' => r.round f (n != n') (m * m') (e + e')
  | .inf n, .inf n' => (f.inf (n != n'), 0)
  | .inf n, .num n' m _ => if m = 0 then (f.nan, flagNV) else (f.inf (n != n'), 0)
  | .num n' m _, .inf n => if m = 0 then (f.nan, flagNV) else (f.inf (n != n'), 0)
  | a, b => f.nanOf [a, b]

/-- FFMA: one rounding; 0 × ∞ sets NV whatever the addend holds (R87, R223). -/
def fpFma (f : Fmt) (r : Rnd) (x y z : DWord) : DWord × BitVec 5 :=
  let a := r.read f x
  let b := r.read f y
  let d := r.read f z
  let bad := match a, b with
    | .inf _, .num _ m _ => m == 0
    | .num _ m _, .inf _ => m == 0
    | _, _ => false
  if bad then (f.nan, flagNV)
  else
    match a, b, d with
    | .num n m e, .num n' m' e', .num k p g => sumRound f r [(n != n', m * m', e + e'), (k, p, g)]
    | .num _ _ _, .num _ _ _, .inf k => (f.inf k, 0)
    | .nan _, _, _ => f.nanOf [a, b, d]
    | _, .nan _, _ => f.nanOf [a, b, d]
    | _, _, .nan _ => f.nanOf [a, b, d]
    | a, b, .inf k => if (a.neg != b.neg) = k then (f.inf k, 0) else (f.nan, flagNV)
    | a, b, .num _ _ _ => (f.inf (a.neg != b.neg), 0)

/-- How two values compare, −0 equal to +0 (R224). -/
def fpCompare (a b : Fp) : FpOrder :=
  match a, b with
  | .nan _, _ => .unordered
  | _, .nan _ => .unordered
  | .inf n, .inf n' => if n = n' then .eq else if n then .lt else .gt
  | .inf n, .num _ _ _ => if n then .lt else .gt
  | .num _ _ _, .inf n => if n then .gt else .lt
  | .num n m e, .num n' m' e' =>
    let q := min e e'
    let x := scaled n m e q
    let y := scaled n' m' e' q
    if x < y then .lt else if x = y then .eq else .gt

/-- The value as a word of its own format, for the results that return an operand. -/
def Fp.word (f : Fmt) : Fp → DWord
  | .nan _ => f.nan
  | .inf n => f.inf n
  | .num n m e => (Rnd.plain.round f n m e).1

/-- FMIN and FMAX (R86): the other operand where one is NaN, −0 below +0. -/
def fpMinMax (f : Fmt) (r : Rnd) (wantMax : Bool) (x y : DWord) : DWord × BitVec 5 :=
  let a := r.read f x
  let b := r.read f y
  let nv := flagIf (a.isSnan || b.isSnan) flagNV
  if a.isNan && b.isNan then (f.nan, nv)
  else if a.isNan then (b.word f, nv)
  else if b.isNan then (a.word f, nv)
  else
    let aLess := match fpCompare a b with
      | .lt => true
      | .eq => a.neg
      | _ => false
    ((if aLess != wantMax then a else b).word f, nv)

/-- FDIV, correctly rounded. -/
def fpDiv (f : Fmt) (r : Rnd) (x y : DWord) : DWord × BitVec 5 :=
  match r.read f x, r.read f y with
  | .num n m e, .num n' m' e' =>
    if m' = 0 then (if m = 0 then (f.nan, flagNV) else (f.inf (n != n'), flagDZ))
    else roundTo f r.mode r.ftz false (n != n') m m' (e - e')
  | .inf _, .inf _ => (f.nan, flagNV)
  | .inf n, .num n' _ _ => (f.inf (n != n'), 0)
  | .num n _ _, .inf n' => (f.zero (n != n'), 0)
  | a, b => f.nanOf [a, b]

/-- The integer square root, one bit of the root a step. -/
def isqrtFrom (n : Nat) : Nat → Nat → Nat
  | 0, r => r
  | k + 1, r => let c := r + 2 ^ k; isqrtFrom n k (if c * c ≤ n then c else r)
/-- The integer square root. -/
def isqrt (n : Nat) : Nat := isqrtFrom n (n.log2 / 2 + 1) 0

/-- The square root of m · 2^e with one bit below it that stands for the inexact rest: a significand and its exponent. -/
def sqrtOf (m : Nat) (e : Int) : Nat × Int :=
  let k : Nat := 130
  let e' := e - 2 * k
  let (m, e') := if e' % 2 = 0 then (m * 2 ^ (2 * k), e') else (m * 2 ^ (2 * k + 1), e' - 1)
  let r := isqrt m
  (2 * r + (if r * r = m then 0 else 1), e' / 2 - 1)

/-- FSQRT, correctly rounded. -/
def fpSqrt (f : Fmt) (r : Rnd) (x : DWord) : DWord × BitVec 5 :=
  match r.read f x with
  | .num n m e =>
    if m = 0 then (f.zero n, 0)
    else if n then (f.nan, flagNV)
    else let (q, g) := sqrtOf m e; r.round f false q g
  | .inf n => if n then (f.nan, flagNV) else (f.inf false, 0)
  | a => f.nanOf [a]

/-- FRND: to an integral value; NX when the value changes (R223). -/
def fpRound (f : Fmt) (r : Rnd) (x : DWord) : DWord × BitVec 5 :=
  match r.read f x with
  | .num n m e =>
    if m = 0 then (f.zero n, 0)
    else
      let u := inUnits m 1 e 0
      let (k, inexact) := roundNat r.mode n u.1 u.2
      ((r.round f n k 0).1, flagIf inexact flagNX)
  | .inf n => (f.inf n, 0)
  | a => f.nanOf [a]

/-- FSCALE: times 2^n (R223). -/
def fpScale (f : Fmt) (r : Rnd) (x : DWord) (n : Int) : DWord × BitVec 5 :=
  match r.read f x with
  | .num neg m e => r.round f neg m (e + n)
  | .inf neg => (f.inf neg, 0)
  | a => f.nanOf [a]

/-- FGETEXP (R226). -/
def fpGetExp (f : Fmt) (r : Rnd) (x : DWord) : DWord × BitVec 5 :=
  match r.read f x with
  | .num _ m e =>
    if m = 0 then (f.inf true, flagDZ)
    else let k := leading m 1 e; ((Rnd.plain.round f (decide (k < 0)) k.natAbs 0).1, 0)
  | .inf _ => (f.inf false, 0)
  | a => f.nanOf [a]

/-- FCLASS (R225). -/
def fpClass (f : Fmt) (x : DWord) : DWord :=
  match f.decode x with
  | .nan s => if s then 0x100 else 0x200
  | .inf n => if n then 0x001 else 0x080
  | .num n m _ =>
    if m = 0 then (if n then 0x008 else 0x010)
    else if m < 2 ^ f.fbits then (if n then 0x004 else 0x020)
    else (if n then 0x002 else 0x040)

/-- FCMP's result and its NV (R224). -/
def fpTest (f : Fmt) (ftz : Bool) (code : Nat) (x y : DWord) : Bool × BitVec 5 :=
  let a := (Rnd.mk .even ftz).read f x
  let b := (Rnd.mk .even ftz).read f y
  (fpCond code (fpCompare a b),
    flagIf (a.isSnan || b.isSnan || (fpOrdered code && (a.isNan || b.isNan))) flagNV)

/-! ## The functions of R227 -/

/-- A returned value `v` lies within one unit of its own last place of 1 / x, for positive x = m · 2^e. -/
def nearRecip (f : Fmt) (m : Nat) (e : Int) (v : DWord) : Bool :=
  match f.decode v with
  | .num false q k =>
    let cmp (q : Nat) : Bool × Bool :=
      let u := inUnits (q * m) 1 (k + e) 0
      (decide (u.1 ≤ u.2), decide (u.2 ≤ u.1))
    (cmp (q - 1)).1 && (cmp (q + 1)).2
  | _ => false

/-- The same of 1 / √x. -/
def nearRsqrt (f : Fmt) (m : Nat) (e : Int) (v : DWord) : Bool :=
  match f.decode v with
  | .num false q k =>
    let cmp (q : Nat) : Bool × Bool :=
      let u := inUnits (q * q * m) 1 (2 * k + e) 0
      (decide (u.1 ≤ u.2), decide (u.2 ≤ u.1))
    (cmp (q - 1)).1 && (cmp (q + 1)).2
  | _ => false

/-- The flags of a returned value: NX where it is not exact, OF where it is infinite, UF where it is tiny and inexact; a tiny
value is flushed under .ftz (R84, R87). -/
def returned (f : Fmt) (r : Rnd) (exact ranged : Bool) (v : DWord) : DWord × BitVec 5 :=
  match f.decode v with
  | .nan _ => (f.nan, flagNX)
  | .inf n => (f.inf n, flagNX ||| flagIf ranged flagOF)
  | .num n m _ =>
    let tiny := decide (m < 2 ^ f.fbits)
    if r.ftz && tiny && m != 0 then (f.zero n, flagUF ||| flagNX)
    else (v, flagIf (!exact) flagNX ||| flagIf (ranged && tiny && !exact) flagUF)

/-- The fixed function of R227 that an operation returns, in the width of its format. -/
def freeApprox (op : Nat) (wide : Bool) (x : DWord) : DWord :=
  if wide then Config.approx op wide x else (Config.approx op wide x).setWidth 32 |>.setWidth 64

/-- The bits below the point of the enclosures of FEXP2, FLOG2, FSIN and FCOS, and those with which a sine's argument is reduced;
the sums below are cut off within 2^16 units of the last of them. -/
def fineBits : Nat := 200
def reduceBits : Nat := 1200

/-- The sum of `p` · q^k / (2 k + 1) over k from `k`, with q = num / den, for `n` terms: the odd series of the inverse tangents. -/
def oddSeries (num den : Int) : Nat → Nat → Int → Int
  | 0, _, _ => 0
  | n + 1, k, p => p / (2 * k + 1 : Nat) + oddSeries num den n (k + 1) (p * num / den)

/-- π / 2 with reduceBits bits below the point: twice 4 arctan (1/5) − arctan (1/239). -/
def halfPi : Nat :=
  let one : Int := (2 ^ (reduceBits + 16) : Nat)
  ((2 * (4 * oddSeries (-1) 25 270 0 (one / 5) - oddSeries (-1) 57121 80 0 (one / 239))) / 2 ^ 16).toNat

/-- ln 2 with fineBits bits below the point: 2 artanh (1/3). -/
def lnTwo : Int := 2 * oddSeries 1 9 70 0 ((2 ^ fineBits : Nat) / 3)

/-- The sum of the terms t · y^j / ((k + 1) … (k + d j)), y in units of 2^-fineBits: the exponential for d = 1, and for d = 2, with
y a negated square, the sine and the cosine. -/
def powerSeries (d : Nat) (y : Int) : Nat → Nat → Int → Int
  | 0, _, _ => 0
  | n + 1, k, t =>
    let below : Nat := (List.range d).foldl (fun p i => p * (k + i + 1)) 1
    t + powerSeries d y n (k + d) (t * y / 2 ^ fineBits / below)

/-- 2^y for a fraction y, both in units of 2^-fineBits. -/
def exp2Of (y : Int) : Int := powerSeries 1 (y * lnTwo / 2 ^ fineBits) 60 0 (2 ^ fineBits : Nat)

/-- log2 of m · 2^e in units of 2^-fineBits, k the exponent of its leading bit. -/
def log2Of (m : Nat) (k : Int) : Int :=
  let one : Int := (2 ^ m.log2 : Nat)
  let w := (m - one) * 2 ^ fineBits / (m + one)
  k * 2 ^ fineBits + 2 * oddSeries (w * w / 2 ^ fineBits) (2 ^ fineBits : Nat) 80 0 w * 2 ^ fineBits / lnTwo

/-- The sine or cosine of m · 2^e in units of 2^-fineBits, its argument reduced exactly (R227). -/
def trigOf (cos neg : Bool) (m : Nat) (e : Int) : Int :=
  let x := m * 2 ^ (e + reduceBits).toNat
  let quarter := x / halfPi + (if cos then 1 else 0)
  let y : Int := (x % halfPi / 2 ^ (reduceBits - fineBits) : Nat)
  let sq := -(y * y / 2 ^ fineBits)
  let v := if quarter % 2 = 0 then powerSeries 2 sq 40 1 y else powerSeries 2 sq 40 0 (2 ^ fineBits : Nat)
  if (decide (quarter % 4 ≥ 2)) != (neg && !cos) then -v else v

/-- The largest difference that R227 allows a returned value whose unit in the last place is 2^k: two such units, an absolute
2^a, or the larger of them. -/
inductive Bound where
  | units
  | absolute (a : Int)
  | larger (a : Int)

/-- A returned value lies within its bound of t · 2^s, t itself known within 2^16; an infinity counts as the value after the
largest finite one (log 4). -/
def Bound.holds (b : Bound) (f : Fmt) (t s : Int) (v : DWord) : Bool :=
  let near (n : Bool) (q : Nat) (k : Int) : Bool :=
    let room := match b with
      | .units => [(2, k)]
      | .absolute a => [(1, a)]
      | .larger a => [(2, k), (1, a)]
    let g := room.foldl (fun g x => min g x.2) (min k s)
    let d := (scaled n q k g - scaled (decide (t < 0)) t.natAbs s g).natAbs
    room.any fun x => decide (d ≤ x.1 * 2 ^ (x.2 - g).toNat + 2 ^ (16 + s - g).toNat)
  match f.decode v with
  | .nan _ => false
  | .inf n => near n (2 ^ (f.fbits + 1)) (f.emax - f.fbits) || decide (n = decide (t < 0) ∧ leading t.natAbs 1 s > f.emax)
  | .num n q k => near n q k

/-- A free value where it lies within its bound, and the value rounded to nearest elsewhere (R227, log 4). -/
def Bound.pick (b : Bound) (f : Fmt) (t s : Int) (v : DWord) : DWord :=
  if b.holds f t s v then v else (roundTo f .even false false (decide (t < 0)) (2 * t.natAbs + 1) 1 (s - 1)).1

/-- The word of 1. -/
def Fmt.one (f : Fmt) : DWord := f.signed false (f.bias * 2 ^ f.fbits)

/-- FRCP: the special values are exact, and the others lie within 1 ulp; 1 ulp is one unit in the last place of the returned
value, and the correctly rounded value stands where the free value lies outside (R227, log 4). -/
def fpRcp (wide : Bool) (r : Rnd) (x : DWord) : DWord × BitVec 5 :=
  let f := Fmt.lane wide
  match r.read f x with
  | .num n m e =>
    if m = 0 then (f.inf n, flagDZ)
    else if x = f.one then (f.one, 0)
    else
      let best := roundTo f .even false false n 1 m (-e)
      let mag := freeApprox 0 wide x &&& ~~~(f.zero true)
      let v := if nearRecip f m e mag then (if n then mag ||| f.zero true else mag) else best.1
      returned f r (best.2 == 0 && v == best.1) true v
  | .inf n => (f.zero n, 0)
  | a => f.nanOf [a]

/-- FRSQ (R227). -/
def fpRsq (wide : Bool) (r : Rnd) (x : DWord) : DWord × BitVec 5 :=
  let f := Fmt.lane wide
  match r.read f x with
  | .num n m e =>
    if m = 0 then (f.inf n, flagDZ)
    else if n then (f.nan, flagNV)
    else if x = f.one then (f.one, 0)
    else
      -- 1 / sqrt(m 2^e) = sqrt(2^600 / m) 2^(-300 - e / 2), with the rest below it
      let (e2, odd) := if e % 2 = 0 then (e / 2, 1) else ((e - 1) / 2, 2)
      let q := isqrt (2 ^ 600 / (m * odd))
      let exact := decide (q * q * (m * odd) = 2 ^ 600)
      let best := roundTo f .even false false false (2 * q + (if exact then 0 else 1)) 1 (-301 - e2)
      let w := freeApprox 1 wide x
      let v := if nearRsqrt f m e w then w else best.1
      returned f r (best.2 == 0 && v == best.1) false v
  | .inf n => if n then (f.nan, flagNV) else (f.zero false, 0)
  | a => f.nanOf [a]

/-- FEXP2 (R227): within 2 ulp; exact only at integers. -/
def fpExp2 (wide : Bool) (r : Rnd) (x : DWord) : DWord × BitVec 5 :=
  let f := Fmt.lane wide
  match r.read f x with
  | .num n m e =>
    if m = 0 then (f.one, 0)
    else
      let u := inUnits m 1 e 0
      let whole := decide (u.1 % u.2 = 0)
      let k : Int := if n then -((u.1 / u.2 : Nat) : Int) else (u.1 / u.2 : Nat)
      if x = f.one then (f.signed false ((f.bias + 1) * 2 ^ f.fbits), 0)
      else
        -- x = k' + y / 2^fineBits with k' its floor, held where the result still overflows or vanishes
        let below : Int := (u.1 % u.2 * 2 ^ fineBits / u.2 : Nat)
        let (k', y) := if !n then (k, below) else if whole then (k, 0) else (k - 1, 2 ^ fineBits - below - 1)
        let k' := max (min k' (f.emax + 2)) (f.emin - f.fbits - 4)
        let v := Bound.units.pick f (exp2Of y) (k' - fineBits) (freeApprox 2 wide x)
        let exact := whole && decide (k ≤ f.emax) && decide (f.emin - f.fbits ≤ k) && v == (Rnd.plain.round f false 1 k).1
        returned f r exact true v
  | .inf n => if n then (f.zero false, 0) else (f.inf false, 0)
  | a => f.nanOf [a]

/-- FLOG2 (R227): within 2 ulp, and for an input from 0.5 to 2 within the absolute bound; exact only at powers of two. -/
def fpLog2 (wide : Bool) (r : Rnd) (x : DWord) : DWord × BitVec 5 :=
  let f := Fmt.lane wide
  match r.read f x with
  | .num n m e =>
    if m = 0 then (f.inf true, flagDZ)
    else if n then (f.nan, flagNV)
    else
      let k := leading m 1 e
      if x = f.one then (f.zero false, 0)
      else
        let power := decide (m = 2 ^ m.log2)
        let bound := if k = -1 ∨ k = 0 ∨ (k = 1 ∧ power) then Bound.absolute (if wide then -50 else -22) else .units
        let v := bound.pick f (log2Of m k) (-fineBits) (freeApprox 3 wide x)
        returned f r (power && v == (Rnd.plain.round f (decide (k < 0)) k.natAbs 0).1) false v
  | .inf n => if n then (f.nan, flagNV) else (f.inf false, 0)
  | a => f.nanOf [a]

/-- FSIN and FCOS (R227): within 2 ulp or the absolute bound, whichever is larger; never exact away from zero. DEDUCED: a result
that is subnormal sets NX and no UF, since R227 names only FEXP2 and FRCP for the UF of R87; .ftz flushes it with UF and NX as R84
says of every flush (log 4). -/
def fpTrig (cos wide : Bool) (r : Rnd) (x : DWord) : DWord × BitVec 5 :=
  let f := Fmt.lane wide
  match r.read f x with
  | .num n m e =>
    if m = 0 then (if cos then f.one else f.zero n, 0)
    else
      let bound := Bound.larger (if wide then -53 else -24)
      returned f r false false (bound.pick f (trigOf cos n m e) (-fineBits) (freeApprox (if cos then 5 else 4) wide x))
  | .inf _ => (f.nan, flagNV)
  | a => f.nanOf [a]

/-! ## Conversions (R89, R90, R229) -/

/-- The format of a floating-point type code (R76). -/
def typeFmt (t : BitVec 4) : Option Fmt :=
  match t.toNat with
  | 0x8 => some .fe4m3
  | 0x9 => some .fe5m2
  | 0xA => some .fp16
  | 0xB => some .bf16
  | 0xC => some .fp32
  | 0xD => some .fp64
  | _ => none

/-- Width of a type in bits (R76). -/
def typeBits (t : BitVec 4) : Nat :=
  match t.toNat with
  | 0 => 8 | 1 => 8 | 2 => 16 | 3 => 16 | 4 => 32 | 5 => 32 | 6 => 64 | 7 => 64
  | 8 => 8 | 9 => 8 | 0xA => 16 | 0xB => 16 | 0xC => 32 | 0xD => 64 | 0xE => 4 | _ => 0

/-- A signed integer type. -/
def typeSigned (t : BitVec 4) : Bool := t.toNat % 2 == 0 && (t.toNat < 8 || t.toNat == 0xE)

/-- The range of an integer type. -/
def typeMin (t : BitVec 4) : Int := if typeSigned t then -(2 ^ (typeBits t - 1) : Nat) else 0
def typeMax (t : BitVec 4) : Int := if typeSigned t then (2 ^ (typeBits t - 1) : Nat) - 1 else (2 ^ typeBits t : Nat) - 1

/-- The integer in the low bits of a lane (R77). -/
def readInt (t : BitVec 4) (x : DWord) : Int :=
  let n : Nat := x.toNat % 2 ^ typeBits t
  if typeSigned t ∧ n ≥ 2 ^ (typeBits t - 1) then (n : Int) - (2 ^ typeBits t : Nat) else n

/-- An integer as a lane holds it: sign- or zero-extended to 32 bits, or 64 bits (R77). -/
def writeInt (t : BitVec 4) (n : Int) : DWord :=
  let m := n % (2 ^ typeBits t : Nat)
  let v := if typeSigned t ∧ m ≥ (2 ^ (typeBits t - 1) : Nat) then m - (2 ^ typeBits t : Nat) else m
  if typeBits t = 64 then BitVec.ofInt 64 v else (BitVec.ofInt 32 v).setWidth 64

/-- One floating-point format to another (R89, R83). -/
def cvtFloat (src dst : Fmt) (mode : Round) (satf : Bool) (x : DWord) : DWord × BitVec 5 :=
  match src.decode x with
  | .nan s => (dst.nan, flagIf s flagNV)
  | .inf n => if dst.e4m3 then (if satf then (dst.largest n, 0) else (dst.nan, flagNV)) else (dst.inf n, 0)
  | .num n m e => roundTo dst mode false satf n m 1 e

/-- A floating-point value to an integer type (R90). -/
def cvtToInt (src : Fmt) (t : BitVec 4) (mode : Round) (x : DWord) : DWord × BitVec 5 :=
  match src.decode x with
  | .nan _ => (0, flagNV)
  | .inf n => (writeInt t (if n then typeMin t else typeMax t), flagNV)
  | .num n m e =>
    let u := inUnits m 1 e 0
    let (k, inexact) := roundNat mode n u.1 u.2
    let v : Int := if n then -(k : Int) else k
    if v < typeMin t then (writeInt t (typeMin t), flagNV)
    else if v > typeMax t then (writeInt t (typeMax t), flagNV)
    else (writeInt t v, flagIf inexact flagNX)

/-- CVT of one value (R229). -/
def cvtValue (dst src : BitVec 4) (mode : Round) (sat : Bool) (x : DWord) : DWord × BitVec 5 :=
  match typeFmt src, typeFmt dst with
  | some a, some b => cvtFloat a b mode sat x
  | some a, none => cvtToInt a dst mode x
  | none, some b =>
    let n := readInt src x
    roundTo b mode false sat (decide (n < 0)) n.natAbs 1 0
  | none, none =>
    let n := readInt src x
    (writeInt dst (if sat then max (typeMin dst) (min (typeMax dst) n) else n), 0)

end Sys2Proof.Machine
end

