-- ==== Sys2Proof/Machine/Operands.lean ====
section
/-! DEFINITION. The header of an instruction word, the operand codes of R49, R52, R53, R187 and R214, their values at issue with the
hazards of R59 and the latches of R62, and the operand checks of R65 steps 3 and 4. -/

namespace Sys2Proof.Machine

/-- What every instruction word carries beside its operands (R47, R48, R50). -/
structure Hdr where
  len   : Nat
  word  : DWord
  dist  : Nat
  hold  : Bool
  nowb  : Bool
  lat   : Latency
  latch : Bool
  cnt   : BitVec 4
  pred  : Nat
  pneg  : Bool
  /-- It belongs to the scalar control profile (R372). -/
  front : Bool
  deriving DecidableEq, Repr

/-- A 16-bit instruction: distance 0, no hold, no guard, no counter (R47). Two-address forms are F4 and latching. -/
def hdr16 (w : Half) (lat : Latency) (latch front : Bool) : Hdr :=
  ⟨2, w.setWidth 64, 0, false, false, lat, latch, 15, 0, false, front⟩

/-- The two-address halfword of an operation code (R42). -/
def hdrTwo (op : BitVec 4) (vd vs : BitVec 5) : Hdr := hdr16 (vs ++ vd ++ op ++ 0#2) .f4 true false

/-- A 32-bit instruction (R48, R66): latching, F6 for the FP64 majors and F4 for the others. -/
def hdr32 (major : BitVec 6) (f : F32) : Hdr :=
  ⟨4, (f.toWord major).setWidth 64, f.dist.toNat, f.hold, f.nowb,
    if 0x20 ≤ major.toNat ∧ major.toNat ≤ 0x25 then .f6 else .f4, true, 15, 0, false, false⟩

/-- The 64-bit majors and minors of the scalar control profile (R372). -/
def frontOk (maj min : Nat) : Bool :=
  (0x09 ≤ maj && maj ≤ 0x0C) || (maj == 0x10 && (min == 0x10 || min == 0x11 || min == 0x18)) || maj == 0x11 || maj == 0x18 ||
    (maj == 0x1A && (min == 0 || min == 1 || min == 3 || min == 4)) || maj == 0x3F

/-- A 64-bit instruction (R50, R68). -/
def hdr64 (major minor : BitVec 6) (f : F64) : Hdr :=
  ⟨8, f.toWord major minor, f.dist.toNat, f.hold, f.nowb, latency64 major.toNat minor.toNat f,
    latching64 major.toNat minor.toNat f, f.cnt, f.pred.toNat, f.pneg, frontOk major.toNat minor.toNat⟩

/-- The issue of one instruction: the state before it, the run that issues, the cycle and the enabled lanes (R36). -/
structure Cx where
  s   : State
  run : Run
  t   : Nat
  en  : DWord

/-- The issuing group. -/
def Cx.g (c : Cx) : Group := c.s.cur

/-- The low 32 bits, zero-extended. -/
def low32 (x : DWord) : DWord := (x.setWidth 32).setWidth 64

/-! ## What is known of results in flight: R188, R197 -/

/-- The access size of a type code (R188). -/
def typeSize (t : BitVec 4) : Nat := max 1 (typeBits t / 8)

/-- A loaded value as the register takes it (R188): I8 and I16 sign-extended to 32 bits, or to 64 for SLD. -/
def extLoad (t : BitVec 4) (to64 : Bool) (x : DWord) : DWord :=
  let v : DWord :=
    if t = 0 then (x.setWidth 8).signExtend 64
    else if t = 2 then (x.setWidth 16).signExtend 64
    else if typeSize t = 4 then low32 x
    else if typeSize t = 2 then (x.setWidth 16).setWidth 64
    else if typeSize t = 1 then (x.setWidth 8).setWidth 64
    else x
  if to64 then v else if typeSize t = 8 then v else low32 v

/-- What the performed lanes of an access give its destination register. -/
def Access.landed (a : Access) : List RegWrite :=
  let done := a.lanes.filter (·.st == .done)
  let at_ (i : Nat) : BitVec 128 := ((done.find? (·.lane == i)).map (·.got)).getD 0
  match a.dst, done with
  | .vec r pair, _ :: _ =>
    [.vec r pair (maskOf fun i => done.any (·.lane == i)) (Lanes.ofFn fun i =>
      let x := (at_ i).setWidth 64
      if a.kind == .atom then x else extLoad a.type false x)]
  | .sca r, l :: _ => [.sca r (extLoad a.type true (l.got.setWidth 64))]
  | _, _ => []

/-- The writes of a flight as far as they are known. -/
def Flight.known (f : Flight) : List RegWrite :=
  match f.op with
  | .access a => f.writes ++ a.landed
  | _ => f.writes

/-! ## Reading registers: R59 -/

/-- The flights that have yet to write a place. -/
def Group.pending (g : Group) (ref : RegRef) : List Flight := g.flights.filter fun f => f.dests.contains ref

/-- One of the values a place may read as while flights have yet to write it: each of them, as far as what it writes is known, has written it or
has not; `write` is what a register write makes of the place (R12, R59, log 4). -/
def unsettled (s : State) (place : Nat) (write : RegWrite → DWord → DWord) : Nat → List Flight → DWord → DWord
  | _, [], old => old
  | k, f :: fs, old =>
    unsettled s place write (k + 1) fs (if s.freeBit (place * 64 + k) then f.known.foldl (fun x w => write w x) old else old)

/-- What a register write gives row `r` of lane `i`. -/
def RegWrite.inRow (r i : Nat) : RegWrite → Option DWord
  | .vec r' pair mask val =>
    if !lane mask i then none
    else if r' = r then some ((val.get i).setWidth 32 |>.setWidth 64)
    else if pair ∧ r' + 1 = r then some ((val.get i) >>> 32)
    else none
  | _ => none

/-- What a register write makes of row `r` of lane `i`, of a scalar register and of a predicate. -/
def RegWrite.onRow (r i : Nat) (w : RegWrite) (old : DWord) : DWord := (w.inRow r i).getD old
def RegWrite.onSreg (r : Nat) : RegWrite → DWord → DWord
  | .sca r' v, old => if r' = r then v else old
  | _, old => old
def RegWrite.onPreg (r : Nat) : RegWrite → DWord → DWord
  | .prd r' m v, old => if r' = r then (v &&& m) ||| (old &&& ~~~m) else old
  | _, old => old

/-- Vector register row `r` as an instruction reads it. -/
def Cx.row (c : Cx) (r : Nat) : Lanes Word :=
  match c.g.pending (.vec r) with
  | [] => c.g.vrow r
  | fs => Lanes.ofFn fun i =>
      (unsettled c.s (r * 64 + i) (RegWrite.onRow r i) 0 fs (((c.g.vrow r).get i).setWidth 64)).setWidth 32

/-- A scalar register as an instruction reads it. -/
def Cx.sreg (c : Cx) (r : Nat) : DWord :=
  unsettled c.s (10000 + r) (RegWrite.onSreg r) 0 (c.g.pending (.sca r)) (c.g.sreg r)

/-- A predicate as an instruction reads it; p0 is all ones. -/
def Cx.preg (c : Cx) (r : Nat) : DWord :=
  if r = 0 then allOnes
  else unsettled c.s (11000 + r) (RegWrite.onPreg r) 0 (c.g.pending (.prd r)) (c.g.preg r)

/-- A walker as an instruction reads it: the old one or the one that a WSET in flight writes (R244). -/
def Cx.walker (c : Cx) (r : Nat) : Walker :=
  (c.g.pending (.wlk r)).foldl (fun w f =>
    match (f.writes.filterMap fun | .wlk r' w' => if r' = r then some w' else none | _ => none).getLast? with
    | some w' => if c.s.freeBit (12000 + r) then w' else w
    | none => w) (c.g.walker r)

/-- Latch `k`, where it has a producer in the current run that is ready (R62). -/
def Cx.latch? (c : Cx) (k : Nat) : Option Latch :=
  match c.g.run.latches[k]? with
  | some l => if l.ready ≤ c.t then some l else none
  | none => none

/-- The 64 bits of latch `k` in each lane. In lanes that its producer did not enable, one of the values that the run's earlier producers have given
them there, and any value where none has (R12, R62, log 4). -/
def Cx.latchVal (c : Cx) (k : Nat) : Lanes DWord :=
  match c.latch? k with
  | none => Lanes.const 0
  | some l => Lanes.ofFn fun i =>
      if lane l.mask i then l.val.get i
      else match ((c.g.run.latches.drop (k + 1)).filter fun (x : Latch) => lane x.mask i).map (·.val.get i) with
        | [] => c.s.freeWord (20000 + k * 64 + i)
        | v :: vs => c.s.freePick (20000 + k * 64 + i) v vs

/-- The number of a special that is the same in every lane (R52). -/
def Cx.special (c : Cx) (code : Nat) : DWord :=
  let b := c.s.blockOf c.g
  match code with
  | 0xE6 => BitVec.ofNat 64 c.g.gidx
  | 0xE8 => BitVec.ofNat 64 ((b.map (·.bx)).getD 0)
  | 0xE9 => BitVec.ofNat 64 ((b.map (·.byy)).getD 0)
  | 0xEA => BitVec.ofNat 64 ((b.map (·.bz)).getD 0)
  | 0xEB => BitVec.ofNat 64 ((b.map (·.lin)).getD 0)
  | 0xEC => BitVec.ofNat 64 ((b.map (·.worldIdx)).getD 0)
  | 0xED => (c.s.hbeat.setWidth 32).setWidth 64
  | 0xEE => 1
  | 0xEF => allOnes
  | _ => 0

/-- A scalar source: a scalar register or a special (R52, R214). -/
def Cx.ssrc (c : Cx) (code : BitVec 8) : DWord :=
  let n := code.toNat
  if 0x80 ≤ n ∧ n < 0xE0 then c.sreg (n - 0x80) else c.special n

/-- A lane source (R52, R214): 64 bits a lane when `wide`, otherwise bits 31:0 zero-extended. -/
def Cx.src (c : Cx) (wide : Bool) (code : BitVec 8) : Lanes DWord :=
  let n := code.toNat
  if n < 0x80 then
    let lo := c.row n
    if wide then
      let hi := c.row (n + 1)
      Lanes.ofFn fun i => hi.get i ++ lo.get i
    else Lanes.ofFn fun i => (lo.get i).setWidth 64
  else
    let v : Lanes DWord :=
      if n < 0xE0 then Lanes.const (c.sreg (n - 0x80))
      else if n < 0xE4 then c.latchVal (n - 0xE0)
      else if n = 0xE5 then Lanes.ofFn fun i => BitVec.ofNat 64 i
      else if n = 0xE7 then Lanes.ofFn fun i => BitVec.ofNat 64 (c.g.gidx * 64 + i)
      else Lanes.const (c.special n)
    if wide then v else Lanes.ofFn fun i => low32 (v.get i)

/-! ## Operand checks: R35, R53, R214 -/

/-- A vector register of the allocation, an even pair when `wide` (R35). -/
def Cx.vecOk (c : Cx) (wide : Bool) (code : BitVec 8) : Bool :=
  let n := code.toNat
  n < 0x80 && n < c.g.alloc && (!wide || (n % 2 == 0 && n + 1 < c.g.alloc))

/-- A lane source (R214). -/
def Cx.srcOk (c : Cx) (wide : Bool) (code : BitVec 8) : Bool :=
  c.vecOk wide code || (0x80 ≤ code.toNat && code.toNat < 0xF0)

/-- A scalar register. -/
def sregOk (code : BitVec 8) : Bool := 0x80 ≤ code.toNat && code.toNat < 0xE0

/-- A scalar source (R214). -/
def ssrcOk (code : BitVec 8) : Bool :=
  let n := code.toNat
  sregOk code || n == 0xE4 || n == 0xE6 || (0xE8 ≤ n && n < 0xF0)

/-- A predicate field (R53). -/
def predOk (code : BitVec 8) : Bool := code.toNat < 16
/-- A walker field (R53). -/
def walkerOk (code : BitVec 8) : Bool := code.toNat < 8

/-- The 8-bit code of a 6-bit register code (R49). -/
def widen6 (code : BitVec 6) : BitVec 8 :=
  if code.toNat < 56 then code.setWidth 8
  else if code.toNat < 60 then BitVec.ofNat 8 (0xE0 + (code.toNat - 56))
  else BitVec.ofNat 8 (0x80 + (code.toNat - 60))

/-- The scope of a scope field: code 7 takes s95[2:0], none where that is 7 too (R40). -/
def Cx.scope (c : Cx) (code : BitVec 3) : Option Nat :=
  if code = 7 then (let v := (c.sreg 95).toNat % 8; if v = 7 then none else some v) else some code.toNat

/-- A source as an instruction names it: its code and whether it is 64 bits wide. -/
abbrev Use := BitVec 8 × Bool

/-- What a scope field reads: s95 under code 7 (R40). -/
def scopeUse (code : BitVec 3) : List Use := if code = 7 then [(0xDF, true)] else []

/-- The places a source reads. -/
def Use.refs (u : Use) : List RegRef :=
  let n := u.1.toNat
  if n < 0x80 then (if u.2 then [.vec n, .vec (n + 1)] else [.vec n])
  else if n < 0xE0 then [.sca (n - 0x80)] else []

/-- The first latch among the sources that cannot be read (R62). -/
def Cx.badLatch (c : Cx) (uses : List Use) : Option Nat :=
  (uses.filterMap fun u => if 0xE0 ≤ u.1.toNat ∧ u.1.toNat < 0xE4 then some (u.1.toNat - 0xE0) else none).find?
    fun k => (c.latch? k).isNone

end Sys2Proof.Machine
end

