-- ==== Sys2Proof/Machine/Issue.lean ====
section
/-! DEFINITION. The issue of one instruction, shared by every meaning of a word: landing of results that are due, delivery of
deferred faults (R131, R385), the checks of R65 in order, stalls (R378), the effect, and the hold run, the latches, the counter,
the PCs and the distance (R54, R57, R60 to R64, R332). -/

namespace Sys2Proof.Machine

/-! ## Landing of class F results (R58, R59, R216) -/

/-- A write that lands after a younger write `w` to the same place: the place ends with either value (R59, log 4). -/
def overtake (s : State) (w : RegWrite) : RegWrite → RegWrite
  | .vec r pair mask val =>
    .vec r pair mask (Lanes.ofFn fun i =>
      let pick (k row : Nat) (x : DWord) : DWord :=
        match w.inRow row i with
        | some y => if s.freeBit (k + i) then y else x
        | none => x
      (pick 31000 (r + 1) ((val.get i) >>> 32) <<< 32) ||| low32 (pick 30000 r (low32 (val.get i))))
  | .sca r v =>
    match w with
    | .sca r' v' => if r' = r ∧ s.freeBit 32000 then .sca r v' else .sca r v
    | _ => .sca r v
  | .prd r m v =>
    match w with
    | .prd r' m' v' => if r' = r ∧ s.freeBit 33000 then .prd r m ((v' &&& m') ||| (v &&& ~~~m')) else .prd r m v
    | _ => .prd r m v
  | .wlk r v =>
    match w with
    | .wlk r' v' => if r' = r ∧ s.freeBit 34000 then .wlk r v' else .wlk r v
    | _ => .wlk r v

/-- The writes of a flight as they land (R59). -/
def Flight.landing (s : State) (f : Flight) : List RegWrite := f.writes.map fun w => f.late.foldl (fun w n => overtake s n w) w

/-- A flight takes note of younger writes that land before its own (R59). -/
def Flight.overtaken (o : Flight) (ws : List RegWrite) : Flight :=
  { o with late := o.late ++ ws.filter fun w => w.refs.any o.dests.contains }

/-- The writes of a flight land; the older flights still to write the same places take note (R59). -/
def Group.landWrites (g : Group) (s : State) (f : Flight) : Group :=
  { (f.landing s).foldl Group.writeReg g with
    flights := (g.flights.takeWhile (·.key != f.key)).map (·.overtaken f.writes) ++ g.flights.dropWhile (·.key != f.key) }

/-- A flight completes: its writes land, its flags are raised, its counter is decremented (R60, R216). -/
def Group.complete (g : Group) (s : State) (f : Flight) : Group :=
  let g := g.landWrites s f
  (({ g with flights := g.flights.filter (·.key != f.key) }).raise f.flags).release f.cnt

/-- The flights of class F in the order of their due cycles and then of issue. -/
def Group.timed (g : Group) : List Flight :=
  (g.flights.filter (·.due.isSome)).mergeSort fun a b => decide (a.due.getD 0 ≤ b.due.getD 0)

/-- The flights whose results are due at a cycle. -/
def Group.dueFlights (g : Group) (t : Nat) : List Flight := g.timed.filter fun f => decide (f.due.getD 0 ≤ t)

/-- Every class F result due at a cycle is written. -/
def Group.land (g : Group) (s : State) (t : Nat) : Group :=
  match g.dueFlights t with
  | [] => g
  | fs => fs.foldl (fun g f => g.complete s f) g

/-! ## Time of issue -/

/-- The cycle at which the group's next instruction issues: when its distance has elapsed, and not before the present cycle (R57). -/
def State.issueCycle (s : State) (dist : Nat) : Nat :=
  match s.cur.last with
  | none => s.cycle
  | some l => max s.cycle (l + 1 + dist)

/-! ## The plan of an instruction -/

/-- What an instruction adds to the shared issue. -/
structure Plan where
  /-- R65 step 1: no instruction is defined by its word. -/
  bad    : Bool := false
  /-- R65 step 2: it is privileged, or names a privileged register. -/
  secret : Bool := false
  /-- R65 step 3: its operands are of the classes, the allocation and the pairs it accepts. -/
  ops    : Cx → Bool := fun _ => true
  /-- Its sources, for R62 and R131. -/
  uses   : List Use := []
  /-- Predicates and walkers that it reads, for R462. -/
  also   : List RegRef := []
  /-- What it reads at issue cannot be read yet: the group's earlier stores to it are still to be performed (R191). -/
  reading : Cx → Bool := fun _ => false
  /-- R65 step 5: its own faults, the first that applies. -/
  own    : Cx → Option Trap := fun _ => none
  /-- What it leaves beside the trap where it takes a fault of its own. -/
  mark   : Cx → State → State := fun _ s => s
  /-- It cannot issue now (R378). -/
  wait   : Cx → Bool := fun _ => false
  /-- What the translations made at its issue leave where it stalls (R118, R123). -/
  ask    : Cx → State → State := fun _ s => s
  /-- It brings a request to the view table (R423). -/
  table  : Cx → Bool := fun _ => false
  /-- It acts once for a group and its shadow, which are compared at it (R464). -/
  acts   : Bool := false
  /-- It is a memory instruction, for R129 and R131. -/
  mem    : Bool := false
  /-- The counters a WAIT names. -/
  names  : BitVec 12 := 0
  /-- It is an EXIT (R131, R355). -/
  exits  : Bool := false
  /-- Its effect, on the state in which the run's PCs have gone on to the next instruction (R332). -/
  eff    : Cx → State → State := fun _ s => s

/-- A deferred fault is due at this instruction (R131). -/
def Deferred.due (d : Deferred) (p : Plan) : Bool :=
  p.mem || p.exits || (d.cnt.toNat < 12 && p.names.getLsbD d.cnt.toNat) ||
    (p.uses.flatMap Use.refs).any d.dests.contains

/-- Of deferred faults, the one recorded earliest (R385). -/
def earliest (ds : List Deferred) : Option Deferred :=
  (least (ds.map (·.seq))).bind fun k => ds.find? (·.seq == k)

/-- The deferred fault that this instruction delivers: the earliest of those due; none while privileged (R133). -/
def Group.dueDeferred (g : Group) (p : Plan) : Option Deferred :=
  if g.priv then none else earliest (g.deferred.filter (·.due p))

/-- The lanes enabled by the guard (R36). -/
def enabledLanes (c : Cx) (h : Hdr) : DWord :=
  let p := c.preg h.pred
  c.run.mask &&& (if h.pneg then ~~~p else p)

/-- The hold run after an instruction: it goes on where HOLD is honoured, which the eighth honoured bit in a row is the last to
be (R61). -/
def HoldRun.after (r : HoldRun) (h : Hdr) : HoldRun :=
  if h.hold && h.len != 2 && h.lat != .c && h.lat != .b && r.pos < 8 then { r with pos := r.pos + 1 } else HoldRun.none

/-- A latching instruction's result enters b0 and the others move down (R62); where the run has ended it goes nowhere. -/
def Group.pushLatch (g : Group) (l : Latch) : Group :=
  if g.run.pos = 0 then g else { g with run := { g.run with latches := (l :: g.run.latches).take 4 } }

/-- A write made at issue (class C): older flights still to write the same place take note (R59). -/
def Group.writeNow (g : Group) (w : RegWrite) : Group :=
  let g := g.writeReg w
  { g with flights := g.flights.map (·.overtaken [w]) }

/-- The accounts of an issue: ISSUED of the block and the budget of a drain (R395, R396), the queue's charge, for a shadow too (R375), and
the time. -/
def State.account (s : State) (t : Nat) : State :=
  let launch := ((s.blockOf s.cur).map (·.launch)).getD 0
  let s := s.onLaunch launch fun l => { l with owed := l.owed + if s.cur.shadow then 2 else 1 }
  { s.onBlock s.cur.block (fun b =>
      { b with
        issued := b.issued + 1
        res := match b.res with | .draining (n + 1) k => .draining n k | r => r }) with
    cycle := max s.cycle t
    free := s.free + 1 }

/-- The instruction does not issue: the hold run ends and the group waits for a change (R61, R378). -/
def State.stall (s : State) : State := { s with cur := { s.cur with run := HoldRun.none, hold := .stalled } }

/-- The code of the first poisoned register among some (R462); a predicate or walker has its number (log 22). -/
def poisoned (g : Group) (refs : List RegRef) : Option Nat :=
  if g.poison = [] then none
  else
    (refs.find? g.poison.contains).map fun
      | .vec r => r
      | .sca r => 0x80 + r
      | .prd r => r
      | .wlk r => r

/-- DATA_POISON of a register (R462). -/
def Trap.poison (k : Nat) : Trap := .precise Cause.dataPoison 0 (BitVec.ofNat 64 (0x100 + k))

/-- A delivered log entry's lanes leave their flight, and the flight goes when none remains (R131). -/
def Group.dropLogged (g : Group) (key : Nat) : Group :=
  { g with flights := g.flights.filterMap fun f =>
      if f.key != key then some f
      else match f.op with
        | .access a =>
          let ls := a.lanes.filter fun l => match l.st with | .logged _ _ _ => false | _ => true
          if ls = [] then none else some { f with cnt := 15, op := .access { a with lanes := ls } }
        | _ => some f }

/-- A deferred fault is delivered on the issuing group at a run (R131): the log entry is free, the counter is decremented, and the trap is
taken. -/
def State.deliver (s : State) (d : Deferred) (r : Run) (t : Nat) : State :=
  let g := { s.cur with deferred := s.cur.deferred.filter (· != d) }
  let g := if d.dec then (g.release d.cnt).dropLogged d.key else g
  let tr := { d.trap with xinfo := if d.resume then r.pc.setWidth 64 else d.trap.xinfo, xscr := some r.pc }
  ({ s with cur := g, olog := s.olog.filter fun e => !(e.block == g.block && e.gidx == g.gidx && e.flight == d.key) } : State).takeTrap tr r t

/-- The group's shadow differs at an instruction that acts once (R464). -/
def Plan.strays (p : Plan) (c : Cx) : Option (Nat × Nat) := if p.acts then c.g.differs else none

/-- Such an instruction is not performed: SHADOW_MISMATCH is taken at once where it has no counter, and otherwise at the first event of R131 for the
counter, which it decrements as it ends (R464). -/
def State.strayed (s next : State) (h : Hdr) (d : Nat × Nat) (r : Run) (t : Nat) : State :=
  let tr : Trap := .precise Cause.shadowMismatch 0 (BitVec.ofNat 64 (d.1 + 64 * d.2))
  if 12 ≤ h.cnt.toNat then ({ s with cur := { s.cur with differs := none } } : State).takeTrap tr r t
  else
    let f : Flight := ⟨next.nextKey, h.word, r.pc, none, h.cnt, [], [], 0, [], .result⟩
    let late : Deferred := ⟨{ tr with defer := true, xpc := some r.pc }, h.cnt, [], next.nextKey + 1, 0, false, false⟩
    ({ next with
      cur := { next.cur.claim h.cnt with differs := none, flights := next.cur.flights ++ [f], deferred := next.cur.deferred ++ [late] }
      nextKey := next.nextKey + 2 } : State).account t

/-- The view table has served a request of a higher location ID of the context in this cycle: this one comes in a later one (R423). -/
def State.tableBusy (s : State) (g : Group) (t : Nat) : Bool :=
  s.tabled.1 == t && s.tabled.2.1 == s.pasidOf g && decide (g.locid.toNat < s.tabled.2.2)

/-- The view table serves a request of the issuing group (R423). -/
def State.serveTable (s : State) : State := { s with tabled := ((s.cur.last).getD s.cycle, s.pasidOf s.cur, s.cur.locid.toNat) }

/-- It cannot issue now: its own stalls, the view table's order, or its counter (R60, R378, R423). -/
def Plan.held (p : Plan) (h : Hdr) (c : Cx) : Bool :=
  p.wait c || (p.table c && c.s.tableBusy c.g c.t) || (h.cnt.toNat < 12 && c.g.counter h.cnt.toNat == 63)

/-- Issues one instruction of the run that R331 selects. A group without a run, or held, issues nothing. -/
def issue (h : Hdr) (p : Plan) (s : State) : Host.Outcome State Fault Refusal :=
  if s.cur.hold != .free then .next s
  else
    match s.cur.nextRun with
    | none => .next s
    | some r =>
      let t := s.issueCycle h.dist
      let s := { s with cur := (s.cur.clearYields).land s t }
      let c : Cx := ⟨s, r, t, 0⟩
      let c := { c with en := enabledLanes c h }
      match s.cur.dueDeferred p with
      | some d => .next (s.deliver d r t)
      | none =>
        let word := h.word
        if p.bad || (s.cur.front && !h.front) then .next (s.takeTrap (.precise Cause.illegalInstr 0 word) r t)
        else if p.secret && !s.cur.priv then .next (s.takeTrap (.precise Cause.priv 0 word) r t)
        else if !p.ops c then .next (s.takeTrap (.precise Cause.illegalOperand 0 word) r t)
        else
          match c.badLatch p.uses with
          | some k => .next (s.takeTrap (.precise Cause.latchInvalid 0 (BitVec.ofNat 64 k)) r t)
          | none =>
          match poisoned c.g [RegRef.prd h.pred] with
          | some k => .next (s.takeTrap (.poison k) r t)
          | none =>
            let next := { s with cur := { (s.cur.advance r h.len) with last := some t, lastPc := r.pc, lastRun := r.mask, run := s.cur.run.after h } }
            if c.en = 0 then
              .next (next.account t)
            else
              match poisoned c.g (p.uses.flatMap Use.refs ++ p.also) with
              | some k => .next (s.takeTrap (.poison k) r t)
              | none =>
              if p.reading c then .next s.stall
              else
              match p.own c with
              | some tr => .next ((p.mark c s).takeTrap tr r t)
              | none =>
                if p.held h c then .next (p.ask c s).stall
                else match p.strays c with
                  | some d => .next (s.strayed next h d r t)
                  | none => .next ((p.eff c { next with cur := next.cur.claim h.cnt }).account t)

/-! ## Effects of the common shapes -/

/-- Latency in cycles of a class F instruction (R58). -/
def latencyCycles : Latency → Nat
  | .f2 => 2
  | .f6 => 6
  | _ => 4

/-- A class F result: it lands after the latency; a latching instruction's first vector write enters b0, and NOWB keeps it from
the register (R58, R62, R63). -/
def Cx.result (c : Cx) (h : Hdr) (ws : List RegWrite) (flags : BitVec 5) (s : State) : State :=
  let l := latencyCycles h.lat
  let g := match h.latch, ws with
    | true, .vec _ pair _ val :: _ =>
      s.cur.pushLatch ⟨if pair then val else Lanes.ofFn fun i => low32 (val.get i), c.en, c.t + l - 2⟩
    | _, _ => s.cur
  let ws := if h.nowb then [] else ws
  let f : Flight := ⟨s.nextKey, h.word, c.run.pc, some (c.t + l), h.cnt, ws, ws.flatMap RegWrite.refs, flags, [], .result⟩
  { s with cur := { g with flights := g.flights ++ [f] }, nextKey := s.nextKey + 1 }

/-- A class V instruction goes into flight: what remains of it, and the writes known already (R58, R215). -/
def Cx.launch (c : Cx) (h : Hdr) (op : FlightOp) (ws : List RegWrite) (dests : List RegRef) (flags : BitVec 5) (s : State) : State :=
  let f : Flight := ⟨s.nextKey, h.word, c.run.pc, none, h.cnt, ws, dests, flags, [], op⟩
  { s with cur := { s.cur with flights := s.cur.flights ++ [f] }, nextKey := s.nextKey + 1 }

/-- A result of the class that the header gives: class F by latency, class V at completion. -/
def Cx.finish (c : Cx) (h : Hdr) (ws : List RegWrite) (flags : BitVec 5) (s : State) : State :=
  if h.lat = .v then c.launch h .result ws (ws.flatMap RegWrite.refs) flags s else c.result h ws flags s

/-- The block has done something that only a save can keep (R395). -/
def State.setWide (s : State) : State := s.onBlock s.cur.block fun b => { b with wide := true }

/-- An instruction whose pages have been answered goes ahead (R155, R395). -/
def State.goesOn (s : State) : State := { s.setWide with cur := { s.cur with refused := false } }

end Sys2Proof.Machine
end

