-- ==== Sys2Proof/Machine/Lane.lean ====
section
/-! DEFINITION. The shapes of lane instructions: one result a lane from up to three sources, into a vector register or into the
lane bits of a predicate (R54, R214, R218), for the 16-bit, 32-bit and 64-bit forms (R42, R221). -/

namespace Sys2Proof.Machine

/-- The flags that arise in the enabled lanes (R38, R87). -/
def flagsOf (en : DWord) (f : Nat → BitVec 5) : BitVec 5 := (lanesOf en).foldl (fun a i => a ||| f i) 0

/-- One result a lane into a vector register, or a pair. `val` gives each lane's result and its flags. -/
def laneResult (h : Hdr) (pair : Bool) (dst : BitVec 8) (uses : List Use) (val : Cx → Nat → DWord × BitVec 5) (s : State) :
    Host.Outcome State Fault Refusal :=
  issue h
    { ops := fun c => c.vecOk pair dst && uses.all fun u => c.srcOk u.2 u.1
      uses := uses
      eff := fun c s =>
        let r : Lanes (DWord × BitVec 5) := Lanes.ofFn fun i => if lane c.en i then val c i else (0, 0)
        c.finish h [.vec dst.toNat pair c.en (r.map (·.1))] (flagsOf c.en fun i => (r.get i).2) s } s

/-- One comparison a lane into the lane bits of a predicate (R218). -/
def laneCompare (h : Hdr) (dst : BitVec 8) (uses : List Use) (val : Cx → Nat → Bool × BitVec 5) (s : State) :
    Host.Outcome State Fault Refusal :=
  issue h
    { ops := fun c => predOk dst && uses.all fun u => c.srcOk u.2 u.1
      uses := uses
      eff := fun c s =>
        let r : Lanes (Bool × BitVec 5) := Lanes.ofFn fun i => if lane c.en i then val c i else (false, 0)
        c.finish h [.prd dst.toNat c.en (maskOf fun i => (r.get i).1)] (flagsOf c.en fun i => (r.get i).2) s } s

/-- One source. -/
def lane1 (h : Hdr) (pair : Bool) (dst : BitVec 8) (a : Use) (f : DWord → DWord × BitVec 5) (s : State) :
    Host.Outcome State Fault Refusal :=
  laneResult h pair dst [a] (fun c i => f ((c.src a.2 a.1).get i)) s

/-- Two sources. -/
def lane2 (h : Hdr) (pair : Bool) (dst : BitVec 8) (a b : Use) (f : DWord → DWord → DWord × BitVec 5) (s : State) :
    Host.Outcome State Fault Refusal :=
  laneResult h pair dst [a, b] (fun c i => f ((c.src a.2 a.1).get i) ((c.src b.2 b.1).get i)) s

/-- Three sources. -/
def lane3 (h : Hdr) (pair : Bool) (dst : BitVec 8) (a b d : Use) (f : DWord → DWord → DWord → DWord × BitVec 5) (s : State) :
    Host.Outcome State Fault Refusal :=
  laneResult h pair dst [a, b, d]
    (fun c i => f ((c.src a.2 a.1).get i) ((c.src b.2 b.1).get i) ((c.src d.2 d.1).get i)) s

/-- An operation on two values that raises no flag. -/
def quiet2 (f : DWord → DWord → DWord) : DWord → DWord → DWord × BitVec 5 := fun x y => (f x y, 0)
/-- An operation on one value that raises no flag. -/
def quiet1 (f : DWord → DWord) : DWord → DWord × BitVec 5 := fun x => (f x, 0)
/-- An operation on three values that raises no flag. -/
def quiet3 (f : DWord → DWord → DWord → DWord) : DWord → DWord → DWord → DWord × BitVec 5 := fun x y z => (f x y z, 0)

/-- The code of a vector register of a 16-bit form (R42). -/
def vcode (v : BitVec 5) : BitVec 8 := v.setWidth 8

/-- A two-address halfword on 32-bit lanes: first source vd, second vs (R42). -/
def two16 (op : BitVec 4) (vd vs : BitVec 5) (f : DWord → DWord → DWord × BitVec 5) (s : State) :
    Host.Outcome State Fault Refusal :=
  lane2 (hdrTwo op vd vs) false (vcode vd) (vcode vd, false) (vcode vs, false) f s


/-- A 32-bit form with one source. -/
def one32 (major : BitVec 6) (wide : Bool) (f : F32) (op : DWord → DWord × BitVec 5) (s : State) :
    Host.Outcome State Fault Refusal :=
  lane1 (hdr32 major f) wide (widen6 f.dst) (widen6 f.src1, wide) op s

/-- A 32-bit form with two sources. -/
def two32 (major : BitVec 6) (wide : Bool) (f : F32) (op : DWord → DWord → DWord × BitVec 5) (s : State) :
    Host.Outcome State Fault Refusal :=
  lane2 (hdr32 major f) wide (widen6 f.dst) (widen6 f.src1, wide) (widen6 f.src2, wide) op s

/-- A 32-bit form that accumulates into vd (R66). -/
def three32 (major : BitVec 6) (wide : Bool) (f : F32) (op : DWord → DWord → DWord → DWord × BitVec 5) (s : State) :
    Host.Outcome State Fault Refusal :=
  lane3 (hdr32 major f) wide (widen6 f.dst) (widen6 f.src1, wide) (widen6 f.src2, wide) (widen6 f.dst, wide) op s

/-- The major of a family with a 32-bit and a 64-bit half. -/
def majorOf (wide : Bool) (narrow : BitVec 6) : BitVec 6 := if wide then narrow + 1 else narrow

end Sys2Proof.Machine
end

