-- ==== Sys2Proof/Machine/FpLane.lean ====
section
/-! DEFINITION. Floating-point lane instructions (R222 to R228): majors 0x04, 0x05 and 0x06, and their 16-bit and 32-bit forms. -/

namespace Sys2Proof.Machine

/-- The rounding of a word: MOD[61:60], and .ftz in MOD[62] (R222). -/
def rndOf (f : F64) : Rnd := ⟨Round.ofCode f.modLow, f.modBit 2⟩

/-- One source of the major's format. -/
def fp1 (min : BitVec 6) (wide : Bool) (f : F64) (op : DWord → DWord × BitVec 5) (s : State) : Host.Outcome State Fault Refusal :=
  lane1 (hdr64 (majorOf wide 4) min f) wide f.dst (f.s1, wide) op s
/-- Two sources of the major's format. -/
def fp2 (min : BitVec 6) (wide : Bool) (f : F64) (op : DWord → DWord → DWord × BitVec 5) (s : State) :
    Host.Outcome State Fault Refusal :=
  lane2 (hdr64 (majorOf wide 4) min f) wide f.dst (f.s1, wide) (f.s2, wide) op s

/-- FADD (R223). -/
def execFadd (wide : Bool) (f : F64) (s : State) : Host.Outcome State Fault Refusal := fp2 0x00 wide f (fpAdd (.lane wide) (rndOf f)) s
/-- FSUB (R223). -/
def execFsub (wide : Bool) (f : F64) (s : State) : Host.Outcome State Fault Refusal := fp2 0x01 wide f (fpSub (.lane wide) (rndOf f)) s
/-- FMUL (R223). -/
def execFmul (wide : Bool) (f : F64) (s : State) : Host.Outcome State Fault Refusal := fp2 0x02 wide f (fpMul (.lane wide) (rndOf f)) s
/-- FFMA: S1 × S2 + S3 with one rounding (R223). -/
def execFfma (wide : Bool) (f : F64) (s : State) : Host.Outcome State Fault Refusal :=
  lane3 (hdr64 (majorOf wide 4) 0x03 f) wide f.dst (f.s1, wide) (f.s2, wide) (f.s3, wide) (fpFma (.lane wide) (rndOf f)) s
/-- FMIN (R86); .ftz flushes the inputs. -/
def execFmin (wide : Bool) (f : F64) (s : State) : Host.Outcome State Fault Refusal :=
  fp2 0x04 wide f (fpMinMax (.lane wide) (rndOf f) false) s
/-- FMAX (R86). -/
def execFmax (wide : Bool) (f : F64) (s : State) : Host.Outcome State Fault Refusal :=
  fp2 0x05 wide f (fpMinMax (.lane wide) (rndOf f) true) s
/-- FCMP (R224): MOD[62:60] the condition, MOD[63] .ftz. -/
def execFcmp (wide : Bool) (f : F64) (s : State) : Host.Outcome State Fault Refusal :=
  laneCompare (hdr64 (majorOf wide 4) 0x06 f) f.dst [(f.s1, wide), (f.s2, wide)]
    (fun c i => fpTest (.lane wide) (f.modBit 3) (f.mod.extractLsb' 0 3).toNat ((c.src wide f.s1).get i) ((c.src wide f.s2).get i)) s
/-- FCLASS (R225): one 32-bit register in either major. -/
def execFclass (wide : Bool) (f : F64) (s : State) : Host.Outcome State Fault Refusal :=
  lane1 (hdr64 (majorOf wide 4) 0x07 f) false f.dst (f.s1, wide) (quiet1 (fpClass (.lane wide))) s
/-- FRCP, class V (R227). -/
def execFrcp (wide : Bool) (f : F64) (s : State) : Host.Outcome State Fault Refusal := fp1 0x08 wide f (fpRcp wide (rndOf f)) s
/-- FRSQ, class V (R227). -/
def execFrsq (wide : Bool) (f : F64) (s : State) : Host.Outcome State Fault Refusal := fp1 0x09 wide f (fpRsq wide (rndOf f)) s
/-- FSQRT, class V, correctly rounded (R223). -/
def execFsqrt (wide : Bool) (f : F64) (s : State) : Host.Outcome State Fault Refusal := fp1 0x0A wide f (fpSqrt (.lane wide) (rndOf f)) s
/-- FDIV, class V, correctly rounded (R223). -/
def execFdiv (wide : Bool) (f : F64) (s : State) : Host.Outcome State Fault Refusal := fp2 0x0B wide f (fpDiv (.lane wide) (rndOf f)) s
/-- FEXP2, class V (R227). -/
def execFexp2 (wide : Bool) (f : F64) (s : State) : Host.Outcome State Fault Refusal := fp1 0x0C wide f (fpExp2 wide (rndOf f)) s
/-- FLOG2, class V (R227). -/
def execFlog2 (wide : Bool) (f : F64) (s : State) : Host.Outcome State Fault Refusal := fp1 0x0D wide f (fpLog2 wide (rndOf f)) s
/-- FSIN, class V (R227). -/
def execFsin (wide : Bool) (f : F64) (s : State) : Host.Outcome State Fault Refusal := fp1 0x0E wide f (fpTrig false wide (rndOf f)) s
/-- FCOS, class V (R227). -/
def execFcos (wide : Bool) (f : F64) (s : State) : Host.Outcome State Fault Refusal := fp1 0x0F wide f (fpTrig true wide (rndOf f)) s
/-- FRND (R223). -/
def execFrnd (wide : Bool) (f : F64) (s : State) : Host.Outcome State Fault Refusal := fp1 0x10 wide f (fpRound (.lane wide) (rndOf f)) s
/-- FSCALE (R223): the exponent is S2[31:0], a 32-bit lane source. -/
def execFscale (wide : Bool) (f : F64) (s : State) : Host.Outcome State Fault Refusal :=
  lane2 (hdr64 (majorOf wide 4) 0x11 f) wide f.dst (f.s1, wide) (f.s2, false)
    (fun x y => fpScale (.lane wide) (rndOf f) x (y.setWidth 32).toInt) s
/-- FGETEXP (R226). -/
def execFgetexp (wide : Bool) (f : F64) (s : State) : Host.Outcome State Fault Refusal :=
  fp1 0x12 wide f (fpGetExp (.lane wide) (rndOf f)) s

/-! ## Packed 16-bit (R228) -/

/-- The element format: .f16x2 or .bf16x2. -/
def packFmt (f16 : Bool) : Fmt := if f16 then .fp16 else .bf16

/-- An operation on each element on its own (R81). -/
def packed2 (op : DWord → DWord → DWord × BitVec 5) (x y : DWord) : DWord × BitVec 5 :=
  let lo := op (x &&& 0xFFFF) (y &&& 0xFFFF)
  let hi := op ((x >>> 16) &&& 0xFFFF) ((y >>> 16) &&& 0xFFFF)
  ((hi.1 <<< 16) ||| lo.1, lo.2 ||| hi.2)
/-- The same with three operands. -/
def packed3 (op : DWord → DWord → DWord → DWord × BitVec 5) (x y z : DWord) : DWord × BitVec 5 :=
  let lo := op (x &&& 0xFFFF) (y &&& 0xFFFF) (z &&& 0xFFFF)
  let hi := op ((x >>> 16) &&& 0xFFFF) ((y >>> 16) &&& 0xFFFF) ((z >>> 16) &&& 0xFFFF)
  ((hi.1 <<< 16) ||| lo.1, lo.2 ||| hi.2)
/-- An element mask of a comparison (R228). -/
def packTest (f16 : Bool) (code : Nat) (x y : DWord) : DWord × BitVec 5 :=
  let t := fpTest (packFmt f16) false code x y
  (if t.1 then 0xFFFF else 0, t.2)

/-- Two packed sources of major 0x06. -/
def x2 (min : BitVec 6) (f : F64) (op : DWord → DWord → DWord × BitVec 5) (s : State) : Host.Outcome State Fault Refusal :=
  lane2 (hdr64 0x06 min f) false f.dst (f.s1, false) (f.s2, false) (packed2 op) s

/-- Packed FADD. -/
def execFaddX2 (f : F64) (s : State) : Host.Outcome State Fault Refusal := x2 0x00 f (fpAdd (packFmt (f.modBit 3)) .plain) s
/-- Packed FSUB. -/
def execFsubX2 (f : F64) (s : State) : Host.Outcome State Fault Refusal := x2 0x01 f (fpSub (packFmt (f.modBit 3)) .plain) s
/-- Packed FMUL. -/
def execFmulX2 (f : F64) (s : State) : Host.Outcome State Fault Refusal := x2 0x02 f (fpMul (packFmt (f.modBit 3)) .plain) s
/-- Packed FFMA. -/
def execFfmaX2 (f : F64) (s : State) : Host.Outcome State Fault Refusal :=
  lane3 (hdr64 0x06 0x03 f) false f.dst (f.s1, false) (f.s2, false) (f.s3, false)
    (packed3 (fpFma (packFmt (f.modBit 3)) .plain)) s
/-- Packed FMIN. -/
def execFminX2 (f : F64) (s : State) : Host.Outcome State Fault Refusal := x2 0x04 f (fpMinMax (packFmt (f.modBit 3)) .plain false) s
/-- Packed FMAX. -/
def execFmaxX2 (f : F64) (s : State) : Host.Outcome State Fault Refusal := x2 0x05 f (fpMinMax (packFmt (f.modBit 3)) .plain true) s
/-- Packed FCMP: element masks in a vector register. -/
def execFcmpX2 (f : F64) (s : State) : Host.Outcome State Fault Refusal :=
  x2 0x06 f (packTest (f.modBit 3) (f.mod.extractLsb' 0 3).toNat) s

/-! ## 16-bit forms (R42) -/

/-- FADD.F32. -/
def execFaddF32_16 (vd vs : BitVec 5) (s : State) : Host.Outcome State Fault Refusal := two16 12 vd vs (fpAdd .fp32 .plain) s
/-- FSUB.F32. -/
def execFsubF32_16 (vd vs : BitVec 5) (s : State) : Host.Outcome State Fault Refusal := two16 13 vd vs (fpSub .fp32 .plain) s
/-- FMUL.F32. -/
def execFmulF32_16 (vd vs : BitVec 5) (s : State) : Host.Outcome State Fault Refusal := two16 14 vd vs (fpMul .fp32 .plain) s
/-- FMAX.F32. -/
def execFmaxF32_16 (vd vs : BitVec 5) (s : State) : Host.Outcome State Fault Refusal := two16 15 vd vs (fpMinMax .fp32 .plain true) s

/-! ## 32-bit forms (R66, R221) -/

/-- To nearest even, .ftz under MOD. -/
def rnd32 (f : F32) : Rnd := ⟨.even, f.mod⟩

/-- FADD.F32. -/
def execFaddF32_32 (f : F32) (s : State) : Host.Outcome State Fault Refusal := two32 0x18 false f (fpAdd .fp32 (rnd32 f)) s
/-- FSUB.F32. -/
def execFsubF32_32 (f : F32) (s : State) : Host.Outcome State Fault Refusal := two32 0x19 false f (fpSub .fp32 (rnd32 f)) s
/-- FMUL.F32. -/
def execFmulF32_32 (f : F32) (s : State) : Host.Outcome State Fault Refusal := two32 0x1A false f (fpMul .fp32 (rnd32 f)) s
/-- FFMA.F32 into vd. -/
def execFfmaF32_32 (f : F32) (s : State) : Host.Outcome State Fault Refusal := three32 0x1B false f (fpFma .fp32 (rnd32 f)) s
/-- FMIN.F32. -/
def execFminF32_32 (f : F32) (s : State) : Host.Outcome State Fault Refusal := two32 0x1C false f (fpMinMax .fp32 (rnd32 f) false) s
/-- FMAX.F32. -/
def execFmaxF32_32 (f : F32) (s : State) : Host.Outcome State Fault Refusal := two32 0x1D false f (fpMinMax .fp32 (rnd32 f) true) s
/-- FSCALE.F32: the exponent is SRC2 as an I32 (R221). -/
def execFscaleF32_32 (f : F32) (s : State) : Host.Outcome State Fault Refusal :=
  two32 0x1E false f (fun x y => fpScale .fp32 (rnd32 f) x (y.setWidth 32).toInt) s
/-- FADD.F64. -/
def execFaddF64_32 (f : F32) (s : State) : Host.Outcome State Fault Refusal := two32 0x20 true f (fpAdd .fp64 (rnd32 f)) s
/-- FSUB.F64. -/
def execFsubF64_32 (f : F32) (s : State) : Host.Outcome State Fault Refusal := two32 0x21 true f (fpSub .fp64 (rnd32 f)) s
/-- FMUL.F64. -/
def execFmulF64_32 (f : F32) (s : State) : Host.Outcome State Fault Refusal := two32 0x22 true f (fpMul .fp64 (rnd32 f)) s
/-- FFMA.F64 into vd. -/
def execFfmaF64_32 (f : F32) (s : State) : Host.Outcome State Fault Refusal := three32 0x23 true f (fpFma .fp64 (rnd32 f)) s
/-- FMIN.F64. -/
def execFminF64_32 (f : F32) (s : State) : Host.Outcome State Fault Refusal := two32 0x24 true f (fpMinMax .fp64 (rnd32 f) false) s
/-- FMAX.F64. -/
def execFmaxF64_32 (f : F32) (s : State) : Host.Outcome State Fault Refusal := two32 0x25 true f (fpMinMax .fp64 (rnd32 f) true) s
/-- Packed FADD; MOD selects .f16x2. -/
def execFaddX2_32 (f : F32) (s : State) : Host.Outcome State Fault Refusal := two32 0x28 false f (packed2 (fpAdd (packFmt f.mod) .plain)) s
/-- Packed FSUB. -/
def execFsubX2_32 (f : F32) (s : State) : Host.Outcome State Fault Refusal := two32 0x29 false f (packed2 (fpSub (packFmt f.mod) .plain)) s
/-- Packed FMUL. -/
def execFmulX2_32 (f : F32) (s : State) : Host.Outcome State Fault Refusal := two32 0x2A false f (packed2 (fpMul (packFmt f.mod) .plain)) s
/-- Packed FFMA into vd. -/
def execFfmaX2_32 (f : F32) (s : State) : Host.Outcome State Fault Refusal := three32 0x2B false f (packed3 (fpFma (packFmt f.mod) .plain)) s
/-- Packed FMIN. -/
def execFminX2_32 (f : F32) (s : State) : Host.Outcome State Fault Refusal := two32 0x2C false f (packed2 (fpMinMax (packFmt f.mod) .plain false)) s
/-- Packed FMAX. -/
def execFmaxX2_32 (f : F32) (s : State) : Host.Outcome State Fault Refusal := two32 0x2D false f (packed2 (fpMinMax (packFmt f.mod) .plain true)) s

end Sys2Proof.Machine
end

