-- ==== Sys2Proof/Machine/IntLane.lean ====
section
/-! DEFINITION. Integer lane instructions (R78, R217 to R221): majors 0x00 to 0x03, their 16-bit and 32-bit forms, and LEA. -/

namespace Sys2Proof.Machine

/-! ## Arithmetic on lanes of 32 or 64 bits, held in 64 bits with zeros above -/

/-- The low `w` bits. -/
def narrow (wide : Bool) (x : DWord) : DWord := if wide then x else low32 x
/-- The width. -/
def widthOf (wide : Bool) : Nat := if wide then 64 else 32
/-- The signed value. -/
def sval (wide : Bool) (x : DWord) : Int := if wide then x.toInt else (x.setWidth 32).toInt
/-- The unsigned value. -/
def uval (wide : Bool) (x : DWord) : Nat := if wide then x.toNat else (x.setWidth 32).toNat
/-- The low `w` bits of an integer. -/
def ofInt (wide : Bool) (n : Int) : DWord := narrow wide (BitVec.ofInt 64 n)

/-- The nearest of a type's minimum and maximum where a value leaves its range (R78). -/
def clampInt (lo hi n : Int) : Int := if n < lo then lo else if n > hi then hi else n
/-- The signed minimum and maximum. -/
def smin (wide : Bool) : Int := -(2 ^ (widthOf wide - 1) : Nat)
def smax (wide : Bool) : Int := (2 ^ (widthOf wide - 1) : Nat) - 1
/-- The unsigned maximum. -/
def umax (wide : Bool) : Int := (2 ^ widthOf wide : Nat) - 1

/-- Addition (R78, R217): wrapping, or saturating signed, or saturating unsigned. -/
def addSat (wide sat uns : Bool) (x y : DWord) : DWord :=
  if !sat then narrow wide (x + y)
  else if uns then ofInt wide (clampInt 0 (umax wide) (uval wide x + uval wide y))
  else ofInt wide (clampInt (smin wide) (smax wide) (sval wide x + sval wide y))

/-- Subtraction (R78, R217). -/
def subSat (wide sat uns : Bool) (x y : DWord) : DWord :=
  if !sat then narrow wide (x - y)
  else if uns then ofInt wide (clampInt 0 (umax wide) ((uval wide x : Int) - uval wide y))
  else ofInt wide (clampInt (smin wide) (smax wide) (sval wide x - sval wide y))

/-- The low bits of a product. -/
def mulLow (wide : Bool) (x y : DWord) : DWord := narrow wide (x * y)
/-- The high `w` bits of the product of 2w bits. -/
def mulHigh (wide uns : Bool) (x y : DWord) : DWord :=
  let p : Int := if uns then (uval wide x : Int) * uval wide y else sval wide x * sval wide y
  ofInt wide (p / (2 ^ widthOf wide : Nat))
/-- Multiply and add. -/
def mulAdd (wide : Bool) (x y z : DWord) : DWord := narrow wide (x * y + z)

/-- The quotient (R78): truncated; all ones for a zero divisor. -/
def divInt (wide uns : Bool) (x y : DWord) : DWord :=
  if uval wide y = 0 then ofInt wide (-1)
  else if uns then ofInt wide (uval wide x / uval wide y : Nat)
  else ofInt wide ((sval wide x).tdiv (sval wide y))
/-- The remainder (R78): of the dividend's sign; the dividend for a zero divisor. -/
def remInt (wide uns : Bool) (x y : DWord) : DWord :=
  if uval wide y = 0 then narrow wide x
  else if uns then ofInt wide (uval wide x % uval wide y : Nat)
  else ofInt wide ((sval wide x).tmod (sval wide y))

/-- Minimum. -/
def minInt (wide uns : Bool) (x y : DWord) : DWord :=
  if (if uns then decide (uval wide x ≤ uval wide y) else decide (sval wide x ≤ sval wide y)) then narrow wide x else narrow wide y
/-- Maximum. -/
def maxInt (wide uns : Bool) (x y : DWord) : DWord :=
  if (if uns then decide (uval wide x ≤ uval wide y) else decide (sval wide x ≤ sval wide y)) then narrow wide y else narrow wide x
/-- Absolute value; the signed minimum stays. -/
def absInt (wide : Bool) (x : DWord) : DWord := ofInt wide (sval wide x).natAbs

/-- Shift left by the unsigned count y[31:0]; 0 at or above the width (R78). -/
def shlInt (wide : Bool) (x y : DWord) : DWord :=
  let c := (y.setWidth 32).toNat
  if c ≥ widthOf wide then 0 else narrow wide (x <<< c)
/-- Logical shift right. -/
def shrInt (wide : Bool) (x y : DWord) : DWord :=
  let c := (y.setWidth 32).toNat
  if c ≥ widthOf wide then 0 else narrow wide x >>> c
/-- Arithmetic shift right; every bit the sign at or above the width. -/
def sarInt (wide : Bool) (x y : DWord) : DWord :=
  let c := min (y.setWidth 32).toNat (widthOf wide)
  ofInt wide (sval wide x / (2 ^ c : Nat))
/-- Rotate left, the count modulo the width. -/
def rotlInt (wide : Bool) (x y : DWord) : DWord :=
  let c := (y.setWidth 32).toNat % widthOf wide
  narrow wide (x <<< c ||| narrow wide x >>> (widthOf wide - c))

/-- The bits of a value, lowest first, as many as its width. -/
def bitsOf (wide : Bool) (x : DWord) : List Bool := (List.range (widthOf wide)).map x.getLsbD
/-- Ones counted. -/
def popcInt (wide : Bool) (x : DWord) : DWord := BitVec.ofNat 64 ((bitsOf wide x).filter id).length
/-- Leading zeros; the width for 0. -/
def clzInt (wide : Bool) (x : DWord) : DWord := BitVec.ofNat 64 ((bitsOf wide x).reverse.takeWhile (!·)).length
/-- Trailing zeros; the width for 0. -/
def ctzInt (wide : Bool) (x : DWord) : DWord := BitVec.ofNat 64 ((bitsOf wide x).takeWhile (!·)).length
/-- Bits reversed. -/
def brevInt (wide : Bool) (x : DWord) : DWord := if wide then x.reverse else ((x.setWidth 32).reverse).setWidth 64

/-- The position p and the effective length L of a field control (R219). -/
def fieldOf (wide : Bool) (ctl : DWord) : Nat × Nat :=
  let p := (ctl.toNat) % 256
  let n := (ctl.toNat / 256) % 256
  (p, if p < widthOf wide then min n (widthOf wide - p) else 0)

/-- Field extraction (R219). -/
def bfxInt (wide uns : Bool) (x ctl : DWord) : DWord :=
  let (p, l) := fieldOf wide ctl
  if l = 0 then 0
  else
    let v := (narrow wide x >>> p).toNat % 2 ^ l
    if uns ∨ v < 2 ^ (l - 1) then BitVec.ofNat 64 v else ofInt wide ((v : Int) - (2 ^ l : Nat))

/-- Field insertion of y into x (R219). -/
def bfiInt (wide : Bool) (x y ctl : DWord) : DWord :=
  let (p, l) := fieldOf wide ctl
  let m : DWord := BitVec.ofNat 64 (2 ^ l - 1) <<< p
  narrow wide ((x &&& ~~~m) ||| ((y <<< p) &&& m))

/-- LEA: x plus the shifted index, sign-extended unless `uns` (R217). -/
def leaInt (wide uns : Bool) (k : Nat) (x y : DWord) : DWord :=
  let i : DWord := if uns then low32 y else (y.setWidth 32).signExtend 64
  narrow wide (x + (i <<< k))

/-! ## The 64-bit forms of majors 0x00 and 0x01 -/

/-- One source of the lane's width. -/
def int1 (min : BitVec 6) (wide : Bool) (f : F64) (op : DWord → DWord) (s : State) : Host.Outcome State Fault Refusal :=
  lane1 (hdr64 (majorOf wide 0) min f) wide f.dst (f.s1, wide) (quiet1 op) s
/-- Two sources of the lane's width. -/
def int2 (min : BitVec 6) (wide : Bool) (f : F64) (op : DWord → DWord → DWord) (s : State) : Host.Outcome State Fault Refusal :=
  lane2 (hdr64 (majorOf wide 0) min f) wide f.dst (f.s1, wide) (f.s2, wide) (quiet2 op) s
/-- A second source of 32 bits: a count, a control or an index (R217). -/
def int2c (min : BitVec 6) (wide : Bool) (f : F64) (op : DWord → DWord → DWord) (s : State) : Host.Outcome State Fault Refusal :=
  lane2 (hdr64 (majorOf wide 0) min f) wide f.dst (f.s1, wide) (f.s2, false) (quiet2 op) s

/-- IADD (R217): MOD[60] saturates, MOD[61] unsigned. -/
def execIadd (wide : Bool) (f : F64) (s : State) : Host.Outcome State Fault Refusal :=
  int2 0x00 wide f (addSat wide (f.modBit 0) (f.modBit 1)) s
/-- ISUB (R217). -/
def execIsub (wide : Bool) (f : F64) (s : State) : Host.Outcome State Fault Refusal :=
  int2 0x01 wide f (subSat wide (f.modBit 0) (f.modBit 1)) s
/-- IMUL (R217). -/
def execImul (wide : Bool) (f : F64) (s : State) : Host.Outcome State Fault Refusal := int2 0x02 wide f (mulLow wide) s
/-- IMULH (R217). -/
def execImulh (wide : Bool) (f : F64) (s : State) : Host.Outcome State Fault Refusal :=
  int2 0x03 wide f (mulHigh wide (f.modBit 0)) s
/-- IMAD (R217). -/
def execImad (wide : Bool) (f : F64) (s : State) : Host.Outcome State Fault Refusal :=
  lane3 (hdr64 (majorOf wide 0) 0x04 f) wide f.dst (f.s1, wide) (f.s2, wide) (f.s3, wide) (quiet3 (mulAdd wide)) s
/-- IDIV, class V (R217, R78). -/
def execIdiv (wide : Bool) (f : F64) (s : State) : Host.Outcome State Fault Refusal := int2 0x05 wide f (divInt wide (f.modBit 0)) s
/-- IREM, class V (R217, R78). -/
def execIrem (wide : Bool) (f : F64) (s : State) : Host.Outcome State Fault Refusal := int2 0x06 wide f (remInt wide (f.modBit 0)) s
/-- IMIN (R217). -/
def execImin (wide : Bool) (f : F64) (s : State) : Host.Outcome State Fault Refusal := int2 0x07 wide f (minInt wide (f.modBit 0)) s
/-- IMAX (R217). -/
def execImax (wide : Bool) (f : F64) (s : State) : Host.Outcome State Fault Refusal := int2 0x08 wide f (maxInt wide (f.modBit 0)) s
/-- IABS (R217). -/
def execIabs (wide : Bool) (f : F64) (s : State) : Host.Outcome State Fault Refusal := int1 0x09 wide f (absInt wide) s
/-- AND (R217). -/
def execAnd (wide : Bool) (f : F64) (s : State) : Host.Outcome State Fault Refusal := int2 0x0A wide f (· &&& ·) s
/-- OR (R217). -/
def execOr (wide : Bool) (f : F64) (s : State) : Host.Outcome State Fault Refusal := int2 0x0B wide f (· ||| ·) s
/-- XOR (R217). -/
def execXor (wide : Bool) (f : F64) (s : State) : Host.Outcome State Fault Refusal := int2 0x0C wide f (· ^^^ ·) s
/-- ANDN (R217). -/
def execAndn (wide : Bool) (f : F64) (s : State) : Host.Outcome State Fault Refusal := int2 0x0D wide f (fun x y => x &&& ~~~y) s
/-- NOT (R217). -/
def execNot (wide : Bool) (f : F64) (s : State) : Host.Outcome State Fault Refusal := int1 0x0E wide f (fun x => narrow wide (~~~x)) s
/-- SHL (R217, R78). -/
def execShl (wide : Bool) (f : F64) (s : State) : Host.Outcome State Fault Refusal := int2c 0x0F wide f (shlInt wide) s
/-- SHR (R217, R78). -/
def execShr (wide : Bool) (f : F64) (s : State) : Host.Outcome State Fault Refusal := int2c 0x10 wide f (shrInt wide) s
/-- SAR (R217, R78). -/
def execSar (wide : Bool) (f : F64) (s : State) : Host.Outcome State Fault Refusal := int2c 0x11 wide f (sarInt wide) s
/-- ROTL (R217, R78). -/
def execRotl (wide : Bool) (f : F64) (s : State) : Host.Outcome State Fault Refusal := int2c 0x12 wide f (rotlInt wide) s
/-- BFX (R219): the control is S2. -/
def execBfx (wide : Bool) (f : F64) (s : State) : Host.Outcome State Fault Refusal := int2c 0x13 wide f (bfxInt wide (f.modBit 0)) s
/-- BFI (R219): S2 into S1, the control is S3. -/
def execBfi (wide : Bool) (f : F64) (s : State) : Host.Outcome State Fault Refusal :=
  lane3 (hdr64 (majorOf wide 0) 0x14 f) wide f.dst (f.s1, wide) (f.s2, wide) (f.s3, false) (quiet3 (bfiInt wide)) s
/-- POPC (R217). -/
def execPopc (wide : Bool) (f : F64) (s : State) : Host.Outcome State Fault Refusal := int1 0x15 wide f (popcInt wide) s
/-- CLZ (R217). -/
def execClz (wide : Bool) (f : F64) (s : State) : Host.Outcome State Fault Refusal := int1 0x16 wide f (clzInt wide) s
/-- CTZ (R217). -/
def execCtz (wide : Bool) (f : F64) (s : State) : Host.Outcome State Fault Refusal := int1 0x17 wide f (ctzInt wide) s
/-- BREV (R217). -/
def execBrev (wide : Bool) (f : F64) (s : State) : Host.Outcome State Fault Refusal := int1 0x18 wide f (brevInt wide) s
/-- LEA (R217): MOD[62:60] the shift, MOD[63] zero-extension in major 0x01. -/
def execLea (wide : Bool) (f : F64) (s : State) : Host.Outcome State Fault Refusal :=
  int2c 0x19 wide f (leaInt wide (f.modBit 3) (f.mod.extractLsb' 0 3).toNat) s
/-- ICMP (R218). -/
def execIcmp (wide : Bool) (f : F64) (s : State) : Host.Outcome State Fault Refusal :=
  laneCompare (hdr64 (majorOf wide 0) 0x1A f) f.dst [(f.s1, wide), (f.s2, wide)]
    (fun c i => (intCond wide f.mod.toNat ((c.src wide f.s1).get i) ((c.src wide f.s2).get i), 0)) s
/-- SEL (R217): the lane's bit of the predicate in S3 selects. -/
def execSel (wide : Bool) (f : F64) (s : State) : Host.Outcome State Fault Refusal :=
  let h := hdr64 (majorOf wide 0) 0x1B f
  issue h
    { ops := fun c => c.vecOk wide f.dst && c.srcOk wide f.s1 && c.srcOk wide f.s2 && predOk f.s3
      also := [.prd f.s3.toNat]
      uses := [(f.s1, wide), (f.s2, wide)]
      eff := fun c s =>
        c.finish h [.vec f.dst.toNat wide c.en (Lanes.ofFn fun i =>
          if lane (c.preg f.s3.toNat) i then (c.src wide f.s1).get i else (c.src wide f.s2).get i)] 0 s } s
/-- MOV (R217). -/
def execMov (wide : Bool) (f : F64) (s : State) : Host.Outcome State Fault Refusal := int1 0x1C wide f id s

/-! ## Major 0x02: the sign-extended immediate stands for S2 -/

/-- The sign-extended immediate as a 32-bit operand (R217). -/
def imm32 (f : F64) : DWord := (f.imm16.signExtend 32).setWidth 64

/-- An operation with the immediate. -/
def intImm (min : BitVec 6) (f : F64) (op : DWord → DWord → DWord) (s : State) : Host.Outcome State Fault Refusal :=
  lane1 (hdr64 0x02 min f) false f.dst (f.s1, false) (quiet1 fun x => op x (imm32 f)) s

/-- IADD with immediate (R217). -/
def execIaddImm (f : F64) (s : State) : Host.Outcome State Fault Refusal := intImm 0x00 f (addSat false (f.modBit 0) (f.modBit 1)) s
/-- IMUL with immediate. -/
def execImulImm (f : F64) (s : State) : Host.Outcome State Fault Refusal := intImm 0x02 f (mulLow false) s
/-- IMIN with immediate. -/
def execIminImm (f : F64) (s : State) : Host.Outcome State Fault Refusal := intImm 0x07 f (minInt false (f.modBit 0)) s
/-- IMAX with immediate. -/
def execImaxImm (f : F64) (s : State) : Host.Outcome State Fault Refusal := intImm 0x08 f (maxInt false (f.modBit 0)) s
/-- AND with immediate. -/
def execAndImm (f : F64) (s : State) : Host.Outcome State Fault Refusal := intImm 0x0A f (· &&& ·) s
/-- OR with immediate. -/
def execOrImm (f : F64) (s : State) : Host.Outcome State Fault Refusal := intImm 0x0B f (· ||| ·) s
/-- XOR with immediate. -/
def execXorImm (f : F64) (s : State) : Host.Outcome State Fault Refusal := intImm 0x0C f (· ^^^ ·) s
/-- SHL by immediate. -/
def execShlImm (f : F64) (s : State) : Host.Outcome State Fault Refusal := intImm 0x0F f (shlInt false) s
/-- SHR by immediate. -/
def execShrImm (f : F64) (s : State) : Host.Outcome State Fault Refusal := intImm 0x10 f (shrInt false) s
/-- SAR by immediate. -/
def execSarImm (f : F64) (s : State) : Host.Outcome State Fault Refusal := intImm 0x11 f (sarInt false) s
/-- ROTL by immediate. -/
def execRotlImm (f : F64) (s : State) : Host.Outcome State Fault Refusal := intImm 0x12 f (rotlInt false) s
/-- BFX with an immediate control (R219). -/
def execBfxImm (f : F64) (s : State) : Host.Outcome State Fault Refusal := intImm 0x13 f (bfxInt false (f.modBit 0)) s
/-- BFI with an immediate control: S1 is inserted into the old vD (R219). -/
def execBfiImm (f : F64) (s : State) : Host.Outcome State Fault Refusal :=
  lane2 (hdr64 0x02 0x14 f) false f.dst (f.dst, false) (f.s1, false) (quiet2 fun x y => bfiInt false x y (imm32 f)) s
/-- ICMP against the immediate (R218). -/
def execIcmpImm (f : F64) (s : State) : Host.Outcome State Fault Refusal :=
  laneCompare (hdr64 0x02 0x1A f) f.dst [(f.s1, false)]
    (fun c i => (intCond false f.mod.toNat ((c.src false f.s1).get i) (imm32 f), 0)) s

/-! ## Major 0x03 -/

/-- MOVI (R220): the sign-extended imm24. -/
def execMovi (f : F64) (s : State) : Host.Outcome State Fault Refusal :=
  laneResult (hdr64 0x03 0x00 f) false f.dst [] (fun _ _ => ((f.imm24.signExtend 32).setWidth 64, 0)) s
/-- MOVI.HI (R220): imm24 into bits 31:8, bits 7:0 kept. -/
def execMoviHi (f : F64) (s : State) : Host.Outcome State Fault Refusal :=
  lane1 (hdr64 0x03 0x01 f) false f.dst (f.dst, false) (quiet1 fun x => (x &&& 0xFF) ||| (f.imm24.setWidth 64 <<< 8)) s

/-! ## 16-bit forms (R42) -/

/-- MOV. Its source is vs. -/
def execMov16 (vd vs : BitVec 5) (s : State) : Host.Outcome State Fault Refusal :=
  lane1 (hdrTwo 0 vd vs) false (vcode vd) (vcode vs, false) (quiet1 id) s
/-- IADD, wrapping. -/
def execIadd16 (vd vs : BitVec 5) (s : State) : Host.Outcome State Fault Refusal := two16 1 vd vs (quiet2 (addSat false false false)) s
/-- ISUB, wrapping. -/
def execIsub16 (vd vs : BitVec 5) (s : State) : Host.Outcome State Fault Refusal := two16 2 vd vs (quiet2 (subSat false false false)) s
/-- IMUL. -/
def execImul16 (vd vs : BitVec 5) (s : State) : Host.Outcome State Fault Refusal := two16 3 vd vs (quiet2 (mulLow false)) s
/-- AND. -/
def execAnd16 (vd vs : BitVec 5) (s : State) : Host.Outcome State Fault Refusal := two16 4 vd vs (quiet2 (· &&& ·)) s
/-- OR. -/
def execOr16 (vd vs : BitVec 5) (s : State) : Host.Outcome State Fault Refusal := two16 5 vd vs (quiet2 (· ||| ·)) s
/-- XOR. -/
def execXor16 (vd vs : BitVec 5) (s : State) : Host.Outcome State Fault Refusal := two16 6 vd vs (quiet2 (· ^^^ ·)) s
/-- SHL. -/
def execShl16 (vd vs : BitVec 5) (s : State) : Host.Outcome State Fault Refusal := two16 7 vd vs (quiet2 (shlInt false)) s
/-- SHR. -/
def execShr16 (vd vs : BitVec 5) (s : State) : Host.Outcome State Fault Refusal := two16 8 vd vs (quiet2 (shrInt false)) s
/-- SAR. -/
def execSar16 (vd vs : BitVec 5) (s : State) : Host.Outcome State Fault Refusal := two16 9 vd vs (quiet2 (sarInt false)) s
/-- IMIN, signed. -/
def execImin16 (vd vs : BitVec 5) (s : State) : Host.Outcome State Fault Refusal := two16 10 vd vs (quiet2 (minInt false false)) s
/-- IMAX, signed. -/
def execImax16 (vd vs : BitVec 5) (s : State) : Host.Outcome State Fault Refusal := two16 11 vd vs (quiet2 (maxInt false false)) s

/-! ## 32-bit forms (R66, R221) -/

/-- IADD; MOD saturates signed. -/
def execIadd32 (f : F32) (s : State) : Host.Outcome State Fault Refusal := two32 0x00 false f (quiet2 (addSat false f.mod false)) s
/-- ISUB; MOD saturates signed. -/
def execIsub32 (f : F32) (s : State) : Host.Outcome State Fault Refusal := two32 0x01 false f (quiet2 (subSat false f.mod false)) s
/-- IMUL. -/
def execImul32 (f : F32) (s : State) : Host.Outcome State Fault Refusal := two32 0x02 false f (quiet2 (mulLow false)) s
/-- IMULH; MOD unsigned. -/
def execImulh32 (f : F32) (s : State) : Host.Outcome State Fault Refusal := two32 0x03 false f (quiet2 (mulHigh false f.mod)) s
/-- IMAD into vd. -/
def execImad32 (f : F32) (s : State) : Host.Outcome State Fault Refusal := three32 0x04 false f (quiet3 (mulAdd false)) s
/-- IMIN; MOD unsigned. -/
def execImin32 (f : F32) (s : State) : Host.Outcome State Fault Refusal := two32 0x05 false f (quiet2 (minInt false f.mod)) s
/-- IMAX; MOD unsigned. -/
def execImax32 (f : F32) (s : State) : Host.Outcome State Fault Refusal := two32 0x06 false f (quiet2 (maxInt false f.mod)) s
/-- IABS. -/
def execIabs32 (f : F32) (s : State) : Host.Outcome State Fault Refusal := one32 0x07 false f (quiet1 (absInt false)) s
/-- AND. -/
def execAnd32 (f : F32) (s : State) : Host.Outcome State Fault Refusal := two32 0x08 false f (quiet2 (· &&& ·)) s
/-- OR. -/
def execOr32 (f : F32) (s : State) : Host.Outcome State Fault Refusal := two32 0x09 false f (quiet2 (· ||| ·)) s
/-- XOR. -/
def execXor32 (f : F32) (s : State) : Host.Outcome State Fault Refusal := two32 0x0A false f (quiet2 (· ^^^ ·)) s
/-- ANDN. -/
def execAndn32 (f : F32) (s : State) : Host.Outcome State Fault Refusal := two32 0x0B false f (quiet2 fun x y => x &&& ~~~y) s
/-- NOT. -/
def execNot32 (f : F32) (s : State) : Host.Outcome State Fault Refusal := one32 0x0C false f (quiet1 fun x => low32 (~~~x)) s
/-- SHL. -/
def execShl32 (f : F32) (s : State) : Host.Outcome State Fault Refusal := two32 0x0D false f (quiet2 (shlInt false)) s
/-- SHR. -/
def execShr32 (f : F32) (s : State) : Host.Outcome State Fault Refusal := two32 0x0E false f (quiet2 (shrInt false)) s
/-- SAR. -/
def execSar32 (f : F32) (s : State) : Host.Outcome State Fault Refusal := two32 0x0F false f (quiet2 (sarInt false)) s
/-- ROTL. -/
def execRotl32 (f : F32) (s : State) : Host.Outcome State Fault Refusal := two32 0x10 false f (quiet2 (rotlInt false)) s
/-- POPC. -/
def execPopc32 (f : F32) (s : State) : Host.Outcome State Fault Refusal := one32 0x11 false f (quiet1 (popcInt false)) s
/-- CLZ. -/
def execClz32 (f : F32) (s : State) : Host.Outcome State Fault Refusal := one32 0x12 false f (quiet1 (clzInt false)) s
/-- CTZ. -/
def execCtz32 (f : F32) (s : State) : Host.Outcome State Fault Refusal := one32 0x13 false f (quiet1 (ctzInt false)) s
/-- BREV. -/
def execBrev32 (f : F32) (s : State) : Host.Outcome State Fault Refusal := one32 0x14 false f (quiet1 (brevInt false)) s
/-- LEA: shift by 2, or by 3 under MOD. -/
def execLea32 (f : F32) (s : State) : Host.Outcome State Fault Refusal := two32 0x15 false f (quiet2 (leaInt false false (if f.mod then 3 else 2))) s
/-- MOV. -/
def execMov32 (f : F32) (s : State) : Host.Outcome State Fault Refusal := one32 0x16 false f (quiet1 id) s

end Sys2Proof.Machine
end

