-- ==== Sys2Proof/Machine/Convert.lean ====
section
/-! DEFINITION. Conversion and quantisation (R229 to R232) and the plane layout of R92 to R94. PLPACK and PLUNPACK are in VaultOps.lean. -/

namespace Sys2Proof.Machine

/-- CVT (R229): S3[3:0] the destination type, S3[7:4] the source type, MOD[62] .satf or .sat. -/
def execCvt (f : F64) (s : State) : Host.Outcome State Fault Refusal :=
  lane1 (hdr64 0x07 0x00 f) (typeBits f.type == 64) f.dst (f.s1, typeBits f.type2 == 64)
    (cvtValue f.type f.type2 (Round.ofCode f.modLow) (f.modBit 2)) s

/-- One field of PACK (R230): width code, position, old value, S1 and S2. -/
def packField (w p : Nat) (old x y : DWord) : DWord :=
  match w with
  | 0 => (x &&& 0xFFFF) ||| ((y &&& 0xFFFF) <<< 16)
  | 1 => (old &&& ~~~(0xFFFF#64 <<< (16 * p))) ||| (((x &&& 0xFF) ||| ((y &&& 0xFF) <<< 8)) <<< (16 * p))
  | _ => (old &&& ~~~(0xFF#64 <<< (8 * p))) ||| (((x &&& 0xF) ||| ((y &&& 0xF) <<< 4)) <<< (8 * p))

/-- PACK (R230): MOD[61:60] the width, MOD[63:62] the position; the other bits of vD are kept. -/
def execPack (f : F64) (s : State) : Host.Outcome State Fault Refusal :=
  lane3 (hdr64 0x07 0x01 f) false f.dst (f.dst, false) (f.s1, false) (f.s2, false)
    (quiet3 (packField f.modLow.toNat f.modHigh.toNat)) s

/-- One element of UNPACK (R230). -/
def unpackElem (w e : Nat) (sgn : Bool) (x : DWord) : DWord :=
  let n := match w with | 0 => 16 | 1 => 8 | _ => 4
  let v := (x.toNat / 2 ^ (e * n)) % 2 ^ n
  if sgn ∧ v ≥ 2 ^ (n - 1) then (BitVec.ofInt 32 ((v : Int) - (2 ^ n : Nat))).setWidth 64 else BitVec.ofNat 64 v

/-- UNPACK (R230): imm16[2:0] the element, imm16[3] .s. -/
def execUnpack (f : F64) (s : State) : Host.Outcome State Fault Refusal :=
  lane1 (hdr64 0x07 0x02 f) false f.dst (f.s1, false)
    (quiet1 (unpackElem f.modLow.toNat (f.imm16.extractLsb' 0 3).toNat (f.imm16.getLsbD 3))) s

/-- The elements of one lane: one FP32 value, or two narrower ones in lane form (R231, R94). -/
def laneElems (t : BitVec 4) (x : DWord) : List DWord :=
  let w := typeBits t
  if w = 32 then [low32 x]
  else [BitVec.ofNat 64 (x.toNat % 2 ^ w), BitVec.ofNat 64 (x.toNat / 2 ^ w % 2 ^ w)]

/-- The largest magnitude of elements as FP32; NaNs are ignored, and all NaN gives the canonical NaN (R231). -/
def amaxOf (t : BitVec 4) (xs : List DWord) : DWord :=
  match typeFmt t with
  | none => 0
  | some f =>
    let mags := xs.filterMap fun x => match f.decode x with
      | .nan _ => none
      | .inf _ => some (Fp.inf false)
      | .num _ m e => some (Fp.num false m e)
    match mags with
    | [] => Fmt.fp32.nan
    | m :: ms => (ms.foldl (fun a b => if fpCompare a b = .lt then b else a) m).word .fp32

/-- AMAX, class V (R231). -/
def execAmax (f : F64) (s : State) : Host.Outcome State Fault Refusal :=
  let h := hdr64 0x07 0x03 f
  issue h
    { ops := fun c => sregOk f.dst && c.srcOk false f.s1
      uses := [(f.s1, false)]
      eff := fun c s =>
        let xs := (lanesOf c.en).flatMap fun i => laneElems f.type ((c.src false f.s1).get i)
        c.finish h [.sca (f.dst.toNat - 0x80) (amaxOf f.type xs)] 0 s } s

/-- One quotient of QUANT: divided as IEEE 754-2019 says and rounded once to the narrow format (R232). -/
def quantOne (dst : Fmt) (mode : Round) (satf : Bool) (x sc : DWord) : DWord × BitVec 5 :=
  let f := Fmt.fp32
  let narrowInf (n : Bool) (fl : BitVec 5) : DWord × BitVec 5 :=
    if dst.e4m3 then (if satf then (dst.largest n, fl) else (dst.nan, fl ||| flagNV)) else (dst.inf n, fl)
  match f.decode x, f.decode sc with
  | .num n m e, .num n' m' e' =>
    if m' = 0 then (if m = 0 then (dst.nan, flagNV) else narrowInf (n != n') flagDZ)
    else roundTo dst mode false satf (n != n') m m' (e - e')
  | .inf _, .inf _ => (dst.nan, flagNV)
  | .inf n, .num n' _ _ => narrowInf (n != n') 0
  | .num n _ _, .inf n' => (dst.zero (n != n'), 0)
  | a, b => dst.nanOf [a, b]

/-- QUANT (R232): MOD[61:60] rounding, MOD[62] .satf, MOD[63] E5M2. S3 is a vector or scalar register. -/
def execQuant (f : F64) (s : State) : Host.Outcome State Fault Refusal :=
  let h := hdr64 0x07 0x04 f
  let dst := if f.modBit 3 then Fmt.fe5m2 else Fmt.fe4m3
  issue h
    { ops := fun c => c.vecOk false f.dst && c.srcOk false f.s1 && c.srcOk false f.s2 && (c.vecOk false f.s3 || sregOk f.s3)
      uses := [(f.s1, false), (f.s2, false), (f.s3, false)]
      eff := fun c s =>
        let r : Lanes (DWord × BitVec 5) := Lanes.ofFn fun i =>
          if lane c.en i then
            let sc := (c.src false f.s3).get i
            let a := quantOne dst (Round.ofCode f.modLow) (f.modBit 2) ((c.src false f.s1).get i) sc
            let b := quantOne dst (Round.ofCode f.modLow) (f.modBit 2) ((c.src false f.s2).get i) sc
            (a.1 ||| (b.1 <<< 8), a.2 ||| b.2)
          else (0, 0)
        c.finish h [.vec f.dst.toNat false c.en (r.map (·.1))] (flagsOf c.en fun i => (r.get i).2) s } s

/-! ## Planes (R92, R93) -/

/-- The format whose planes a type code names: E4M3, E5M2, FP16 and BF16 by their fields, I8 and I4 by their bits. -/
def planeBits (t : BitVec 4) : List Nat :=
  match typeFmt t with
  | some f => (f.ebits + f.fbits) :: (List.range f.ebits).map (· + f.fbits) ++ List.range f.fbits
  | none => List.range (typeBits t)

/-- Plane k of 128 elements: bit j is the element's bit that the format assigns to the plane. -/
def planeOf (bit : Nat) (es : List Nat) : Nat :=
  ((es.zipIdx).filter fun p => (p.1 >>> bit) % 2 == 1).foldl (fun a p => a + 2 ^ p.2) 0

/-- The planes of 128 elements. -/
def toPlanes (t : BitVec 4) (es : List Nat) : List Nat := (planeBits t).map fun b => planeOf b es

/-- Element j gathered from planes. -/
def fromPlanes (t : BitVec 4) (ps : List Nat) (j : Nat) : Nat :=
  ((planeBits t).zip ps).foldl (fun a bp => a + (bp.2 / 2 ^ j % 2) * 2 ^ bp.1) 0

end Sys2Proof.Machine
end

