-- ==== Sys2Proof/Machine/Caches.lean ====
section
/-! DEFINITION. The physical map (R15, R22, R101, R102), the caches (R172 to R177), views (R413 to R416), mapped segments as accesses
see them (R179, R180), preservation on a write (R446), and the release and acquire actions (R173, R175, R176, R204). -/

namespace Sys2Proof.Machine

/-! ## Places -/

/-- Bits lo up, n of them, of a number. -/
def natBits (x lo n : Nat) : Nat := x / 2 ^ lo % 2 ^ n

/-- The physical ID of a logical ID under a placement table (R22); where the table names no such package the ID stands. -/
def physicalId (t : List PlEntry) (a : Word) : Word :=
  match t[natBits a.toNat 15 7]? with
  | none => a
  | some e =>
    let r := natBits a.toNat 14 1
    let i := r * 4 + natBits a.toNat 12 2
    let l := natBits a.toNat 11 1
    BitVec.ofNat 32
      (natBits a.toNat 0 10 +
        2 ^ 10 * (natBits a.toNat 10 1 ^^^ natBits e.clmap.toNat (2 * i + l) 1) +
        2 ^ 11 * (l ^^^ natBits e.laymap.toNat i 1) +
        2 ^ 12 * natBits e.chipmap.toNat (2 * i) 2 +
        2 ^ 14 * natBits e.retmap.toNat r 1 +
        2 ^ 15 * natBits e.phys.toNat 0 7)

/-- The physical ID of a logical ID of a context. -/
def State.physId (s : State) (pasid : Nat) (a : Word) : Word :=
  physicalId ((s.ctx? pasid).map (·.place) |>.getD []) a

/-- The core of a location ID within its package: reticle, chiplet, layer, core (R15). -/
def coreOf (a : Word) : Nat := natBits a.toNat 8 7
/-- The chiplet: reticle × 4 + chiplet (R101). -/
def chipOf (a : Word) : Nat := natBits a.toNat 12 3
/-- The chiplet of a core. -/
def chipOfCore (core : Nat) : Nat := core / 16
/-- The cluster: reticle × 16 + chiplet × 4 + layer × 2 + core[2] (R15). -/
def clusterOf (a : Word) : Nat := natBits a.toNat 10 5
/-- The cluster of a core. -/
def clusterOfCore (core : Nat) : Nat := core / 4

/-- The unit of a batten core (R372): the cores end at 127 and the engines and other units at 160. -/
def battenUnit (n : Nat) : Nat := 176 + n % 16

/-- The physical core of a group, or the unit of its batten core. -/
def State.coreOfGroup (s : State) (g : Group) : Nat :=
  if g.front then battenUnit g.locid.toNat else coreOf (s.physId (s.pasidOf g) g.locid)

/-- The physical partition of a group: eight slots of its core (R15). -/
def State.partitionOf (s : State) (g : Group) : Nat := 32 * s.coreOfGroup g + g.locid.toNat % 256 / 8

/-- The tiers of R101. -/
inductive Tier where
  | dram | pool | host | flash | none
  deriving DecidableEq, Repr

/-- The tier of a physical address; host addresses need a decoder that claims them (R101). -/
def State.tierOf (s : State) (pa : Nat) : Tier :=
  if pa < 2 ^ 39 then .dram
  else if pa < 2 ^ 48 then .none
  else if pa < 2 * 2 ^ 48 then .pool
  else if pa < 3 * 2 ^ 48 then
    (if s.hdm.any fun d => decide (d.1 ≤ pa % 2 ^ 48) && decide (pa % 2 ^ 48 < d.1 + d.2) then .host else .none)
  else if pa < 3 * 2 ^ 48 + 32 * 10 ^ 12 then .flash
  else .none

/-- The home chiplet of an address (R102). -/
def homeOf (pa : Nat) : Nat := if pa < 2 ^ 39 then natBits pa 36 3 else natBits pa 12 3 ^^^ natBits pa 18 3

/-- The line and the page of an address. -/
def lineOf (pa : Nat) : Nat := pa / 128 * 128
def pageOf (pa : Nat) : Nat := pa / 4096 * 4096

/-! ## Cache bytes -/

/-- The tag of a byte's line: the root's lines are one for every context; other view tags are a context's own (R172, R177). -/
def CByte.line (c : CByte) : Nat × Nat × Nat := (if c.view = 0 then 0 else c.pasid, c.view, lineOf c.pa)

/-- It is a byte of the line that an address and a view name in a unit. -/
def CByte.inLine (c : CByte) (unit pasid view pa : Nat) : Bool :=
  c.unit == unit && c.view == view && (view == 0 || c.pasid == pasid) && lineOf c.pa == lineOf pa

/-- The byte that a cache holds valid. -/
def CByte.at (c : CByte) (unit pasid view pa : Nat) : Bool := c.pa == pa && c.inLine unit pasid view pa

/-- A byte that an acquire of a context invalidates: clean, in one of the context's lines or in a root line, which it may share (R173, R175). -/
def CByte.stale (c : CByte) (unit pasid : Nat) : Bool := !c.dirty && c.unit == unit && (c.view == 0 || c.pasid == pasid)

/-- A valid byte of a cache. -/
def cacheGet (cs : List CByte) (unit pasid view pa : Nat) : Option Byte := (cs.find? (·.at unit pasid view pa)).map (·.val)

/-- Writes one byte of a cache. -/
def cachePut (cs : List CByte) (unit pasid view pa : Nat) (v : Byte) (dirty : Bool) : List CByte :=
  ⟨unit, pasid, view, pa, v, dirty⟩ :: cs.filter fun c => !c.at unit pasid view pa

/-- Writes bytes of a cache as dirty ones. -/
def cacheWrite (cs : List CByte) (unit pasid view pa : Nat) (bs : List Byte) : List CByte :=
  (bs.zipIdx).foldl (fun cs p => cachePut cs unit pasid view (pa + p.2) p.1 true) cs

/-- Merges a line as read under the dirty bytes that the cache holds of it (R172). -/
def cacheFill (cs : List CByte) (unit pasid view base : Nat) (bytes : List Byte) : List CByte :=
  let dirty := cs.filter fun c => c.dirty && c.inLine unit pasid view base
  ((bytes.zipIdx).filterMap fun p =>
      if dirty.any (·.pa == base + p.2) then none else some ⟨unit, pasid, view, base + p.2, p.1, false⟩) ++
    cs.filter fun c => c.dirty || !c.inLine unit pasid view base

/-- All of `n` bytes from `pa`, where the cache holds each. -/
def cacheAll (cs : List CByte) (unit pasid view pa n : Nat) : Option (List Byte) :=
  (List.range n).mapM fun i => cacheGet cs unit pasid view (pa + i)

/-- The line that leaves a set of a cache for the one of an address that comes in, a free choice (log 6): none where that line is there
already or the set has a way free. -/
def State.victim (s : State) (cs : List CByte) (place pasid view pa : Nat) : Option (Nat × Nat × Nat) :=
  let ls := (cs.map CByte.line).eraseDups
  if ls.length < Config.ways || ls.contains (CByte.line ⟨0, pasid, view, pa, 0, false⟩) then none
  else match ls with
    | [] => none
    | x :: xs => some (s.freePick (10 ^ 14 * (1 + place) + pa / 128) x xs)

/-! ## Vault bytes -/

/-- Marks a segment of an allocation preserved for both colours (R446). -/
def Alloc.touch (a : Alloc) (off : Nat) : Alloc :=
  { a with unpres0 := a.unpres0.filter (· != off / 4096), unpres1 := a.unpres1.filter (· != off / 4096) }

/-- Writes bytes of an allocation, after preserving their segments. -/
def Alloc.write (a : Alloc) (off : Nat) (bs : List Byte) : Alloc :=
  { (a.touch off).touch (off + bs.length - 1) with bytes := Memory.write a.bytes off bs }

/-- Changes a block's allocation. -/
def State.onVault (s : State) (block : Nat) (f : Alloc → Alloc) : State := s.onBlock block fun b => { b with vault := f b.vault }

/-- The granule of an offset. -/
def granOf (off : Nat) : Nat := off / 16
/-- The poison bit of a granule of a block's allocation. -/
def State.vaultPoisoned (s : State) (block gran : Nat) : Bool :=
  match s.block? block with | some b => b.vault.poison.contains gran | none => false
/-- Sets it. -/
def State.poisonVault (s : State) (block gran : Nat) (on : Bool) : State :=
  s.onVault block fun a => { a with poison := if on then insertNat gran a.poison else a.poison.filter (· != gran) }

/-- A logical package of a context is this one. -/
def State.isOwn (s : State) (pasid target : Nat) : Bool :=
  match ((s.ctx? pasid).map (·.place)).getD [] |>.drop target with
  | e :: _ => natBits e.phys.toNat 0 7 == s.slot
  | [] => false

/-- The logical package that this one is in a context. -/
def State.ownPackage (s : State) (pasid : Nat) : Nat :=
  (((s.ctx? pasid).map (·.place)).getD []).findIdx fun (e : PlEntry) => natBits e.phys.toNat 0 7 == s.slot

/-- The pool node of an address, and the port of this package that leads to it (R308, R310). -/
def nodeOf (pa : Nat) : Nat := natBits pa 43 5

/-! ## Home copies -/

/-- The segment that maps a page of memory (R180, R181). -/
def State.segAt (s : State) (pa : Nat) : Option Segment := s.segs.find? fun g => g.pa == pageOf pa

/-- The page of an address is in transit: accesses to it are held (R180). -/
def State.inTransit (s : State) (pa : Nat) : Bool := match s.segAt pa with | some g => g.transit | none => false

/-- The vault holds what the page holds: an owned or shared segment, and one whose bytes are on their way to memory (R180, R182). -/
def Segment.inVault (g : Segment) : Bool := !g.transit || g.leaving

/-- The page of an address is preserved for both colours before it is written (R446). -/
def State.preserve (s : State) (pa : Nat) : State :=
  if s.unpresPages = [] then s else { s with unpresPages := s.unpresPages.filter fun p => p.2.2 != pageOf pa }

/-- A line of a cache is preserved for both colours before it is written, or written back (R446). -/
def State.preserveLine (s : State) (unit pa : Nat) : State :=
  if s.unpresLines = [] then s else { s with unpresLines := s.unpresLines.filter fun p => p.2.2 != (unit, lineOf pa) }

/-- What a write under a view diverges from is preserved first: the page of an address, or the segment that maps it (R179, R434). -/
def State.preserveRoot (s : State) (pa : Nat) : State :=
  match s.segAt pa with
  | some g => (s.preserve pa).onVault g.block fun a => a.touch (g.lpage + pa % 4096)
  | none => s.preserve pa

/-! ## Staging: R445, R446 -/

/-- The segments of an allocation unpreserved for a colour. -/
def Alloc.unpres (a : Alloc) (num : Nat) : List Nat := if num = 0 then a.unpres0 else a.unpres1
/-- Changes them. -/
def Alloc.onUnpres (a : Alloc) (num : Nat) (f : List Nat → List Nat) : Alloc :=
  if num = 0 then { a with unpres0 := f a.unpres0 } else { a with unpres1 := f a.unpres1 }
/-- The rows of a group unpreserved for a colour. -/
def Group.unpresRows (g : Group) (num : Nat) : BitVec 149 := vget g.unpres num 0
/-- Changes them. -/
def Group.onUnpres (g : Group) (num : Nat) (f : BitVec 149 → BitVec 149) : Group := { g with unpres := g.unpres.setIfInBounds num (f (g.unpresRows num)) }

/-- Every granule unpreserved for a colour. -/
def State.unpreserved (s : State) (c : Colour) : List SnapRef :=
  (s.unpresPages.filter fun p => p.1 == c.pasid && p.2.1 == c.num).map (fun p => SnapRef.page p.2.2) ++
  (s.unpresLines.filter fun p => p.1 == c.pasid && p.2.1 == c.num).map (fun p => SnapRef.line p.2.2.1 0 p.2.2.2) ++
  (s.blocks.filter fun b => b.pasid == c.pasid).flatMap (fun b => (b.vault.unpres c.num).map fun i => SnapRef.segment b.key i) ++
  (s.groups.filter fun g => s.pasidOf g == c.pasid).flatMap (fun g =>
    ((List.range 149).filter fun i => (g.unpresRows c.num).getLsbD i).map fun i => SnapRef.row g.block g.gidx i) ++ c.unpres

/-- Bytes that the copy of a granule takes in a staging buffer (R451). -/
def SnapRef.size : SnapRef → Nat
  | .page _ => 4096
  | .segment _ _ => 4160
  | .row _ _ _ => 256
  | .line _ _ _ => 144
  | .matrix _ u => if u < 4096 then 528 else 51216
  | .other => 0

/-- The chiplet that stages a granule; none for what a pool node stages. -/
def State.stager (s : State) : SnapRef → Option Nat
  | .page pa => if pa < 2 ^ 39 then some (pa / 2 ^ 36) else none
  | .line u _ _ => some (if u < 256 then chipOfCore u else u % 256)
  | .segment b _ => (s.block? b).map fun b => chipOfCore b.vault.core
  | .row b k _ => (s.group? b k).map fun g => chipOfCore (s.coreOfGroup g)
  | .matrix cl _ => some (cl / 4)
  | .other => none

/-- Bytes that a chiplet has staged and the streamers have still to write: what is recorded, but for what is unpreserved; one copy that both colours record
counts once (R446). -/
def State.stagedOn (s : State) (chip : Nat) : Nat :=
  ((s.colours.filter fun c => c.st != .free).flatMap fun c =>
    let left := s.unpreserved c
    (c.recs.filter fun r => r.out.isNone && s.stager r.ref == some chip && !left.contains r.ref).map fun r => (r.ref, r.bytes)).eraseDups.map (fun r => r.1.size) |>.sum

/-- A block holds granules that are unpreserved for a colour: its segments, its groups' rows, the matrix units of its cluster. -/
def State.holdsGranules (s : State) (key : Nat) : Bool :=
  s.colours.any (fun c => c.st != .free) &&
    (s.blocks.any (fun b => b.key == key && !(b.vault.unpres0 ++ b.vault.unpres1).isEmpty) ||
      s.groups.any (fun g => g.block == key && g.unpres.toList.any (· != 0)) ||
      s.mxAllocs.any fun a => a.block == key && s.colours.any fun c => c.unpres.any fun r => match r with | .matrix cl _ => cl == a.cluster | _ => false)

/-- A chiplet's staging buffer has no room for a granule: a write to one that is unpreserved waits (R446). -/
def State.stageFull (s : State) (chip need : Nat) : Bool := decide (Config.stagingBytes < s.stagedOn chip + need)

/-- A write to a segment of an allocation waits for staging space. -/
def State.segmentWaits (s : State) (block off : Nat) : Bool :=
  match s.block? block with
  | some b => (b.vault.unpres0.contains (off / 4096) || b.vault.unpres1.contains (off / 4096)) && s.stageFull (chipOfCore b.vault.core) 4160
  | none => false

/-- A write to memory waits for staging space. -/
def State.pageWaits (s : State) (pa : Nat) : Bool :=
  (s.unpresPages.any (fun p => p.2.2 == pageOf pa) && decide (pa < 2 ^ 39) && s.stageFull (pa / 2 ^ 36) 4096) ||
    s.unpresLines.any (fun p => p.2.2.2 == lineOf pa && ((s.stager (.line p.2.2.1 0 pa)).map fun k => s.stageFull k 144).getD false) ||
    match s.segAt pa with
    | some g => s.segmentWaits g.block (g.lpage + pa % 4096)
    | none => false

/-- Dirty bytes of a cache wait for staging space before they are written back (R446): they hold up a release, and no line of them is displaced. -/
def State.backWaits (s : State) (p : CByte → Bool) : Bool :=
  s.colours.any (fun c => c.st != .free) && (s.l1 ++ s.l2).any fun c => c.dirty && p c && s.pageWaits c.pa

/-- No line that waits so is displaced: an access that would have to is held (R446). -/
def State.roomWaits (s : State) (core pasid : Nat) (attr : BitVec 2) (view pa : Nat) : Bool :=
  s.colours.any (fun c => c.st != .free) && attr == 0 && decide (pa < 2 ^ 39) &&
    !(s.l1.any fun c => c.inLine core pasid view pa) &&
    decide (Config.ways ≤ (((s.l1.filter fun c => c.unit == core && natBits c.pa 7 8 == natBits pa 7 8).map CByte.line).eraseDups).length) &&
    s.backWaits fun c => c.unit == core && natBits c.pa 7 8 == natBits pa 7 8

/-- A group whose rows are still unpreserved waits for staging space before it writes them (R446, R378). -/
def State.rowsWait (s : State) (g : Group) : Bool :=
  g.unpres.toList.any (· != 0) && s.stageFull (chipOfCore (s.coreOfGroup g)) 256

/-- Matrix units of a cluster that are unpreserved hold up a grant while staging space lacks. -/
def State.unitsWait (s : State) (cluster : Nat) : Bool :=
  s.colours.any (fun c => c.unpres.any fun r => match r with | .matrix cl _ => cl == cluster | _ => false) && s.stageFull (cluster / 4) 51216

/-- Bytes of DRAM: of the vault that holds the page, or of memory. -/
def State.dramRead (s : State) (pa n : Nat) : List Byte :=
  match s.segAt pa with
  | some g =>
    match (if g.inVault then s.block? g.block else none : Option Block) with
    | some b => b.vault.bytes.read (g.lpage + pa % 4096) n
    | none => s.mem.read pa n
  | none => s.mem.read pa n

/-- Bytes written there; a shared segment's go to memory too (R180). What the device writes to a page in transit goes to the copy that will be
the page's, which nobody reads until the transit ends (R179). -/
def State.dramWrite (s : State) (pa : Nat) (bs : List Byte) : State :=
  let mem (s : State) : State := { (s.preserve pa) with mem := s.mem.write pa bs }
  match s.segAt pa with
  | some g =>
    let s' := if g.inVault then s.onVault g.block fun a => a.write (g.lpage + pa % 4096) bs else s
    if g.shared || !g.inVault then mem s' else s'
  | none => mem s

/-- A granule of memory is poisoned: in the mapping vault, or in memory (R109). -/
def State.poisonedAt (s : State) (pa : Nat) : Bool :=
  match s.segAt pa with
  | some g => if g.inVault then s.vaultPoisoned g.block (granOf (g.lpage + pa % 4096)) else s.poison.contains (pa / 16)
  | none => s.poison.contains (pa / 16)
/-- Sets or clears its poison. -/
def State.setPoison (s : State) (pa : Nat) (on : Bool) : State :=
  let mem (s : State) : State := { s with poison := if on then insertNat (pa / 16) s.poison else s.poison.filter (· != pa / 16) }
  match s.segAt pa with
  | some g =>
    let s' := if g.inVault then s.poisonVault g.block (granOf (g.lpage + pa % 4096)) on else s
    if g.shared || !g.inVault then mem s' else s'
  | none => mem s

/-! ## Poison under stores not yet written back: R463 -/

/-- The L2 of a chiplet among the places of `State.mended`. -/
def l2Place (chip : Nat) : Nat := 512 + chip

/-- What a write-back of a cache at a place selects: with a byte of a granule that whole stores have filled, all of the granule. -/
def State.wholeGranules (s : State) (cs : List CByte) (place : CByte → Nat) (p : CByte → Bool) (c : CByte) : Bool :=
  p c || (s.mended != [] && c.view == 0 && c.dirty && s.mended.contains (place c, granOf c.pa) &&
    cs.any fun d => d.dirty && p d && d.view == 0 && d.unit == c.unit && granOf d.pa == granOf c.pa)

/-- A cache at a place holds stores that have filled a poisoned granule. -/
def State.mends (s : State) (place pa : Nat) : Bool := s.mended.contains (place, granOf pa)
/-- Notes it. -/
def State.noteMended (s : State) (place pa : Nat) : State :=
  if s.mends place pa then s else { s with mended := (place, granOf pa) :: s.mended }

/-- Dirty bytes of remote copies that `p` selects go home (R175), and what whole stores have filled is poisoned no more (R463). -/
def State.sinkL2 (s : State) (p : CByte → Bool) : State :=
  let place (c : CByte) : Nat := l2Place c.unit
  let ds := s.l2.filter fun c => c.dirty && s.wholeGranules s.l2 place p c
  let s := ds.foldl (fun s c => s.preserveLine (256 + c.unit) c.pa) s
  let t := ds.foldl (fun s c => s.dramWrite c.pa [c.val]) s
  let out := s.mended.filter fun m => ds.any fun c => (place c, granOf c.pa) == m
  out.foldl (fun s m => s.setPoison (16 * m.2) false) { t with mended := t.mended.filter fun m => !out.contains m }

/-- The set of an L2: the slice, and 128 sets of it (R174, log 6). -/
def l2Set (pa : Nat) : Nat × Nat := (natBits pa 7 9 ^^^ natBits pa 16 9, natBits pa 16 7)

/-- Numbers and data as flits of 64 bytes (log 62). -/
def flits (xs : List Nat) (bytes : List Byte) : List Byte :=
  let body := (xs.length :: bytes.length :: xs).flatMap (natBytes 8) ++ bytes
  body ++ List.replicate ((64 - body.length % 64) % 64) 0
/-- A packet as a log chunk of a channel of a colour: `pkg` names the receiver (R442, R451). -/
def Colour.logAs (c : Colour) (kind pkg port : Nat) (bytes : List Byte) : Colour :=
  let n := (c.recs.filter fun x => x.kind == kind && x.pkg == pkg && x.id / 2 ^ 56 == port).length
  { c with recs := c.recs ++ [⟨kind, pkg, .other, 2 ^ 56 * port + n, 0, bytes, none⟩] }
def Colour.log (c : Colour) (pkg port : Nat) (bytes : List Byte) : Colour := c.logAs 6 pkg port bytes

/-- A receiver's log of a port is full for a colour (R444): what it holds has still to be written. -/
def Colour.logFull (c : Colour) (pkg port : Nat) : Bool :=
  c.st != .free && decide (Config.logBytes ≤ ((c.recs.filter fun r => r.kind == 6 && r.out.isNone && r.pkg == pkg && r.id / 2 ^ 56 == port).map (·.bytes.length)).sum)
/-- A pool node's log of this package's port, or of another's, is full: the node's stop bit is set there (R444). -/
def State.nodeFull (s : State) (node port : Nat) : Bool := s.colours.any (·.logFull (128 + node) port)
def State.nodeStops (s : State) (node : Nat) : Bool := s.nodeFull node s.slot

/-- Packets, each with its port, that a receiver has taken and not handled yet: part of its state at the cut, recorded before its log (R442). -/
def Colour.logAll (c : Colour) (pkg : Nat) (ps : List (Nat × List Byte)) : Colour := ps.foldl (fun c p => c.log pkg p.1 p.2) c

/-- A pool node takes its cut: it records the pages of the context that it holds, of those that were listed to it at the claim (R441, R444), and the adds of
other packages that wait in windows of arrival (R321, R442). -/
def State.nodeCut (s : State) (c : Colour) (node : Nat) : State :=
  let waiting := (s.combine.filter fun w => nodeOf w.pa == node).flatMap fun w => (w.reqs.filter fun r => r.port != s.slot && r.block == c.pasid).map fun r =>
    (r.port, flits [5, r.port, r.flight, w.pa, 0, if w.wide then 1 else 0, r.total.toNat, 0] [])
  let mine := c.pool.filter fun pa => nodeOf pa == node
  let lost (pa : Nat) : Bool := s.poison.any fun g => decide (pa / 16 ≤ g) && decide (g < pa / 16 + 256)
  let rec_ (pa : Nat) : SnapRec := ⟨1, 128 + node, .page pa, 2 ^ 62 + pa % 2 ^ 52, 0, if lost pa then [] else s.mem.read pa 4096, none⟩
  { s with
    unpresPages := s.unpresPages ++ mine.map fun pa => (c.pasid, c.num, pa)
    colours := s.colours.map fun x =>
      if x.pasid == c.pasid && x.num == c.num then
        Colour.logAll { x with nodes := x.nodes.filter (· != node), recs := x.recs ++ mine.map rec_ } (128 + node) waiting
      else x }

/-- A packet for a pool node arrives there, from this package or, by its port, from another one. What this package sends after its cut comes behind its
marker, with which the node takes its own (R441); what comes between the node's cut and the channel's marker is logged (R442). -/
def State.nodeTakes (s : State) (pasid pa port : Nat) (own : Bool) (xs : List Nat) (bytes : List Byte) : State :=
  let node := nodeOf pa
  if s.tierOf pa != .pool || s.colours.all fun c => c.st == .free then s
  else
    let s := if own then (s.colours.filter fun c => c.st != .free && c.cut && c.nodes.contains node).foldl (fun (s : State) c => s.nodeCut c node) s else s
    let open_ (c : Colour) : Bool := c.st != .free && c.pasid == pasid && !c.nodes.contains node &&
      if own then !c.cut else !c.markers.contains (64 + 128 * node + port)
    { s with colours := s.colours.map fun c => if open_ c then c.log (128 + node) port (flits xs bytes) else c }

/-- A pool address lies on a node that cannot be reached (R312). -/
def State.lostNode (s : State) (pa : Nat) : Bool := s.tierOf pa == .pool && s.ports.contains (natBits pa 43 5)

/-- Dirty home bytes that `p` selects return to the pool node or the host (R176). Those of an unreachable node stay, poisoned, and firmware contains
every context that wrote them (R312). -/
def State.returnHomes (s : State) (p : CByte → Bool) : State :=
  let ds := s.homes.filter fun c => c.dirty && p c
  let lost := ds.filter fun c => s.lostNode c.pa
  let back := ds.filter fun c => !s.lostNode c.pa
  let s := ((back.map fun c => (c.pasid, lineOf c.pa)).eraseDups).foldl (fun (s : State) x =>
    let cs := back.filter fun c => c.pasid == x.1 && lineOf c.pa == x.2
    ((s.nodeTakes x.1 x.2 s.slot true (3 :: cs.map (·.pa)) (cs.map (·.val))).preserve x.2).preserveLine (512 + homeOf x.2) x.2) s
  { s with
    mem := back.foldl (fun m c => m.set c.pa c.val) s.mem
    homes := s.homes.map fun c => if c.dirty && p c && !s.lostNode c.pa then { c with dirty := false } else c
    poison := lost.foldl (fun l c => insertNat (c.pa / 16) l) s.poison
    toContain := lost.foldl (fun l c => insertNat c.pasid l) s.toContain }

/-- A line leaves a chiplet's L2: a remote copy's dirty bytes go home and a home copy's to the node or the host (R174, R176); what cannot be
returned stays (R312). -/
def State.evictL2 (s : State) (chip pa : Nat) : State :=
  let line (c : CByte) : Bool := c.unit == chip && lineOf c.pa == lineOf pa
  let s := (s.sinkL2 line).returnHomes line
  { s with l2 := s.l2.filter fun c => !line c, homes := s.homes.filter fun c => c.dirty || !line c }

/-- The line of an address finds room in a chiplet's L2 (R174). -/
def State.roomL2 (s : State) (chip pa : Nat) : State :=
  if s.l2.length + s.homes.length < Config.ways then s
  else match s.victim ((s.l2 ++ s.homes).filter fun c => c.unit == chip && l2Set c.pa == l2Set pa) (chip + 512) 0 0 pa with
    | some (_, _, x) => s.evictL2 chip x
    | none => s

/-- Bytes at home: memory, or for pool and host addresses the home copy, filled where it is missing (R174, R176); flash
lines are never held (R174). -/
def State.homeRead (s : State) (pasid pa n : Nat) : List Byte × State :=
  if s.tierOf pa == .flash then (s.mem.read pa n, s)
  else
    match cacheAll s.homes (homeOf pa) 0 0 pa n with
    | some bs => (bs, s)
    | none =>
      let s := s.roomL2 (homeOf pa) pa
      let homes := cacheFill s.homes (homeOf pa) pasid 0 (lineOf pa) (s.mem.read (lineOf pa) 128)
      let s := { s with homes := homes }
      ((List.range n).map fun i => (cacheGet homes (homeOf pa) 0 0 (pa + i)).getD 0, s)

/-- Bytes of pool or host memory written at home. -/
def State.homeWrite (s : State) (pasid pa : Nat) (bs : List Byte) : State :=
  let s := (s.roomL2 (homeOf pa) pa).preserveLine (512 + homeOf pa) pa
  { s with homes := cacheWrite s.homes (homeOf pa) pasid 0 pa bs }

/-- Bytes of the root view at the point of package-scope coherence: the mapping vault of a segment, or home (R180, R182). -/
def State.rootRead (s : State) (pasid pa n : Nat) : List Byte × State :=
  if pa < 2 ^ 39 then (s.dramRead pa n, s) else s.homeRead pasid pa n

/-- Bytes written there. -/
def State.rootWrite (s : State) (pasid pa : Nat) (bs : List Byte) : State :=
  if pa < 2 ^ 39 then s.dramWrite pa bs else s.homeWrite pasid pa bs

/-! ## Views -/

/-- The chain of a view up to the root, the root left out (R413); a context has at most four levels of worlds (R410). -/
def State.chainFrom (s : State) (pasid : Nat) : Nat → Nat → List Nat
  | 0, _ => []
  | n + 1, v =>
    if v = 0 then []
    else v :: (match s.views.find? fun w => w.pasid == pasid && w.num == v with
      | some w => s.chainFrom pasid n w.parent
      | none => [])
/-- The chain of a view. -/
def State.chain (s : State) (pasid v : Nat) : List Nat := s.chainFrom pasid 5 v

/-- The line of a view. -/
def State.viewLine (s : State) (pasid view pa : Nat) : Option ViewLine :=
  s.vlines.find? fun l => l.pasid == pasid && l.view == view && l.pa == lineOf pa

/-- The byte that the nearest view of a chain holds in its mask (R413). -/
def State.viewByte (s : State) (pasid : Nat) (chain : List Nat) (pa : Nat) : Option Byte :=
  chain.findSome? fun v => match s.viewLine pasid v pa with
    | some l => if l.mask.getLsbD (pa % 128) then l.data[pa % 128]? else none
    | none => none

/-- Bytes that a chain of views holds laid over root bytes. -/
def State.overView (s : State) (pasid view pa : Nat) (root : List Byte) : List Byte :=
  if view = 0 then root
  else
    let ch := s.chain pasid view
    (root.zipIdx).map fun p => (s.viewByte pasid ch (pa + p.2)).getD p.1

/-- The page that an address had when a view of the context took a line of it, where its translation has changed since (R413). -/
def State.oldPage (s : State) (pasid va pa : Nat) : Option Nat :=
  (s.vlines.find? fun l => l.pasid == pasid && l.va / 4096 == va / 4096 && l.pa / 4096 != pa / 4096 && decide (l.pa < 2 ^ 52)).map
    fun l => l.pa / 4096 * 4096

/-- Bytes read at an address under a view. Where software has changed the page's translation under live lines, each is free between what the old
page gives and what the new one does (R12, R413). -/
def State.moved (s : State) (pasid view va pa : Nat) (bs : List Byte) : List Byte :=
  match s.oldPage pasid va pa with
  | none => bs
  | some page =>
    let was := s.overView pasid view (page + pa % 4096) (s.rootRead pasid (page + pa % 4096) bs.length).1
    (bs.zip was).zipIdx.map fun (x, k) => s.freePick (110000 + 16 * (va % 4096) + k) x.1 [x.2]

/-- Slots of the context's view pool (R414). -/
def State.poolSlots (s : State) (pasid : Nat) : Nat := ((s.ctx? pasid).map fun c => c.vpsize.toNat * 16).getD 0

/-- A write under a view needs a slot and none is free (R416). -/
def State.viewFull (s : State) (pasid view pa : Nat) : Bool :=
  view != 0 && (s.viewLine pasid view pa).isNone &&
    decide (s.poolSlots pasid ≤ (s.vlines.filter fun l => l.pasid == pasid).length)

/-- The lowest free slot of the context's view pool (log 51). -/
def State.freeSlot (s : State) (pasid : Nat) : Nat :=
  let used := (s.vlines.filter fun l => l.pasid == pasid).map (·.slot)
  ((List.range (used.length + 1)).find? fun k => !used.contains k).getD 0

/-- Takes a slot for the line under the view where it has none, filled with what a read under the view returns (R179 step 3). -/
def State.diverge (s : State) (pasid view va pa : Nat) : State :=
  if view = 0 ∨ (s.viewLine pasid view pa).isSome then s
  else
    let (root, s) := s.rootRead pasid (lineOf pa) 128
    { s with vlines := s.vlines ++ [⟨pasid, view, lineOf pa, va / 128 * 128, 0, s.overView pasid view (lineOf pa) root, 0, s.freeSlot pasid⟩] }

/-- Bytes written into a view's line, once the page or segment is preserved (R179 step 2, R434). -/
def State.viewWrite (s : State) (pasid view pa : Nat) (bs : List Byte) : State :=
  let s := s.preserveRoot pa
  { s with vlines := s.vlines.map fun l =>
      if l.pasid == pasid && l.view == view && l.pa == lineOf pa then
        { l with
          mask := (List.range bs.length).foldl (fun m i => m ||| (1#128 <<< (pa % 128 + i))) l.mask
          data := (l.data.zipIdx).map fun p => if pa % 128 ≤ p.2 then (bs[p.2 - pa % 128]?).getD p.1 else p.1 }
      else l }

/-- A byte is poisoned in the nearest view of a chain that holds it; none where no view does. -/
def State.viewBad (s : State) (pasid : Nat) (chain : List Nat) (pa : Nat) : Option Bool :=
  chain.findSome? fun v => match s.viewLine pasid v pa with
    | some l => if l.mask.getLsbD (pa % 128) then some (l.bad.getLsbD (pa % 128 / 16)) else none
    | none => none

/-- Sets or clears the poison of a granule of a view's line. -/
def State.markView (s : State) (pasid view pa : Nat) (on : Bool) : State :=
  let bit : BitVec 8 := 1#8 <<< (pa % 128 / 16)
  { s with vlines := s.vlines.map fun (l : ViewLine) =>
      if l.pasid == pasid && l.view == view && l.pa == lineOf pa then
        { l with bad := if on then l.bad ||| bit else l.bad &&& ~~~bit }
      else l }

/-! ## The L2 of a chiplet -/

/-- The chiplet holds a remote copy of the line: DRAM with another home, and no segment maps it (R174, R182). -/
def State.remote (s : State) (chip pa : Nat) : Bool := pa < 2 ^ 39 && homeOf pa != chip && (s.segAt pa).isNone

/-- Bytes of the root view read through a chiplet's L2 (R174). -/
def State.l2Root (s : State) (chip pasid pa n : Nat) : List Byte × State :=
  if s.remote chip pa then
    match cacheAll s.l2 chip pasid 0 pa n with
    | some bs => (bs, s)
    | none =>
      let s := s.roomL2 chip pa
      let l2 := cacheFill s.l2 chip pasid 0 (lineOf pa) (s.mem.read (lineOf pa) 128)
      ((List.range n).map fun i => (cacheGet l2 chip pasid 0 (pa + i)).getD 0, { s with l2 := l2 })
  else s.rootRead pasid pa n

/-- Bytes read under a view through a chiplet's L2 (R177, R413). -/
def State.l2Read (s : State) (chip pasid view pa n : Nat) : List Byte × State :=
  let (root, s) := s.l2Root chip pasid pa n
  (s.overView pasid view pa root, s)

/-- Dirty bytes of other contexts in a range go home from a chiplet's remote copies before a context writes there. -/
def State.cleanOthers (s : State) (chip pasid pa n : Nat) : State :=
  s.sinkL2 fun c => c.unit == chip && c.pasid != pasid && decide (pa ≤ c.pa) && decide (c.pa < pa + n)

/-- Bytes written under a view at a chiplet's L2: into the view's line, into a remote copy as dirty bytes, or at home. -/
def State.l2Write (s : State) (chip pasid view pa : Nat) (bs : List Byte) : State :=
  if view != 0 then s.viewWrite pasid view pa bs
  else if s.remote chip pa then
    let s := ((s.cleanOthers chip pasid pa bs.length).roomL2 chip pa).preserveLine (256 + chip) pa
    { s with l2 := cacheWrite s.l2 chip pasid 0 pa bs }
  else s.rootWrite pasid pa bs

/-- A granule of the root view, poisoned in memory, has been filled at a chiplet's L2: its poison goes at home, with the write-back of a remote copy
(R109, R463). -/
def State.mendL2 (s : State) (chip pa : Nat) : State :=
  if !s.poisonedAt pa then s
  else if s.remote chip pa then s.noteMended (l2Place chip) pa
  else s.setPoison pa false

/-! ## The L1 of a core -/

/-- The L1 of the core holds the line: of DRAM under ATTR 0; pool and host lines are held at home (R176, R303); of a mapped page only a line of a
view of the chain (R172, R182). -/
def State.inL1 (s : State) (pasid : Nat) (attr : BitVec 2) (view pa : Nat) : Bool :=
  attr == 0 && decide (pa < 2 ^ 39) &&
    ((s.segAt pa).isNone || (view != 0 && (s.chain pasid view).any fun v => (s.viewLine pasid v pa).isSome))

/-- Dirty bytes that `p` selects go from L1s to the L2s of their chiplets (R173). -/
def State.sinkL1 (s : State) (p : CByte → Bool) : State :=
  let q := s.wholeGranules s.l1 (·.unit) p
  let ds := s.l1.filter fun c => c.dirty && q c
  let s := ds.foldl (fun s c => if c.view = 0 then s.preserveLine c.unit c.pa else s) s
  let t := ds.foldl (fun s c => s.l2Write (chipOfCore c.unit) c.pasid c.view c.pa [c.val]) s
  let out := s.mended.filter fun m => ds.any fun c => c.view == 0 && (c.unit, granOf c.pa) == m
  let t : State := { t with l1 := t.l1.map fun c => if q c then { c with dirty := false } else c, mended := t.mended.filter fun m => !out.contains m }
  out.foldl (fun s m => s.mendL2 (chipOfCore m.1) (16 * m.2)) t

/-- A line leaves a core's L1; its dirty bytes go to the L2 (R172). -/
def State.evictL1 (s : State) (core pasid view pa : Nat) : State :=
  let s := s.sinkL1 fun c => c.inLine core pasid view pa
  { s with l1 := s.l1.filter fun c => !c.inLine core pasid view pa }

/-- The line of an address under a view finds room in a core's L1: 256 sets of 16 ways (R172, log 6). -/
def State.roomL1 (s : State) (core pasid view pa : Nat) : State :=
  if s.l1.length < Config.ways then s
  else match s.victim (s.l1.filter fun c => c.unit == core && natBits c.pa 7 8 == natBits pa 7 8) core pasid view pa with
    | some (p, v, x) => s.evictL1 core p v x
    | none => s

/-- Bytes read by a core (R172, R189). -/
def State.coreRead (s : State) (core pasid view : Nat) (attr : BitVec 2) (pa n : Nat) : List Byte × State :=
  let chip := chipOfCore core
  if s.inL1 pasid attr view pa then
    match cacheAll s.l1 core pasid view pa n with
    | some bs => (bs, s)
    | none =>
      let (line, s) := s.l2Read chip pasid view (lineOf pa) 128
      let s := s.roomL1 core pasid view pa
      let l1 := cacheFill s.l1 core pasid view (lineOf pa) line
      ((List.range n).map fun i => (cacheGet l1 core pasid view (pa + i)).getD 0, { s with l1 := l1 })
  else s.l2Read chip pasid view pa n

/-- Bytes written by a core: in its L1, or at the chiplet's L2 (R172, R179 step 4, R189). What another context has written there and not released
goes down first. -/
def State.coreWrite (s : State) (core pasid view : Nat) (attr : BitVec 2) (pa : Nat) (bs : List Byte) : State :=
  if s.inL1 pasid attr view pa then
    let s := s.sinkL1 fun c => c.unit == core && view == 0 && c.view == 0 && c.pasid != pasid && decide (pa ≤ c.pa) &&
      decide (c.pa < pa + bs.length)
    let s := s.roomL1 core pasid view pa
    let s := if view = 0 then s.preserveLine core pa else s.preserveRoot pa
    { s with l1 := cacheWrite s.l1 core pasid view pa bs }
  else s.l2Write (chipOfCore core) pasid view pa bs

/-- A store of a core has filled a poisoned granule: its poison goes where the bytes lie, in the view's line, at home, or with the write-back (R109,
R463). -/
def State.mend (s : State) (core pasid view : Nat) (attr : BitVec 2) (pa : Nat) : State :=
  if view ≠ 0 then s.markView pasid view pa false
  else if s.poisonedAt pa && s.inL1 pasid attr 0 pa then s.noteMended core pa
  else s.mendL2 (chipOfCore core) pa

/-- The chiplet of a unit: of a core, or of the engines of a cluster. -/
def chipOfUnit (unit : Nat) : Nat := if unit < 128 then unit / 16 else (unit - 128) / 4

/-- A read of `n` bytes by a unit under a view meets poison: a byte that no view of its chain holds lies in a poisoned granule, which no cache on the way has
filled since. -/
def State.readsPoison (s : State) (unit pasid view pa n : Nat) : Bool :=
  (s.poison != [] || s.segs != [] || view != 0) &&
    (List.range n).any fun k => (s.viewBad pasid (s.chain pasid view) (pa + k)).getD
      (s.poisonedAt (pa + k) && !(view == 0 && s.mends unit (pa + k)) && !(decide (unit < 160) && s.mends (l2Place (chipOfUnit unit)) (pa + k)))

/-- Sets or clears the poison of a granule as a party in a view writes it. -/
def State.poisonIn (s : State) (pasid view pa : Nat) (on : Bool) : State :=
  if view = 0 then s.setPoison pa on else s.markView pasid view pa on

/-- An engine's write has filled a granule (R109, R463). -/
def State.mendIn (s : State) (unit pasid view pa : Nat) : State :=
  if view ≠ 0 then s.markView pasid view pa false else if unit < 160 then s.mendL2 (chipOfUnit unit) pa else s.setPoison pa false

/-! ## Releases and acquires -/

/-- Writes the dirty bytes of a core's L1 for a context, of the lines that `p` selects, to its chiplet's L2 (R173). -/
def State.cleanL1 (s : State) (core pasid : Nat) (p : Nat → Bool) : State :=
  s.sinkL1 fun c => c.unit == core && c.pasid == pasid && p c.pa

/-- Writes the dirty bytes of a chiplet's remote copies for a context to their home copies (R175). -/
def State.cleanL2 (s : State) (chip pasid : Nat) (p : Nat → Bool) : State :=
  let s := s.sinkL2 fun c => c.unit == chip && c.pasid == pasid && p c.pa
  { s with l2 := s.l2.map fun c => if c.unit == chip && c.pasid == pasid && p c.pa then { c with dirty := false } else c }

/-- Returns every dirty byte of pool and host lines to the pool node or host (R176, R312). -/
def State.cleanHomes (s : State) : State := s.returnHomes fun _ => true

/-- Shared segments of a context are written to memory (R180). -/
def State.flushShared (s : State) (pasid : Nat) : State :=
  (s.segs.filter fun g => g.pasid == pasid && g.shared && !g.transit).foldl (fun s g =>
    match s.block? g.block with
    | some b => { (s.preserve g.pa) with mem := s.mem.write g.pa (b.vault.bytes.read g.lpage 4096) }
    | none => s) s

/-- Every line. -/
def everyLine : Nat → Bool := fun _ => true

/-- The scope at which a release or acquire acts under a view: .pod acts as .package inside a world (R413). -/
def worldScope (view scope : Nat) : Nat := if view ≠ 0 then min scope 5 else scope

/-- The release action of a core at a scope (R173, R175, R176). -/
def State.release (s : State) (core pasid view scope : Nat) : State :=
  let scope := worldScope view scope
  let s := if scope ≥ 2 then (s.cleanL1 core pasid everyLine).flushShared pasid else s
  let s := if scope ≥ 4 then s.cleanL2 (chipOfCore core) pasid everyLine else s
  if scope ≥ 6 then s.cleanHomes else s

/-- The acquire action of a core at a scope: bytes that are valid and not dirty go (R173, R175, R176). -/
def State.acquire (s : State) (core pasid view scope : Nat) : State :=
  let scope := worldScope view scope
  { s with
    l1 := if scope ≥ 2 then s.l1.filter fun c => !c.stale core pasid else s.l1
    l2 := if scope ≥ 4 then s.l2.filter fun c => !c.stale (chipOfCore core) pasid else s.l2
    homes := if scope ≥ 6 then s.homes.filter (·.dirty) else s.homes }

/-- A release write at a scope is carried to where its scope is coherent: the bytes of a range (R294). -/
def State.carry (s : State) (core pasid view scope pa n : Nat) : State :=
  let scope := worldScope view scope
  let hit (x : Nat) : Bool := decide (pa ≤ x) && decide (x < pa + n)
  let s := if scope ≥ 2 then s.cleanL1 core pasid hit else s
  let s := if scope ≥ 4 then s.cleanL2 (chipOfCore core) pasid hit else s
  if scope ≥ 6 then s.returnHomes fun c => hit c.pa else s

/-- An acquire read at a scope does not read a copy older than what its scope holds: clean bytes of the range go first (R294). -/
def State.fetchNew (s : State) (core pasid view scope pa n : Nat) : State :=
  let scope := worldScope view scope
  let old (unit : Nat) (c : CByte) : Bool := c.stale unit pasid && decide (pa ≤ c.pa) && decide (c.pa < pa + n)
  { s with
    l1 := if scope ≥ 2 then s.l1.filter fun c => !old core c else s.l1
    l2 := if scope ≥ 4 then s.l2.filter fun c => !old (chipOfCore core) c else s.l2
    homes := if scope ≥ 6 then s.homes.filter fun c => !old (homeOf pa) c else s.homes }

/-- The cores of the instance of a scope that holds a core (R26). -/
def coresOf (scope core : Nat) : List Nat :=
  match scope with
  | 0 => [core]
  | 1 => [core]
  | 2 => (List.range 8).map (core / 8 * 8 + ·)
  | 3 => (List.range 16).map (core / 16 * 16 + ·)
  | 4 => (List.range 64).map (core / 64 * 64 + ·)
  | _ => List.range 128

/-- The chiplets of that instance. -/
def chipsOf (scope core : Nat) : List Nat :=
  match scope with
  | 4 => (List.range 4).map (core / 64 * 4 + ·)
  | 5 => List.range 8
  | 6 => List.range 8
  | _ => [core / 16]

/-- The probe of an acquire with .promote, over the lines that `p` selects (R204). -/
def State.probe (s : State) (core pasid scope : Nat) (p : Nat → Bool) : State :=
  if scope < 2 then s
  else
    let s := (coresOf scope core).foldl (fun s c => s.cleanL1 c pasid p) s
    if scope < 4 then s else (chipsOf scope core).foldl (fun s k => s.cleanL2 k pasid p) s

/-- What the device, not a lane, writes at a virtual place it has translated: released at once (completion records, status words). -/
def State.deviceWrite (s : State) (pasid pa : Nat) (bs : List Byte) : State :=
  let s := s.rootWrite pasid pa bs
  if pa ≥ 2 ^ 39 then s.returnHomes fun c => decide (pa ≤ c.pa) && decide (c.pa < pa + bs.length) else s

/-- The lines of an L1's set, of an L2's, and of an instruction cache, that compete with an address for room (R172, R174, R183, log 6). -/
def State.linesAt (s : State) (c : CacheKind) (unit a : Nat) : Nat :=
  match c with
  | .l1 _ => (((s.l1.filter fun c => c.unit == unit && natBits c.pa 7 8 == natBits a 7 8).map CByte.line).eraseDups).length
  | .l2 => ((((s.l2 ++ s.homes).filter fun c => c.unit == unit && l2Set c.pa == l2Set a).map CByte.line).eraseDups).length
  | .code => (((s.icache.filter (·.core == unit)).map fun b => (b.pasid, lineOf b.va)).eraseDups).length
  | .tlb _ => 0

/-- A line or an entry leaves a cache (R120, R172, R174, R176, R183). -/
def State.evict (s : State) (c : CacheKind) (unit pasid a : Nat) : State :=
  match c with
  | .l1 view => s.evictL1 unit pasid view a
  | .l2 => s.evictL2 unit a
  | .tlb k => { s with tlb := s.tlb.filter fun e => !(e.kind == k && e.unit == unit && e.pasid == pasid && decide (e.va ≤ a) && decide (a < e.va + e.size)) }
  | .code => { s with icache := s.icache.filter fun b => !(b.core == unit && b.pasid == pasid && lineOf b.va == lineOf a) }

end Sys2Proof.Machine
end

