-- ==== Sys2Proof/Machine/Translate.lean ====
section
/-! DEFINITION. Translation (R111 to R121, R123): the walks of the two forms with the checks of R114 in order, the bits A and D, the
64 KiB rule of R119, the translation caches of R120 with the drops of R135, and host translations. -/

namespace Sys2Proof.Machine

/-- What an access asks of a translation: a write, a fetch, and whether it comes from a lane (R114). -/
structure Way where
  write : Bool
  fetch : Bool
  lane  : Bool
  deriving DecidableEq, Repr

/-- A lane's read, a lane's write, a fetch, an engine's read and an engine's write. -/
def Way.load : Way := ⟨false, false, true⟩
def Way.store : Way := ⟨true, false, true⟩
def Way.code : Way := ⟨false, true, false⟩
def Way.engineRead : Way := ⟨false, false, false⟩
def Way.engineWrite : Way := ⟨true, false, false⟩

/-- The answer to a translation: an address with the attributes and size of its leaf, a fault with its level (R130), or a wait
for the host (R123). -/
inductive Xlated where
  | ok (pa : Nat) (attr : BitVec 2) (leaf : Nat) (size : Nat)
  | fault (reason level : Nat) (firmware : Bool)
  | host (e : TlbEntry)
  deriving DecidableEq, Repr

/-- A level of a walk: its number for faults, the index bits, and whether it may hold pointers and leaves. -/
structure Level where
  num   : Nat
  shift : Nat
  bits  : Nat
  node  : Bool
  leaf  : Bool
  deriving DecidableEq, Repr

/-- The five-level form (R115). -/
def fiveLevels : List Level :=
  [⟨5, 48, 9, true, false⟩, ⟨4, 39, 9, true, false⟩, ⟨3, 30, 9, true, true⟩, ⟨2, 21, 9, true, true⟩, ⟨1, 12, 9, false, true⟩]
/-- The flattened form (R116). -/
def flatLevels : List Level := [⟨5, 39, 18, true, false⟩, ⟨3, 21, 18, true, true⟩, ⟨1, 12, 9, false, true⟩]

/-- The walk cache that holds a level's pointers (R120). -/
def Level.cache (l : Level) : TlbKind := if l.num = 5 then .walk5 else if l.num = 4 then .walk4 else .walk3

/-- The units: cores 0 to 127, copy engines 128 to 159 by cluster; `deviceUnit` stands for units that keep no translations. -/
def engineUnit (cluster : Nat) : Nat := 128 + cluster
def deviceUnit : Nat := 160

/-! ## Page-table entries -/

/-- ADDR of an entry (R113). -/
def pteAddr (e : DWord) : Nat := (e &&& 0x000FFFFFFFFFF000).toNat
/-- Bit k of an entry. -/
def pteBit (e : DWord) (k : Nat) : Bool := e.getLsbD k

/-- The first table of R114: the reason with which an entry fails at a level. -/
def pteFault (l : Level) (e : DWord) : Option Nat :=
  let leaf := pteBit e 3
  if !pteBit e 0 then some 0x01
  else if e.extractLsb' 52 4 != 0 then some 0x04
  else if (leaf && !l.leaf) || (!leaf && !l.node) || (pteBit e 6 && l.num != 1) || pteBit e 9 ||
      (leaf && pteAddr e % 2 ^ l.shift != 0) || (pteBit e 7 && !leaf) then some 0x05
  else none

/-- The second table of R114: the reason with which a leaf fails an access to a physical address. -/
def State.leafFault (s : State) (e : TlbEntry) (pa : Nat) (w : Way) : Option Nat :=
  if w.write && !e.w then some 0x02
  else if w.fetch && !e.x then some 0x03
  else match s.tierOf pa with
    | .flash => if w.lane || w.fetch || w.write then some 0x08 else none
    | .none => some 0x07
    | _ => none

/-- A page-table entry read at its home slice (R117); that of an unpopulated address fails with 0x07 before it is looked at (R101). -/
def State.readPte (s : State) (pasid pa : Nat) : DWord × State :=
  let (bs, s) := s.rootRead pasid pa 8
  (BitVec.ofNat 64 (leNat bs), s)

/-- Sets A, and D for a write, at the home slice (R118); nothing is written where they are set already. -/
def State.setPteBits (s : State) (pasid pa : Nat) (dirty : Bool) : State :=
  let (e, s) := s.readPte pasid pa
  let e' := e ||| (if dirty then 0x30 else 0x10)
  if e = e' then s else s.rootWrite pasid pa (natBytes 8 e'.toNat)

/-! ## The translation caches -/

/-- An entry covers an address. -/
def TlbEntry.covers (e : TlbEntry) (kind : TlbKind) (unit pasid va : Nat) : Bool :=
  e.kind == kind && e.unit == unit && e.pasid == pasid && decide (e.va ≤ va) && decide (va < e.va + e.size)

/-- Sets and ways of a translation cache (R120, R149); fully associative ones have one set. -/
def TlbKind.shape : TlbKind → Nat × Nat
  | .l1 => (1, 256)
  | .l2 => (1024, 8)
  | .walk5 => (1, 64)
  | .walk4 => (64, 4)
  | .walk3 => (128, 8)
  | .engine => (1, 4096)

/-- Two entries compete for the ways of one set; the set of an entry follows its page number (log 6). -/
def TlbEntry.rival (e f : TlbEntry) : Bool :=
  let n := e.kind.shape.1
  f.kind == e.kind && f.unit == e.unit && f.va / f.size % n == e.va / e.size % n

/-- A line or an entry of an address may leave its cache: only where the others of its set leave no room for one more (R120, R172, R174, R183,
log 6), and a dirty one where its write-back need not wait (R446). -/
def State.displaced (s : State) (c : CacheKind) (unit a : Nat) : Bool :=
  match c with
  | .tlb k => s.tlb.any fun e => e.covers k unit e.pasid a && decide (k.shape.2 ≤ (s.tlb.filter e.rival).length)
  | .code => decide (Config.codeLines ≤ s.linesAt .code unit a)
  | c => decide (Config.ways ≤ s.linesAt c unit a) && !s.backWaits fun x => x.unit == unit && lineOf x.pa == lineOf a

/-- Puts an entry into a cache in place of the one of its range, or where its set is full of one that it displaces, a free choice (R120, log 6). -/
def State.tlbPut (s : State) (e : TlbEntry) : State :=
  let rest := s.tlb.filter fun f => !(f.kind == e.kind && f.unit == e.unit && f.pasid == e.pasid && f.va == e.va && f.size == e.size)
  let rivals := if rest.length < e.kind.shape.2 then [] else rest.filter e.rival
  let out := if rivals.length < e.kind.shape.2 then none
    else rivals.head?.map fun x => s.freePick (10 ^ 14 * (1024 + e.unit) + e.va / 4096) x (rivals.drop 1)
  { s with tlb := e :: match out with | some x => rest.filter (· != x) | none => rest }

/-- A leaf translation goes into the caches of its unit: both TLBs of a core, or an engine's. -/
def State.tlbFill (s : State) (e : TlbEntry) : State :=
  if e.unit < 128 then (s.tlbPut { e with kind := .l2 }).tlbPut { e with kind := .l1 }
  else if e.unit < deviceUnit then s.tlbPut { e with kind := .engine }
  else s

/-- The cached leaf translation of an address, the first-level one first. -/
def State.tlbHit (s : State) (unit pasid va : Nat) : Option TlbEntry :=
  match s.tlb.find? (·.covers .l1 unit pasid va) with
  | some e => some e
  | none =>
    match s.tlb.find? (·.covers .l2 unit pasid va) with
    | some e => some e
    | none => s.tlb.find? (·.covers .engine unit pasid va)

/-- A cached translation serves an access: it passes the checks, and D is set before a write (R113). -/
def State.serves (s : State) (e : TlbEntry) (va : Nat) (w : Way) : Bool :=
  (!w.write || e.d) && (s.leafFault e (e.pa + (va - e.va)) w).isNone

/-- The access hits the first-level TLB of its core (R126). -/
def State.l1TlbServes (s : State) (unit pasid va : Nat) (w : Way) : Bool :=
  match s.tlb.find? (·.covers .l1 unit pasid va) with
  | some e => s.serves e va w
  | none => false

/-! ## Walks -/

/-- Where a walk starts: below the deepest cached pointer (R120), otherwise at the root. -/
def State.walkStart (s : State) (unit pasid va : Nat) : List Level → Option (List Level × Nat)
  | [] => none
  | l :: ls =>
    match s.walkStart unit pasid va ls with
    | some r => some r
    | none => (s.tlb.find? fun e => e.covers l.cache unit pasid va && e.size == 2 ^ l.shift).map fun e => (ls, e.pa)

/-- The sixteen entries of the line of a level-1 entry with C = 1, where they form one 64 KiB translation (R119). -/
def contiguous (first : DWord) (es : List DWord) : Bool :=
  (es.zipIdx).all fun p =>
    (pteFault ⟨1, 12, 9, false, true⟩ p.1).isNone && pteBit p.1 6 && p.1 &&& 0xB86 == first &&& 0xB86 &&
      pteAddr p.1 / 65536 == pteAddr first / 65536 &&
      natBits (pteAddr p.1) 12 4 == p.2

/-- The entries of the line of a level-1 entry. -/
def State.pteLine (s : State) (pasid pa : Nat) : Nat → List DWord × State
  | 0 => ([], s)
  | n + 1 =>
    let (es, s) := s.pteLine pasid pa n
    let (e, s) := s.readPte pasid (lineOf pa + 8 * n)
    (es ++ [e], s)

/-- What a walk found: a leaf with the places of its entries and its level, or a failure. -/
inductive Walked where
  | leaf (e : TlbEntry) (ptes : List Nat) (level : Nat)
  | fault (reason level : Nat)
  deriving DecidableEq, Repr

/-- A page-table entry lies in a poisoned granule. -/
def State.pteLost (s : State) (pasid pa : Nat) : Bool := s.readsPoison deviceUnit pasid 0 pa 8
/-- Firmware has to contain a context (R466). -/
def State.toBeContained (s : State) (pasid : Nat) : State := { s with toContain := insertNat pasid s.toContain }

/-- The walk from a node on through the levels that remain (R114 to R119). An entry whose value is lost contains the context (R461); what asks for it ends
with it, as R124 has it. -/
def State.walkFrom (s : State) (unit pasid va : Nat) : List Level → Nat → Walked × State
  | [], _ => (.fault 0x05 1, s)
  | l :: ls, node =>
    let pa := node + 8 * natBits va l.shift l.bits
    let (e, s) := s.readPte pasid pa
    match if s.tierOf pa == .none then some 0x07 else if s.pteLost pasid pa then some 0x0A else pteFault l e with
    | some r => (.fault r l.num, if r = 0x0A then s.toBeContained pasid else s)
    | none =>
      if pteBit e 3 && pteBit e 6 && (List.range 16).any (fun k => s.pteLost pasid (lineOf pa + 8 * k)) then (.fault 0x0A l.num, s.toBeContained pasid)
      else if pteBit e 3 then
        let (es, s) := if pteBit e 6 then s.pteLine pasid pa 16 else ([], s)
        let wide := pteBit e 6 && contiguous e es
        let lg := if wide then 16 else l.shift
        let ent : TlbEntry :=
          { kind := .l1, unit := unit, pasid := pasid, va := va / 2 ^ lg * 2 ^ lg, size := 2 ^ lg
            pa := pteAddr e / 2 ^ lg * 2 ^ lg, w := pteBit e 1, x := pteBit e 2, h := pteBit e 7
            attr := e.extractLsb' 8 2, f := pteBit e 11
            d := if wide then es.all (pteBit · 5) else pteBit e 5 }
        (.leaf ent (if wide then (List.range 16).map fun j => lineOf pa + 8 * j else [pa]) l.num, s)
      else
        let ent : TlbEntry :=
          { kind := l.cache, unit := unit, pasid := pasid, va := va / 2 ^ l.shift * 2 ^ l.shift, size := 2 ^ l.shift
            pa := pteAddr e, w := true, x := true, h := false, attr := 0, f := false, d := false }
        (if unit < deviceUnit then s.tlbPut ent else s).walkFrom unit pasid va ls (pteAddr e)

/-- A whole walk of a canonical address for an access: the leaf is checked, A and D are set in it, or in the sixteen of R119, and in no entry
above it (log 10), and the translation is cached. A page that the host has refused fails with reason 0x09 (R123), and one for which the host
has given an address that no decoder claims with 0x07 (R101). -/
def State.walk (s : State) (unit pasid va : Nat) (w : Way) : Xlated × State :=
  let root := ((s.ctx? pasid).map (·.ptroot)).getD 0
  let levels := if root.getLsbD 0 then flatLevels else fiveLevels
  let (ls, node) := (s.walkStart unit pasid va levels).getD (levels, pteAddr root)
  match s.walkFrom unit pasid va ls node with
  | (.fault r n, s) => (.fault r n false, s)
  | (.leaf e ptes n, s) =>
    if e.h then
      if w.write && !e.w then (.fault 0x02 n e.f, s)
      else if w.fetch && !e.x then (.fault 0x03 n e.f, s)
      else
        let mine (a : AtsReq) : Bool := a.refused && a.unit == unit && a.pasid == pasid && a.va == e.va
        let lost : Bool := match s.tlbHit unit pasid va with
          | some t => t.h && s.tierOf (t.pa + (va - t.va)) == .none
          | none => false
        if s.ats.any mine then (.fault 0x09 n e.f, { s with ats := s.ats.filter fun a => !mine a })
        else if lost then (.fault 0x07 n e.f, s)
        else (.host { e with d := w.write }, ptes.foldl (fun s p => s.setPteBits pasid p w.write) s)
    else
      let pa := e.pa + (va - e.va)
      match s.leafFault e pa w with
      | some r => (.fault r n e.f, s)
      | none =>
        let s := ptes.foldl (fun s p => s.setPteBits pasid p w.write) s
        (.ok pa e.attr e.pa e.size, s.tlbFill { e with d := e.d || w.write })

/-- The translation of an address for an access by a unit: a cached one that serves it, otherwise a walk (log 10). -/
def State.translate (s : State) (unit pasid : Nat) (addr : DWord) (w : Way) : Xlated × State :=
  if addr >>> 56 != 0 && addr >>> 56 != 0xFF then (.fault 0x06 0 false, s)
  else
    let va := addr.toNat % 2 ^ 57
    match s.tlbHit unit pasid va with
    | some e =>
      if s.serves e va w then (.ok (e.pa + (va - e.va)) e.attr e.pa e.size, s.tlbFill e)
      else s.walk unit pasid va w
    | none => s.walk unit pasid va w

/-! ## Dropping translations -/

/-- Drops the leaf translations that overlap a range, and every pointer of the context, in the units that `p` selects (R135); a request to the
host that comes from such a translation is asked again from the table as it then stands, but a Page Request stays until its response (R123). -/
def State.tlbDrop (s : State) (p : Nat → Bool) (pasid lo len : Nat) : State :=
  let meets (va size : Nat) : Bool := len != 0 && decide (va < lo + len) && decide (lo < va + size)
  { s with
    tlb := s.tlb.filter fun e => !(e.pasid == pasid && p e.unit && (e.kind == .walk5 || e.kind == .walk4 || e.kind == .walk3 || meets e.va e.size))
    ats := s.ats.filter fun a => a.pri || !(a.pasid == pasid && p a.unit && meets a.va a.size) }

/-! ## Host translations: R123 -/

/-- Records the request that a leaf with H = 1 asks for, where none is outstanding. -/
def State.askHost (s : State) (e : TlbEntry) : State :=
  if s.ats.any fun a => a.unit == e.unit && a.pasid == e.pasid && a.va == e.va then s
  else
    let (k, s) := s.fresh
    { s with ats := s.ats ++ [⟨k, e.unit, e.pasid, e.va, e.size, e.pa, e.w, e.x, e.attr, e.f, e.d, false, false⟩] }

end Sys2Proof.Machine
end

