-- ==== Sys2Proof/Machine/Vault.lean ====
section
/-! DEFINITION. Local addresses (R162, R170, R171), granule acts with their full-empty rules and queues (R167, R168), and the
fields of a memory instruction in flight that they change. -/

namespace Sys2Proof.Machine

/-! ## Flights by name -/

/-- An instruction in flight: the block, the group and the flight's key. -/
structure FRef where
  block  : Nat
  gidx   : Nat
  flight : Nat
  deriving DecidableEq, Repr

/-- The flight of a group. -/
def Group.flight? (g : Group) (k : Nat) : Option Flight := g.flights.find? (·.key == k)
/-- Changes one flight. -/
def Group.onFlight (g : Group) (k : Nat) (f : Flight → Flight) : Group :=
  { g with flights := g.flights.map fun x => if x.key == k then f x else x }
/-- Changes one flight of a group of the package. -/
def State.onFlight (s : State) (r : FRef) (f : Flight → Flight) : State := s.onGroup r.block r.gidx (·.onFlight r.flight f)
/-- Changes one lane of an access in flight. -/
def State.onLane (s : State) (r : FRef) (i : Nat) (f : LaneAcc → LaneAcc) : State :=
  s.onFlight r fun x => match x.op with
    | .access a => { x with op := .access { a with lanes := a.lanes.map fun l => if l.lane == i then f l else l } }
    | _ => x
/-- A block is here and on its cores. -/
def State.isResident (s : State) (block : Nat) : Bool := ((s.block? block).map (·.resident)).getD false

/-- The access of a flight, with its group and the flight, while its block is on its cores. -/
def State.access? (s : State) (r : FRef) : Option (Group × Flight × Access) :=
  match (if s.isResident r.block then s.group? r.block r.gidx else Option.none : Option Group) with
  | none => none
  | some g =>
    match g.flight? r.flight with
    | none => none
    | some f => match f.op with
      | .access a => some (g, f, a)
      | _ => none

/-! ## Local addresses -/

/-- The shared local window of a block (R170). -/
def State.window (s : State) (block : Nat) : List ShSlot :=
  match (s.block? block).bind fun b => b.share.bind fun sh =>
      s.sharing.find? fun g => g.pasid == b.pasid && g.key == sh.1 with
  | none => []
  | some g => g.slots

/-- The block and the offset that a local address names through a window, for `n` bytes; otherwise the cause that an access raises (R162,
R171). -/
def State.localVia (s : State) (slots : List ShSlot) (block : Nat) (addr : DWord) (n : Nat) : Except Nat (Nat × Nat) :=
  let a := addr.toNat
  let fits (k off : Nat) : Except Nat (Nat × Nat) :=
    match s.block? k with
    | some b => if off + n ≤ b.vault.size then .ok (k, off) else .error Cause.localBounds
    | none => .error Cause.localBounds
  if a < 0x01000000 then fits block a
  else if 0x10000000 ≤ a ∧ a < 0x20000000 then
    match (slots[(a - 0x10000000) / 0x01000000]?).getD .never with
    | .held k => fits k (a % 0x01000000)
    | .revoked => .error (if 0x01000000 < a % 0x01000000 + n then Cause.localBounds else Cause.localRevoked)
    | .never => .error Cause.localBounds
  else .error Cause.localBounds

/-- The same through the block's window as it stands. -/
def State.localAt (s : State) (block : Nat) (addr : DWord) (n : Nat) : Except Nat (Nat × Nat) :=
  s.localVia (s.window block) block addr n

/-- A local place lies in a segment that is in transit (R180). -/
def State.localTransit (s : State) (block off : Nat) : Bool :=
  s.segs.any fun g => g.block == block && g.lpage == off / 4096 * 4096 && g.transit

/-! ## Granules -/

/-- The full-empty bit of a granule of a block's allocation. -/
def State.isFull (s : State) (block gran : Nat) : Bool :=
  match s.block? block with | some b => b.vault.full.contains gran | none => false
/-- Sets it. -/
def State.setFull (s : State) (block gran : Nat) (full : Bool) : State :=
  s.onVault block fun a => { a.touch (16 * gran) with full := if full then insertNat gran a.full else a.full.filter (· != gran) }
/-- Bytes of a block's allocation. -/
def State.vaultRead (s : State) (block off n : Nat) : List Byte :=
  match s.block? block with | some b => b.vault.bytes.read off n | none => List.replicate n 0
/-- Bytes written to it. -/
def State.vaultWrite (s : State) (block off : Nat) (bs : List Byte) : State := s.onVault block fun a => a.write off bs
/-- Bytes written under a byte mask. -/
def State.vaultMask (s : State) (block off : Nat) (bs : List Byte) (mask : BitVec 16) : State :=
  (bs.zipIdx).foldl (fun s p => if mask.getLsbD p.2 then s.vaultWrite block (off + p.2) [p.1] else s) s

/-- A qualified access may be performed on a granule that is Full or Empty (R167). -/
def Qual.goes (q : Qual) (full : Bool) : Bool :=
  match q with
  | .fe => full
  | .fec => full
  | .fee => !full
  | _ => true
/-- The full-empty bit it leaves. -/
def Qual.leaves (q : Qual) (full : Bool) : Bool :=
  match q with
  | .fec => false
  | .fef => true
  | .fee => true
  | _ => full

/-- The bytes that a lane's access stores. -/
def LaneAcc.bytes (l : LaneAcc) (n : Nat) : List Byte := natBytes n l.data.toNat

/-- A lane stores to a granule: until the MXFENCE of its group the operand buffers may still hold what was there (R267). -/
def State.feed (s : State) (r : FRef) (home gran : Nat) : State :=
  let mine (u : Unfenced) : Bool := u.home == home && u.gran == gran && u.block == r.block && u.gidx == r.gidx
  let past := s.vaultRead home (16 * gran) 16 :: (s.unfenced.filter mine).flatMap (·.past)
  { s with unfenced := ⟨home, gran, r.block, r.gidx, r.flight, past⟩ :: s.unfenced.filter fun u => !mine u }

/-- An engine has written a granule whole: what lanes stored there is gone, and the operand buffer holds the new bytes. -/
def State.fed (s : State) (home gran : Nat) : State := { s with unfenced := s.unfenced.filter fun u => !(u.home == home && u.gran == gran) }

/-- Granules covered whole by pieces of bytes, each an address and a length. -/
def coveredGranules (ps : List (Nat × Nat)) : List Nat :=
  ((ps.map fun p : Nat × Nat => granOf p.1).eraseDups).filter fun g =>
    (List.range 16).all fun k => ps.any fun p : Nat × Nat => decide (p.1 ≤ 16 * g + k) && decide (16 * g + k < p.1 + p.2)

/-- With a lane of a store, the instruction's performed lanes cover its granule whole: its poison goes (R109). -/
def coversGranule (a : Access) (l : LaneAcc) : Bool :=
  let ps := (a.lanes.filter fun m => m.lane == l.lane || m.st == .done).map fun m => (m.addr.toNat, a.size)
  (coveredGranules ps).contains (granOf l.addr.toNat)

/-- A lane is performed at its bank: its data access and its bit change in one act; a load of a poisoned granule fails (R109, R167,
R194). -/
def State.bankLane (s : State) (r : FRef) (a : Access) (l : LaneAcc) (block off : Nat) : State :=
  let gran := granOf off
  let full := s.isFull block gran
  let s := if a.qual.leaves full = full then s else s.setFull block gran (a.qual.leaves full)
  match a.kind with
  | .store =>
    let s := (s.feed r block gran).vaultWrite block off (l.bytes a.size)
    (if coversGranule a l then s.poisonVault block gran false else s).onLane r l.lane fun l => { l with st := .done }
  | _ =>
    let bad := s.vaultPoisoned block gran
    s.onLane r l.lane fun l =>
      { l with st := if bad then .failed else .done, got := BitVec.ofNat 128 (leNat (s.vaultRead block off a.size)) }

/-- The first granule act that waits at a granule. -/
def State.waiterAt (s : State) (block gran : Nat) : Option Waiter :=
  match s.block? block with
  | none => none
  | some b => (b.vault.waiters.find? fun w => w.1 == gran).map (·.2)

/-- A waiter joins the queue of a granule (R168). -/
def State.enqueue (s : State) (block gran : Nat) (w : Waiter) : State :=
  s.onVault block fun a => { a with waiters := a.waiters ++ [(gran, w)] }
/-- A waiter leaves every queue of a block. -/
def State.dequeue (s : State) (block : Nat) (w : Waiter) : State :=
  s.onVault block fun a => { a with waiters := a.waiters.filter fun x => x.2 != w }

/-- The qualifier under which a waiter waits; the distributor waits for Empty (R362). -/
def Waiter.qual : Waiter → Qual
  | .lane _ _ _ _ q => q
  | .item _ q => q
  | .mailbox _ => .fee

/-- A copy item's granule act (R146). -/
def State.pendAct (s : State) (key : Nat) : State :=
  match s.items.find? (·.key == key) with
  | none => s
  | some it =>
    match it.pend with
    | none => s
    | some p =>
      let done (f : CopyItem → CopyItem) (s : State) : State :=
        { s with items := s.items.map fun i => if i.key == key then f { i with pend := none } else i }
      let g := granOf p.off
      if p.take then
        let bs := if s.vaultPoisoned p.block g then [] else s.vaultRead p.block (g * 16) 16
        (s.setFull p.block g false) |> done fun i => { i with taken := i.taken ++ [(p.block * 2 ^ 32 + g, bs)] }
      else
        let s := s.vaultMask p.block (g * 16) p.data p.mask
        let s := if p.last then s.setFull p.block g true else s
        (if p.bad then s.poisonVault p.block g true
         else if p.mask = BitVec.allOnes 16 then s.poisonVault p.block g false else s)
          |> (fun s => if p.mask = BitVec.allOnes 16 then s.fed p.block g else s) |> done fun i =>
          { i with
            moved := if p.last then i.moved ++ [p.gran] else i.moved
            wrote := if p.last then i.wrote.filter (·.1 != p.gran) else i.wrote ++ p.nums.map fun k => (p.gran, k)
            bytes := i.bytes + ((List.range 16).filter (p.mask.getLsbD ·)).length
            poison := i.poison || p.bad
            npoison := if p.bad then i.npoison + 1 else i.npoison }

/-- The act of the waiter at the head of a granule's queue. -/
def State.serveOne (s : State) (block : Nat) (w : Waiter) : State :=
  let s := s.dequeue block w
  match w with
  | .lane b g f i _ =>
    let r : FRef := ⟨b, g, f⟩
    match s.access? r with
    | none => s
    | some (_, _, a) =>
      match a.lanes.find? (·.lane == i) with
      | none => s
      | some l => s.bankLane r a l l.blk l.off
  | .item k _ => s.pendAct k
  | .mailbox k =>
    match s.mails.find? (·.key == k) with
    | none => s
    | some m =>
      { (s.vaultWrite m.block m.off m.bytes).setFull m.block (granOf m.off) true with
        mails := s.mails.filter (·.key != k) }

/-- Serves the queue of a granule from its head until a request must wait again (R168), or its write for staging space (R446). -/
def State.serve (block gran : Nat) : Nat → State → State
  | 0, s => s
  | n + 1, s =>
    match s.waiterAt block gran with
    | none => s
    | some w => if w.qual.goes (s.isFull block gran) && !s.segmentWaits block (16 * gran) then State.serve block gran n (s.serveOne block w) else s

/-- Requests waiting in a block's queues. -/
def State.waiting (s : State) (block : Nat) : Nat := match s.block? block with | some b => b.vault.waiters.length | none => 0

/-- After an act on a granule whose bit was `was`, its queue is served where the bit has changed. -/
def State.served (s : State) (block gran : Nat) (was : Bool) : State :=
  if s.isFull block gran = was then s else State.serve block gran (s.waiting block) s

/-- Queues whose heads have waited for staging space are served (R446). -/
def State.serveAll (s : State) : State :=
  s.blocks.foldl (fun (s : State) b => ((b.vault.waiters.map (·.1)).eraseDups).foldl (fun (s : State) g => State.serve b.key g (s.waiting b.key) s) s) s

/-- FESET or FECLR of one granule (R213). -/
def State.feBit (s : State) (block gran : Nat) (full : Bool) : State :=
  let was := s.isFull block gran
  if was = full then s else (s.setFull block gran full).served block gran was

end Sys2Proof.Machine
end

