-- ==== Sys2Proof/Machine/Access.lean ====
section
/-! DEFINITION. Memory instructions in flight: the order in which their lanes may be performed (R166, R190 to R192), loads, stores
and atomics at their units (R189, R199, R200), the operand log (R125 to R131), replay (R128) and completion. -/

namespace Sys2Proof.Machine

/-! ## Values -/

/-- The value that an atomic writes, none where it writes nothing (R198, R199). -/
def atomNew (op : Nat) (w64 : Bool) (old src expect : DWord) : Option DWord :=
  let cut (x : DWord) : DWord := if w64 then x else low32 x
  let sgn (x : DWord) : Int := if w64 then x.toInt else (x.setWidth 32).toInt
  let a := cut old
  let b := cut src
  let pairAdd (f : Fmt) : DWord :=
    let half (k : Nat) : DWord :=
      (fpAdd f Rnd.plain ((a >>> (16 * k)) &&& 0xFFFF) ((b >>> (16 * k)) &&& 0xFFFF)).1 &&& 0xFFFF
    half 0 ||| (half 1 <<< 16)
  match op with
  | 0 => some (cut (a + b))
  | 1 => some (if sgn b < sgn a then b else a)
  | 2 => some (if sgn a < sgn b then b else a)
  | 3 => some (if b < a then b else a)
  | 4 => some (if a < b then b else a)
  | 5 => some (a &&& b)
  | 6 => some (a ||| b)
  | 7 => some (a ^^^ b)
  | 8 => some b
  | 9 => if a = cut expect then some b else none
  | 10 => some (fpAdd (Fmt.lane w64) Rnd.plain a b).1
  | 11 => some (fpMinMax (Fmt.lane w64) Rnd.plain false a b).1
  | 12 => some (fpMinMax (Fmt.lane w64) Rnd.plain true a b).1
  | 13 => some (pairAdd Fmt.bf16)
  | 14 => some (pairAdd Fmt.fp16)
  | _ => none

/-! ## Order -/

/-- The entry of the operand log that a flight owns. -/
def State.logOf (s : State) (r : FRef) : Option LogEntry :=
  s.olog.find? fun e => e.block == r.block && e.gidx == r.gidx && e.flight == r.flight

/-- A lane that has yet to be performed, other than in a fatal log entry. -/
def LaneState.open (fatal : Bool) : LaneState → Bool
  | .todo => true
  | .queued => true
  | .logged _ _ _ => !fatal
  | _ => false

/-- The entry of a flight has become fatal: what it holds will not be performed. -/
def State.fatalLog (s : State) (g : Group) (k : Nat) : Bool :=
  match s.logOf ⟨g.block, g.gidx, k⟩ with | some e => e.state == .fatal | none => false

/-- An access of a group still has a lane to perform. -/
def State.accessOpen (s : State) (g : Group) (f : Flight) : Bool :=
  match f.op with
  | .access a =>
    a.lanes.any fun l => l.st.open (s.fatalLog g f.key)
  | _ => false

/-- The flights issued before one. -/
def Group.before (g : Group) (k : Nat) : List Flight := g.flights.takeWhile (·.key != k)

/-- The location of a lane: the block and the offset of a vault byte, or a physical address; none where its page does not translate (R180, R286). -/
def State.location (s : State) (g : Group) (a : Access) (l : LaneAcc) : Option (Option Nat × Nat) :=
  if a.loc then some (some l.blk, l.off)
  else match (s.translate (s.coreOfGroup g) (s.pasidOf g) l.addr (if a.kind == .load then .load else .store)).1 with
    | .ok pa _ _ _ => some (match s.segAt pa with | some x => (some x.block, x.lpage + pa % 4096) | none => (none, pa))
    | _ => none

/-- Two ranges of bytes have one in common. -/
def overlap (x n y m : Nat) : Bool := decide (x < y + m) && decide (y < x + n)

/-- Lanes of two accesses of a group meet: in the same granule of a vault (R166), or in a byte of one location, which two virtual addresses, or a
local and a global one, may name (R191, R286). A lane whose page does not translate may meet any that its place in the page allows. -/
def State.lanesMeet (s : State) (g : Group) (a : Access) (l : LaneAcc) (b : Access) (m : LaneAcc) : Bool :=
  let place (x : Access) (i : LaneAcc) : Nat := if x.loc then i.off else i.addr.toNat
  if a.loc && b.loc then l.blk == m.blk && granOf l.off == granOf m.off
  else if !a.loc && !b.loc && overlap l.addr.toNat a.size m.addr.toNat b.size then true
  else if (a.loc != b.loc && s.segs == []) || !overlap (place a l % 4096) a.size (place b m % 4096) b.size then false
  else match s.location g a l, s.location g b m with
    | some (v, x), some (w, y) => v == w && overlap x a.size y b.size
    | _, _ => true

/-- Lanes of one access name one granule, of a vault or of memory, by whatever addresses (R144, R190). -/
def State.oneGranule (s : State) (g : Group) (a : Access) (l m : LaneAcc) : Bool :=
  if a.loc then l.blk == m.blk && granOf l.off == granOf m.off
  else granOf l.addr.toNat == granOf m.addr.toNat ||
    (granOf (l.addr.toNat % 4096) == granOf (m.addr.toNat % 4096) &&
      match s.location g a l, s.location g a m with
        | some (v, x), some (w, y) => v == w && granOf x == granOf y
        | _, _ => false)

/-- What of the group's earlier instructions is yet to be performed where a lane is, with the state it is in: accesses, and full-empty
changes (R166, R191). -/
def State.earlier (s : State) (g : Group) (f : Flight) (a : Access) (l : LaneAcc) : List (AccKind × LaneState) :=
  (g.before f.key).flatMap fun e => match e.op with
    | .access b => (b.lanes.filter fun m => m.st.open (s.fatalLog g e.key) && s.lanesMeet g a l b m).map fun m => (b.kind, m.st)
    | .febits _ k first n _ => if a.loc && l.blk == k && decide (first ≤ granOf l.off) && decide (granOf l.off < first + n) then [(.store, .todo)] else []
    | _ => []

/-- The lower lanes of its own instruction that are yet to be performed where a lane is (R190, R193, R199); of those in the log only one that names the
place by another address. -/
def State.lower (s : State) (g : Group) (f : Flight) (a : Access) (l : LaneAcc) : List (AccKind × LaneState) :=
  (a.lanes.filter fun m => decide (m.lane < l.lane) && m.st.open (s.fatalLog g f.key) && s.lanesMeet g a l a m &&
    (match m.st with | .logged _ _ _ => m.addr != l.addr | _ => true)).map fun m => (a.kind, m.st)

/-- A lane ahead holds one back; a qualified one joins the queue behind one that waits there (R168), and a later load passes a logged one
(R129). -/
def Access.heldBy (a : Access) (p : AccKind × LaneState) : Bool :=
  match p.2 with
  | .queued => a.qual == .plain
  | .logged _ _ _ => !(a.kind == .load && p.1 == .load)
  | _ => true

/-- A lane may not be performed yet: program order on one location (R166, R191), and the ascending lanes of one instruction (R190, R193, R199). Lanes of
a store in one granule wait together (R144, R190). One whose page does not translate is not held: it is logged. -/
def State.laneHeld (s : State) (g : Group) (f : Flight) (a : Access) (l : LaneAcc) : Bool :=
  let mates := if a.kind == .store then a.lanes.filter fun m => m.st == .todo && s.oneGranule g a l m else [l]
  (mates.any (fun m => (s.earlier g f a m).any a.heldBy) || (s.lower g f a l).any a.heldBy) && (s.location g a l).isSome

/-- A lane joins its granule's queue behind one of its group that waits there (R168, R193). -/
def State.laneQueues (s : State) (g : Group) (f : Flight) (a : Access) (l : LaneAcc) : Bool :=
  a.qual != .plain && (s.earlier g f a l ++ s.lower g f a l).any fun p => p.2 == .queued

/-- Every earlier memory access of the group has been performed and has no operand-log entry pending (R192, R203). -/
def State.accessesClear (s : State) (g : Group) (fs : List Flight) : Bool := fs.all fun f => !s.accessOpen g f

/-- A PUT or a near-memory operation is among some flights: what a release at .pod waits for beside the accesses (R303). -/
def State.fabricOut (s : State) (fs : List Flight) : Bool :=
  fs.any fun f => match f.op with
    | .fabric k => s.fabric.any fun r => r.key == k && r.kind != .get
    | _ => false

/-! ## Nodes that cannot be reached -/

/-- An access needs a pool node that cannot be reached (R312): a write of the node's memory, or a read of bytes that the home slice does not
hold. -/
def State.unreachable (s : State) (pa n : Nat) (write : Bool) : Bool :=
  s.ports != [] && s.lostNode pa && (write || (cacheAll s.homes (homeOf pa) 0 0 pa n).isNone)

/-! ## Atomics at their units (R200) -/

/-- Bytes of a range go down from a core's L1, and from its chiplet's remote copies, and leave them: a group's accesses to one
location stay in program order where an atomic executes further down. -/
def State.sink (s : State) (core pasid view pa n : Nat) (deep : Bool) : State :=
  let hit (x : Nat) : Bool := decide (pa ≤ x) && decide (x < pa + n)
  let mine (c : CByte) : Bool := c.unit == core && (c.view == 0 || c.pasid == pasid) && hit c.pa
  let s := s.sinkL1 mine
  let s := { s with l1 := s.l1.filter fun c => !(mine c && c.view == view) }
  if deep then
    let s := s.sinkL2 fun c => c.unit == chipOfCore core && hit c.pa
    { s with l2 := s.l2.filter fun c => !(c.unit == chipOfCore core && hit c.pa) }
  else s

/-- An atomic at the core's L1 unit (R200). -/
def State.atL1 (s : State) (pasid view scope : Nat) (attr : BitVec 2) (pa : Nat) : Bool :=
  decide (scope ≤ 1) && s.inL1 pasid attr view pa

/-- Reads, computes and writes at the unit that R200 gives; the old value, which the view `seen` may hold (R425), and the state after. `packet` is what goes to
a pool node for it. -/
def State.atomicAt (s : State) (core pasid view seen scope : Nat) (attr : BitVec 2) (va pa n : Nat) (packet : List Nat) (f : DWord → Option DWord) :
    DWord × State :=
  let chip := chipOfCore core
  let act (rd : State → List Byte × State) (wr : List Byte → State → State) (s : State) : DWord × State :=
    let (bs, s) := rd s
    let old := BitVec.ofNat 64 (leNat (s.moved pasid seen va pa (if view = 0 then s.overView pasid seen pa bs else bs)))
    match f old with
    | some v => (old, wr (natBytes n v.toNat) s)
    | none => (old, s)
  if s.atL1 pasid view scope attr pa then
    act (fun s => s.coreRead core pasid view attr pa n) (fun bs s => s.coreWrite core pasid view attr pa bs) s
  else if view ≠ 0 then
    let home := decide (4 ≤ scope)
    let rd (s : State) : List Byte × State :=
      if home then
        let (root, s) := s.rootRead pasid pa n
        (s.overView pasid view pa root, s)
      else s.l2Read chip pasid view pa n
    act rd (fun bs s => s.viewWrite pasid view pa bs) (s.sink core pasid view pa n home)
  else if (s.segAt pa).isSome then
    act (fun s => s.rootRead pasid pa n) (fun bs s => s.rootWrite pasid pa bs) (s.sink core pasid 0 pa n true)
  else
    match s.tierOf pa with
    | .dram =>
      if scope ≤ 3 then
        act (fun s => s.l2Read chip pasid 0 pa n) (fun bs s => s.l2Write chip pasid 0 pa bs) (s.sink core pasid 0 pa n false)
      else
        act (fun s => s.rootRead pasid pa n) (fun bs s => s.rootWrite pasid pa bs) (s.sink core pasid 0 pa n true)
    | _ =>
      let s := s.sink core pasid 0 pa n true
      if scope ≤ 5 then act (fun s => s.rootRead pasid pa n) (fun bs s => s.rootWrite pasid pa bs) s
      else
        let hit (c : CByte) : Bool := decide (pa ≤ c.pa) && decide (c.pa < pa + n)
        let s := s.returnHomes hit
        let s := { s with homes := s.homes.filter fun c => !hit c }
        act (fun s => (s.mem.read pa n, s)) (fun bs s => { (s.preserve pa) with mem := s.mem.write pa bs }) (s.nodeTakes pasid pa s.slot true packet [])

/-- The first port in use from p on, in a circle (R311). -/
def State.portFrom (s : State) (p : Nat) : Option Nat := ((List.range 32).map fun k => (p + k) % 32).find? fun q => !s.ports.contains q

/-- The port of the chunk at a window offset (R310). -/
def State.route (s : State) (off : Nat) : Option Nat := s.portFrom (off / 4096 % 32)

/-- Reply slots that the requests outstanding on a port hold (R309): one for an acknowledgement, the result of an NMO or an atomic, and one for each 64
bytes that a GET's chunk asks for. -/
def State.slotsHeld (s : State) (port : Nat) : Nat :=
  let of (r : FabReq) : Nat :=
    match r.kind with
    | .nmo => if r.result.isSome && nodeOf r.pa == port then 1 else 0
    | k => if r.host then 0
      else ((r.left.filter fun o => s.route o == some port && !(r.data.any fun d => d.off == o)).map fun o =>
        if k = .put then 1 else (min (4096 - o % 4096) (r.off + r.n - o) + 63) / 64).sum
  (s.fabric.map of).sum + ((s.combine.filter fun c => nodeOf c.pa == port).map fun c => (c.reqs.filter fun a => a.port == s.slot).length).sum

/-- A request that needs some reply slots waits at its port: none is free, or the other side's stop bit is set (R309), as a
node sets its own while its log of the port is full (R444). -/
def State.portWaits (s : State) (port need : Nat) : Bool := s.stops.contains port || s.nodeStops port || decide (Config.replySlots < s.slotsHeld port + need)

/-- An access that goes to a pool node waits at its port (R309): an atomic at .pod, a write that goes there, or bytes that the home slice does not hold. -/
def State.portStopped (s : State) (pa n : Nat) (pod : Bool) : Bool :=
  s.tierOf pa == .pool && s.portWaits (nodeOf pa) 1 && (pod || (cacheAll s.homes (homeOf pa) 0 0 pa n).isNone)

/-- A dirty pool line whose write-back waits at its port: a release at .pod waits for it (R176, R309). -/
def State.homesStuck (s : State) : Bool :=
  s.homes.any fun c => c.dirty && s.tierOf c.pa == .pool && !s.lostNode c.pa && s.portWaits (nodeOf c.pa) 1
/-- Such a write-back, and one that waits for staging space (R446), hold back the release of an engine or of the device at a scope under a view. -/
def State.releaseStuck (s : State) (view scope : Nat) : Bool :=
  (worldScope view scope == 6 && s.homesStuck) || (decide (2 ≤ worldScope view scope) && s.backWaits fun _ => true)

/-- What a release at a scope under a view waits for among a group's flights (R192, R203, R303). -/
def State.releaseUnder (s : State) (g : Group) (fs : List Flight) (view scope : Nat) : Bool :=
  s.accessesClear g fs && (worldScope view scope != 6 || (!s.fabricOut fs && !s.homesStuck)) &&
    !(decide (2 ≤ worldScope view scope) && s.backWaits fun c => c.pasid == s.pasidOf g)

/-- The same, under the group's view. -/
def State.releaseReady (s : State) (g : Group) (fs : List Flight) (scope : Nat) : Bool := s.releaseUnder g fs (s.viewOf g) scope

/-- The tag of a request of this package: what carries it, and the address where one instruction makes a request for each of several (R311, R321). -/
def reqTag (key pa : Nat) : Nat := key * 2 ^ 50 + pa % 2 ^ 50

/-- A node keeps a result under its port and tag, the last 64 of each port (R311). -/
def State.keepResult (s : State) (x : NodeResult) : State :=
  let here (r : NodeResult) : Bool := r.node == x.node && r.port == x.port
  let mine := s.results.filter fun r => here r && r.tag != x.tag
  { s with results := (s.results.filter fun r => !here r) ++ mine.drop (mine.length - 63) ++ [x] }

/-- What a node has kept under a port and tag. -/
def State.kept? (s : State) (node port tag : Nat) : Option (List DWord × Nat) :=
  (s.results.find? fun r => r.node == node && r.port == port && r.tag == tag).map (·.result)

/-- The old value of a lane's atomic joins what the node keeps of its request; other atomics are kept nowhere. -/
def State.keepOld (s : State) (r : FRef) (scope pa : Nat) (old : DWord) : State :=
  if scope = 6 ∧ s.tierOf pa = .pool then
    let tag := reqTag r.flight pa
    let olds := ((s.kept? (nodeOf pa) s.slot tag).map (·.1)).getD []
    s.keepResult ⟨nodeOf pa, s.slot, tag, olds ++ [old], 0⟩
  else s

/-! ## Performing lanes -/

/-- The view in which an access acts (R410, R425). -/
def State.viewFor (s : State) (g : Group) (a : Access) : Nat := if a.root then 0 else s.viewOf g

/-- Records a fault that is delivered later at one of the events of R131, in the order of a sequence number. -/
def State.deferAt (s : State) (r : FRef) (q : Nat) (t : Trap) (cnt : BitVec 4) (dests : List RegRef) (key : Nat) (dec resume : Bool) : State :=
  s.onGroup r.block r.gidx fun g => { g with deferred := g.deferred ++ [⟨t, cnt, dests, q, key, dec, resume⟩] }

/-- The same, after every fault recorded so far. -/
def State.defer (s : State) (r : FRef) (t : Trap) (cnt : BitVec 4) (dests : List RegRef) (key : Nat) (dec resume : Bool) : State :=
  let (q, s) := s.fresh
  s.deferAt r q t cnt dests key dec resume

/-- A write that finds the view pool full is held, and VIEW_POOL is recorded once for the line that it needs (R416). -/
def State.holdWrite (s : State) (r : FRef) (g : Group) (f : Flight) (a : Access) (addr : DWord) : State :=
  if a.held.contains (lineOf addr.toNat) then s
  else
    let pages := ((s.ctxOf g).map fun c => c.vpsize.setWidth 64).getD 0
    let s := s.onFlight r fun x => match x.op with
      | .access a => { x with op := .access { a with held := lineOf addr.toNat :: a.held } }
      | _ => x
    s.defer r ⟨Cause.viewPool, BitVec.ofNat 64 (lineOf addr.toNat), pages, 0, true, some f.pc, none⟩ f.cnt f.dests 0 false false

/-- A shadow's comparison differs (R464): the access is not performed and SHADOW_MISMATCH is recorded. -/
def State.mismatch (s : State) (r : FRef) (f : Flight) (a : Access) (lane kind : Nat) : State :=
  let addr := ((a.lanes.find? (·.lane == lane)).map (·.addr)).getD 0
  let s := s.onGroup r.block r.gidx fun g => { g with differs := none }
  let s := s.onFlight r fun x => { x with op := .access { a with lanes := a.lanes.map fun l => if l.st == .done then l else { l with st := .failed } } }
  s.defer r ⟨Cause.shadowMismatch, addr, BitVec.ofNat 64 (lane + 64 * kind), 0, true, some f.pc, none⟩ f.cnt f.dests 0 false false

/-- One lane of a local access is performed, or joins its granule's queue (R167, R168); it waits while its segment is in transit
(R180). An atomic at another block's vault banks sets WIDE (R395). -/
def State.runLocal (s : State) (r : FRef) (g : Group) (f : Flight) (a : Access) (l : LaneAcc) : State :=
  let b := l.blk
  let off := l.off
  let gran := granOf off
  if s.localTransit b off || !s.isResident b || (a.kind != .load && s.segmentWaits b off) then s
  else if !a.qual.goes (s.isFull b gran) || s.laneQueues g f a l then
    (s.onLane r l.lane fun l => { l with st := .queued }).enqueue b gran (.lane r.block r.gidx r.flight l.lane a.qual)
  else
    match a.kind with
    | .atom =>
      let old := BitVec.ofNat 64 (leNat (s.vaultRead b off a.size))
      let s := match atomNew a.type.toNat (a.size == 8) old (l.data.setWidth 64) l.expect with
        | some v => (s.feed r b gran).vaultWrite b off (natBytes a.size v.toNat)
        | none => s
      let s := if b == r.block then s else s.onBlock r.block fun b => { b with wide := true }
      s.onLane r l.lane fun l => { l with st := .done, got := old.setWidth 128 }
    | _ =>
      let was := s.isFull b gran
      (s.bankLane r a l b off).served b gran was

/-- The operand log of a core is full. -/
def State.logFull (s : State) (core : Nat) : Bool := decide (Config.logEntries ≤ (s.olog.filter (·.core == core)).length)

/-- An access that fails has an entry of the log, or one is free (R126). -/
def State.canLog (s : State) (r : FRef) (core : Nat) : Bool := (s.logOf r).isSome || !s.logFull core

/-- A global store or atomic is about to write a segment's vault bytes (R267). -/
def State.feedAt (s : State) (r : FRef) (pa : Nat) : State :=
  match s.segAt pa with
  | some x => s.feed r x.block (granOf (x.lpage + pa % 4096))
  | none => s

/-- One lane of a global access is performed: translated (R114), then a load, a store under R179 or an atomic at its unit (R200);
or it is logged (R125), or held: while its page is in transit (R179, R180), while a snapshot has no staging space (R446), or while no log entry is free for its fault (R126). A release write
is carried, and an acquire read made, where its scope is coherent (R294). -/
def State.runGlobal (s : State) (r : FRef) (g : Group) (f : Flight) (a : Access) (l : LaneAcc) : State :=
  let core := s.coreOfGroup g
  let pasid := s.pasidOf g
  let view := s.viewFor g a
  let log (s : State) (reason level : Nat) (fw : Bool) : State :=
    if s.canLog r core then s.onLane r l.lane fun l => { l with st := .logged reason level fw } else s
  match s.translate core pasid l.addr (if a.kind == .load then .load else .store) with
  | (.fault reason level fw, s) => log s reason level fw
  | (.host e, s) => s.askHost e
  | (.ok pa attr _ _, s) =>
    if s.inTransit pa || (a.kind != .load && s.pageWaits pa) || s.roomWaits core pasid attr view pa then s
    else if s.unreachable pa a.size (a.kind != .load && view == 0) then log s 0x0C 0 false
    else if s.portStopped pa a.size (a.kind == .atom && worldScope view a.scope == 6) then s
    else
      let s := if a.pro && a.ord.getLsbD 0 then s.probe core pasid (worldScope view a.scope) (fun x => lineOf x == lineOf pa) else s
      match a.kind with
      | .load =>
        if s.readsPoison core pasid view pa a.size then log s 0x0B 0 false
        else
          let s := if a.ord.getLsbD 0 then s.fetchNew core pasid view a.scope pa a.size else s
          let (bs, s) := s.coreRead core pasid view attr pa a.size
          s.onLane r l.lane fun l => { l with st := .done, got := BitVec.ofNat 128 (leNat (s.moved pasid view l.addr.toNat pa bs)) }
      | .store =>
        if s.viewFull pasid view pa then s.holdWrite r g f a l.addr
        else
          let s := ((s.feedAt r pa).diverge pasid view l.addr.toNat pa).coreWrite core pasid view attr pa (l.bytes a.size)
          let s := if a.ord.getLsbD 1 then s.carry core pasid view a.scope pa a.size else s
          let s := if coversGranule a l then s.mend core pasid view attr pa else s
          let s := if attr != 0 || (s.segAt pa).isSome then s.onBlock r.block fun b => { b with wide := true } else s
          s.onLane r l.lane fun l => { l with st := .done }
      | .atom =>
        if s.viewFull pasid view pa then s.holdWrite r g f a l.addr
        else
          let s := (s.feedAt r pa).diverge pasid view l.addr.toNat pa
          let wide := !s.atL1 pasid view a.scope attr pa
          let (old, s) := s.atomicAt core pasid view (s.viewOf g) (worldScope view a.scope) attr l.addr.toNat pa a.size
            [5, s.slot, 0, pa, a.type.toNat, (if a.size == 8 then 1 else 0), l.data.toNat % 2 ^ 64, l.expect.toNat] fun old => atomNew a.type.toNat (a.size == 8) old (l.data.setWidth 64) l.expect
          let s := (if wide then s.onBlock r.block fun b => { b with wide := true } else s).keepOld r (worldScope view a.scope) pa old
          s.onLane r l.lane fun l => { l with st := .done, got := old.setWidth 128 }

/-- One lane, in a vault or in memory. -/
def State.runPlace (s : State) (r : FRef) (g : Group) (f : Flight) (a : Access) (l : LaneAcc) : State :=
  if a.loc then s.runLocal r g f a l else s.runGlobal r g f a l

/-- One lane of an access in flight is performed where its order allows. -/
def State.runLane (r : FRef) (s : State) (i : Nat) : State :=
  match s.access? r with
  | none => s
  | some (g, f, a) =>
    match a.lanes.find? (·.lane == i) with
    | none => s
    | some l =>
      if l.st != .todo || s.laneHeld g f a l then s
      else match g.differs with
        | some (lane, kind) => if a.kind == .load then s.runPlace r g f a l else s.mismatch r f a lane kind
        | none => s.runPlace r g f a l

/-! ## The operand log -/

/-- A reason that system software answers; every other is fatal at once (R128). -/
def answerable (reason : Nat) (firmware : Bool) : Bool := reason == 0x01 || (reason == 0x02 && !firmware)

/-- The cause with which a reason is delivered (R130). -/
def reasonCause (reason : Nat) : Nat :=
  match reason with
  | 0x02 => Cause.prot
  | 0x03 => Cause.prot
  | 0x08 => Cause.prot
  | 0x0B => Cause.dataPoison
  | 0x0C => Cause.dataPoison
  | _ => Cause.pageFatal

/-- XSTAT of a translation fault (R131). -/
def faultStat (reason level : Nat) (wr fetch logged : Bool) (lane : Nat) : BitVec 20 :=
  BitVec.ofNat 20 (reason + 256 * level + (if wr then 0x800 else 0) + (if fetch then 0x1000 else 0) + (if logged then 0x2000 else 0) +
    0x4000 * lane)

/-- The log entry of a flight is taken out. -/
def State.freeLog (s : State) (r : FRef) : State :=
  { s with olog := s.olog.filter fun e => !(e.block == r.block && e.gidx == r.gidx && e.flight == r.flight) }

/-- A log entry is put in place of the flight's earlier one. -/
def State.putLog (s : State) (r : FRef) (e : LogEntry) : State := { (s.freeLog r) with olog := (s.freeLog r).olog ++ [e] }

/-- A log entry becomes fatal: it waits for its delivery, in the order of its SEQ (R131). -/
def State.makeFatal (s : State) (r : FRef) (f : Flight) (e : LogEntry) (lane : Nat) (va : DWord) : State :=
  (s.putLog r { e with state := .fatal }).deferAt r e.seq
    ⟨reasonCause e.reason, va, 0, faultStat e.reason e.level e.wr false true lane, true, some f.pc, none⟩ f.cnt f.dests f.key true true

/-- The log entry after lanes of a flight have been translated: released where none faulted, otherwise holding the faulting lanes
under the reason of the lowest (R125 to R128). -/
def State.settleLog (s : State) (r : FRef) : State :=
  match s.access? r with
  | none => s.freeLog r
  | some (g, f, a) =>
    let bad := a.lanes.filterMap fun l => match l.st with
      | .logged reason level fw => some (l, reason, level, fw)
      | _ => none
    match bad with
    | [] => if a.lanes.any (·.st == .todo) then s else s.freeLog r
    | (l, reason, level, fw) :: _ =>
      let old := s.logOf r
      if (old.map (·.state)) = some .fatal then s
      else
        let (q, s) := match old with
          | some e => if e.state == LogState.reserved then s.fresh else (e.seq, s)
          | none => s.fresh
        let e : LogEntry := ⟨s.coreOfGroup g, r.block, r.gidx, r.flight, .pending, reason, level, a.kind != AccKind.load, q⟩
        if answerable reason fw then s.putLog r e else s.makeFatal r f e l.lane l.addr

/-- Lanes of an access in flight are performed, all of them where none is named; those of one granule go together (R144, R190). The
release of a .rel access comes first, once every earlier access of the group has been performed (R192, R303), and where the group's shadow agrees (R464).
An access whose lanes all wait in the log stays as it is. -/
def State.perform (s : State) (r : FRef) (sel : List Nat) : State :=
  match s.access? r with
  | none => s
  | some (g, f, a) =>
    let rel := a.ord.getLsbD 1
    let todo := a.lanes.any (·.st == .todo)
    if rel && !s.releaseReady g (g.before f.key) a.scope then s
    else if !todo && a.lanes.any (·.st.open false) then s
    else
      let strays := g.differs.isSome && a.kind != .load && todo
      let s := if rel && !strays then s.release (s.coreOfGroup g) (s.pasidOf g) (s.viewFor g a) a.scope else s
      let chosen := a.lanes.filter fun l => sel.contains l.lane
      let ls := (a.lanes.filter fun l => sel == [] || chosen.any (s.oneGranule g a l)).map (·.lane)
      (ls.foldl (State.runLane r) s).settleLog r

/-- PAGE_WALK for the lanes of an access: each is translated and its fault logged; none is performed (R114, R125). -/
def State.walkLanes (s : State) (r : FRef) : State :=
  match s.access? r with
  | none => s
  | some (g, _, a) =>
    if a.loc then s
    else
      let core := s.coreOfGroup g
      let pasid := s.pasidOf g
      let one (s : State) (l : LaneAcc) : State :=
        if l.st != .todo then s
        else match s.translate core pasid l.addr (if a.kind == .load then .load else .store) with
          | (.fault reason level fw, s) =>
            if s.canLog r core then s.onLane r l.lane fun l => { l with st := .logged reason level fw } else s
          | (.host e, s) => s.askHost e
          | (.ok _ _ _ _, s) => s
      if a.lanes.any (·.st == .todo) then (a.lanes.foldl one s).settleLog r else s

/-- Replays a resolved entry: its lanes are translated again and performed (R128). -/
def State.replay (s : State) (r : FRef) : State :=
  match s.logOf r with
  | none => s
  | some e =>
    let s := s.putLog r { e with state := .resolved }
    let s := s.onFlight r fun x => match x.op with
      | .access a =>
        { x with op := .access { a with lanes := a.lanes.map fun l => match l.st with
            | .logged _ _ _ => { l with st := .todo }
            | _ => l } }
      | _ => x
    s.perform r []

/-- Replays resolved entries in turn, until one is pending, faults again or is not yet done (R128). -/
def State.replayFrom (s : State) : List LogEntry → State
  | [] => s
  | e :: es =>
    let r : FRef := ⟨e.block, e.gidx, e.flight⟩
    if e.state != .resolved then s
    else
      let s := s.replay r
      match s.logOf r with
      | some x => if x.state == .fatal then s.replayFrom es else s
      | none => s.replayFrom es

/-- Replays a group's resolved entries in SEQ order (R128). -/
def State.replayAll (s : State) (block gidx : Nat) : State :=
  s.replayFrom ((s.olog.filter fun e => e.block == block && e.gidx == gidx && (e.state == .pending || e.state == .resolved)).mergeSort
    fun a b => decide (a.seq ≤ b.seq))

/-! ## Completion -/

/-- The register writes of an access's performed lanes (R188, R197, R233). -/
def accessWrites (a : Access) : List RegWrite :=
  match a.dst with
  | .planes r t en =>
    if a.lanes.any (·.st == .failed) then []
    else
      let w := typeBits t
      let ps := a.lanes.map fun l => l.got.toNat
      [.vec r false en (Lanes.ofFn fun i => BitVec.ofNat 64 (fromPlanes t ps i + 2 ^ w * fromPlanes t ps (i + 64)))]
  | _ => a.landed

/-- DATA_POISON of a local load's failed lanes is recorded (R194, R234). -/
def State.localPoison (s : State) (r : FRef) (f : Flight) (a : Access) : State :=
  match a.lanes.find? (·.st == .failed) with
  | none => s
  | some l =>
    if a.kind != .load then s
    else s.defer r ⟨Cause.dataPoison, l.addr, 0, 0, true, some f.pc, none⟩ f.cnt f.dests 0 false true

/-- An access with no lane left to perform writes its destination; with none left in the log it makes its acquire and
completes, and its counter is decremented (R60, R189, R192). -/
def State.finishAccess (s : State) (r : FRef) : State :=
  match s.access? r with
  | none => s
  | some (g, f, a) =>
    if a.lanes.any fun l => l.st == .todo || l.st == .queued then s
    else
      let left := a.lanes.filter fun l => match l.st with | .logged _ _ _ => true | _ => false
      let ws := accessWrites a
      if left = [] then
        let s := if a.ord.getLsbD 0 then s.acquire (s.coreOfGroup g) (s.pasidOf g) (s.viewFor g a) a.scope else s
        let s := (s.localPoison r f a).freeLog r
        s.onGroup r.block r.gidx fun g => g.complete s { f with writes := ws }
      else
        let s := s.onGroup r.block r.gidx fun g => g.landWrites s { f with writes := ws }
        s.onFlight r fun x => { x with op := .access { a with lanes := left } }

end Sys2Proof.Machine
end

