-- ==== Sys2Proof/Machine/Scalar.lean ====
section
/-! DEFINITION. Predicates (R240), scalar instructions (R241, R242) and walkers (R243 to R246). -/

namespace Sys2Proof.Machine

/-! ## Predicates -/

/-- A predicate combined in the enabled lanes. -/
def pred2 (min : BitVec 6) (f : F64) (one : Bool) (op : DWord → DWord → DWord) (s : State) : Host.Outcome State Fault Refusal :=
  let h := hdr64 0x09 min f
  issue h
    { ops := fun _ => predOk f.dst && predOk f.s1 && (one || predOk f.s2)
      also := .prd f.s1.toNat :: if one then [] else [.prd f.s2.toNat]
      eff := fun c s => c.finish h [.prd f.dst.toNat c.en (op (c.preg f.s1.toNat) (if one then 0 else c.preg f.s2.toNat))] 0 s } s

/-- PAND (R240). -/
def execPand (f : F64) (s : State) : Host.Outcome State Fault Refusal := pred2 0x00 f false (· &&& ·) s
/-- POR (R240). -/
def execPor (f : F64) (s : State) : Host.Outcome State Fault Refusal := pred2 0x01 f false (· ||| ·) s
/-- PXOR (R240). -/
def execPxor (f : F64) (s : State) : Host.Outcome State Fault Refusal := pred2 0x02 f false (· ^^^ ·) s
/-- PNOT (R240). -/
def execPnot (f : F64) (s : State) : Host.Outcome State Fault Refusal := pred2 0x03 f true (fun x _ => ~~~x) s
/-- PMOV (R240): between predicates by lane, or between a predicate and a scalar register once for the group. -/
def execPmov (f : F64) (s : State) : Host.Outcome State Fault Refusal :=
  let h := hdr64 0x09 0x04 f
  match f.modLow.toNat with
  | 1 =>
    issue h
      { ops := fun _ => predOk f.dst && sregOk f.s1
        uses := [(f.s1, true)]
        eff := fun c s => c.finish h [.prd f.dst.toNat allOnes (c.ssrc f.s1)] 0 s } s
  | 2 =>
    issue h
      { ops := fun _ => sregOk f.dst && predOk f.s1
        also := [.prd f.s1.toNat]
        eff := fun c s => c.finish h [.sca (f.dst.toNat - 0x80) (c.preg f.s1.toNat)] 0 s } s
  | _ => pred2 0x04 f true (fun x _ => x) s

/-! ## Scalars -/

/-- A scalar result of one value for the group. -/
def scalarResult (h : Hdr) (dst : BitVec 8) (uses : List (BitVec 8)) (val : Cx → DWord) (s : State) :
    Host.Outcome State Fault Refusal :=
  issue h
    { ops := fun _ => sregOk dst && uses.all ssrcOk
      uses := uses.map fun u => (u, true)
      eff := fun c s => c.finish h [.sca (dst.toNat - 0x80) (val c)] 0 s } s

/-- Two scalar sources. -/
def scalar2 (min : BitVec 6) (f : F64) (op : DWord → DWord → DWord) (s : State) : Host.Outcome State Fault Refusal :=
  scalarResult (hdr64 0x0A min f) f.dst [f.s1, f.s2] (fun c => op (c.ssrc f.s1) (c.ssrc f.s2)) s
/-- The sign-extended immediate in place of S2. -/
def scalarImm (min : BitVec 6) (f : F64) (op : DWord → DWord → DWord) (s : State) : Host.Outcome State Fault Refusal :=
  scalarResult (hdr64 0x0B min f) f.dst [f.s1] (fun c => op (c.ssrc f.s1) (f.imm16.signExtend 64)) s

/-- Shift left by an unsigned 64-bit count (R241). -/
def shl64 (a b : DWord) : DWord := if b.toNat ≥ 64 then 0 else a <<< b.toNat
/-- Shift right, arithmetic under .a (R241). -/
def shr64 (arith : Bool) (a b : DWord) : DWord :=
  if arith then a.sshiftRight (min b.toNat 64) else if b.toNat ≥ 64 then 0 else a >>> b.toNat

/-- SADD (R241). -/
def execSadd (f : F64) (s : State) : Host.Outcome State Fault Refusal := scalar2 0x00 f (· + ·) s
/-- SSUB (R241). -/
def execSsub (f : F64) (s : State) : Host.Outcome State Fault Refusal := scalar2 0x01 f (· - ·) s
/-- SMUL (R241). -/
def execSmul (f : F64) (s : State) : Host.Outcome State Fault Refusal := scalar2 0x02 f (· * ·) s
/-- SAND (R241). -/
def execSand (f : F64) (s : State) : Host.Outcome State Fault Refusal := scalar2 0x03 f (· &&& ·) s
/-- SOR (R241). -/
def execSor (f : F64) (s : State) : Host.Outcome State Fault Refusal := scalar2 0x04 f (· ||| ·) s
/-- SXOR (R241). -/
def execSxor (f : F64) (s : State) : Host.Outcome State Fault Refusal := scalar2 0x05 f (· ^^^ ·) s
/-- SSHL (R241). -/
def execSshl (f : F64) (s : State) : Host.Outcome State Fault Refusal := scalar2 0x06 f shl64 s
/-- SSHR (R241): MOD[60] .a. -/
def execSshr (f : F64) (s : State) : Host.Outcome State Fault Refusal := scalar2 0x07 f (shr64 (f.modBit 0)) s

/-- A comparison that writes a whole predicate (R241). -/
def scalarCompare (h : Hdr) (f : F64) (uses : List (BitVec 8)) (y : Cx → DWord) (s : State) : Host.Outcome State Fault Refusal :=
  issue h
    { ops := fun _ => predOk f.dst && uses.all ssrcOk
      uses := uses.map fun u => (u, true)
      eff := fun c s =>
        c.finish h [.prd f.dst.toNat allOnes (if intCond true f.mod.toNat (c.ssrc f.s1) (y c) then allOnes else 0)] 0 s } s

/-- SCMP (R241). -/
def execScmp (f : F64) (s : State) : Host.Outcome State Fault Refusal :=
  scalarCompare (hdr64 0x0A 0x08 f) f [f.s1, f.s2] (fun c => c.ssrc f.s2) s
/-- SSEL (R241): a when the predicate of S3 has a bit set among the enabled lanes. -/
def execSsel (f : F64) (s : State) : Host.Outcome State Fault Refusal :=
  let h := hdr64 0x0A 0x09 f
  issue h
    { ops := fun _ => sregOk f.dst && ssrcOk f.s1 && ssrcOk f.s2 && predOk f.s3
      also := [.prd f.s3.toNat]
      uses := [(f.s1, true), (f.s2, true)]
      eff := fun c s =>
        c.finish h [.sca (f.dst.toNat - 0x80) (if c.preg f.s3.toNat &&& c.en != 0 then c.ssrc f.s1 else c.ssrc f.s2)] 0 s } s
/-- SMOV (R241). -/
def execSmov (f : F64) (s : State) : Host.Outcome State Fault Refusal :=
  scalarResult (hdr64 0x0A 0x0A f) f.dst [f.s1] (fun c => c.ssrc f.s1) s

/-- BCAST (R241): lane k of a vector register, read whether or not it is enabled. -/
def execBcast (f : F64) (s : State) : Host.Outcome State Fault Refusal :=
  let h := hdr64 0x0A 0x0B f
  let w := f.modBit 2
  issue h
    { ops := fun c => c.vecOk w f.dst && c.vecOk w f.s1 && ssrcOk f.s2
      uses := [(f.s1, w), (f.s2, true)]
      eff := fun c s =>
        c.finish h [.vec f.dst.toNat w c.en (Lanes.const ((c.src w f.s1).get ((c.ssrc f.s2).toNat % 64)))] 0 s } s
/-- RDLANE (R241). -/
def execRdlane (f : F64) (s : State) : Host.Outcome State Fault Refusal :=
  let h := hdr64 0x0A 0x0C f
  let w := f.modBit 2
  issue h
    { ops := fun c => sregOk f.dst && c.vecOk w f.s1 && ssrcOk f.s2
      uses := [(f.s1, w), (f.s2, true)]
      eff := fun c s =>
        c.finish h [.sca (f.dst.toNat - 0x80) ((c.src w f.s1).get ((c.ssrc f.s2).toNat % 64))] 0 s } s

/-- SADD with immediate. -/
def execSaddImm (f : F64) (s : State) : Host.Outcome State Fault Refusal := scalarImm 0x00 f (· + ·) s
/-- SSUB with immediate. -/
def execSsubImm (f : F64) (s : State) : Host.Outcome State Fault Refusal := scalarImm 0x01 f (· - ·) s
/-- SMUL with immediate. -/
def execSmulImm (f : F64) (s : State) : Host.Outcome State Fault Refusal := scalarImm 0x02 f (· * ·) s
/-- SAND with immediate. -/
def execSandImm (f : F64) (s : State) : Host.Outcome State Fault Refusal := scalarImm 0x03 f (· &&& ·) s
/-- SOR with immediate. -/
def execSorImm (f : F64) (s : State) : Host.Outcome State Fault Refusal := scalarImm 0x04 f (· ||| ·) s
/-- SXOR with immediate. -/
def execSxorImm (f : F64) (s : State) : Host.Outcome State Fault Refusal := scalarImm 0x05 f (· ^^^ ·) s
/-- SSHL with immediate. -/
def execSshlImm (f : F64) (s : State) : Host.Outcome State Fault Refusal := scalarImm 0x06 f shl64 s
/-- SSHR with immediate. -/
def execSshrImm (f : F64) (s : State) : Host.Outcome State Fault Refusal := scalarImm 0x07 f (shr64 (f.modBit 0)) s
/-- SCMP with immediate. -/
def execScmpImm (f : F64) (s : State) : Host.Outcome State Fault Refusal :=
  scalarCompare (hdr64 0x0B 0x08 f) f [f.s1] (fun _ => f.imm16.signExtend 64) s

/-- SMOVI (R242). -/
def execSmovi (f : F64) (s : State) : Host.Outcome State Fault Refusal :=
  scalarResult (hdr64 0x0C 0x00 f) f.dst [] (fun _ => f.imm24.signExtend 64) s
/-- SMOVI.MID (R242): bits 47:24, with sign fill above; bits 23:0 kept. -/
def execSmoviMid (f : F64) (s : State) : Host.Outcome State Fault Refusal :=
  scalarResult (hdr64 0x0C 0x01 f) f.dst [f.dst]
    (fun c => (c.ssrc f.dst &&& 0xFFFFFF) ||| (f.imm24.signExtend 64 <<< 24)) s
/-- SMOVI.TOP (R242): bits 63:48; bits 47:0 kept. -/
def execSmoviTop (f : F64) (s : State) : Host.Outcome State Fault Refusal :=
  scalarResult (hdr64 0x0C 0x02 f) f.dst [f.dst]
    (fun c => (c.ssrc f.dst &&& 0xFFFFFFFFFFFF) ||| (f.imm24.setWidth 64 <<< 48)) s

/-! ## Walkers -/

/-- The element size in bytes. -/
def Walker.bytes (w : Walker) : Nat := 2 ^ w.esize.toNat

/-- The current address (R243). -/
def Walker.addr (w : Walker) : DWord :=
  let sum := (List.range (w.ndim.toNat + 1)).foldl
    (fun (a : Int) k => a + ((vget w.idx k 0).toNat : Int) * (vget w.stride k 0).toInt) 0
  w.base + BitVec.ofInt 64 (sum * w.bytes)

/-- One step of the advance from dimension k on (R245). -/
def Walker.stepFrom (w : Walker) : Nat → Nat → Walker
  | 0, _ => w
  | n + 1, k =>
    let i := vget w.idx k 0 + 1
    if i.toNat < (vget w.count k 0).toNat ∧ i ≠ 0 then { w with idx := w.idx.setIfInBounds k i }
    else
      Walker.stepFrom { w with idx := w.idx.setIfInBounds k 0, endf := w.endf ||| (1#4 <<< k) } n (k + 1)

/-- The advance (R245): the flags show the dimensions that wrapped. -/
def Walker.advance (w : Walker) : Walker := { w with endf := 0 }.stepFrom (w.ndim.toNat + 1) 0

/-- The status word (R246). -/
def Walker.status (w : Walker) : DWord :=
  if w.bound then w.endf.setWidth 64 ||| 0x10 ||| (w.ndim.setWidth 64 <<< 5) ||| (w.esize.setWidth 64 <<< 7) else 0

/-- The checks, the stalls and the effect of what `execWset` issues. -/
def wsetPlan (f : F64) : Plan :=
  let h := hdr64 0x0D 0x00 f
  let n := f.modHigh.toNat + 1
  let b := f.s2.toNat - 0x80
  { ops := fun _ => walkerOk f.dst && sregOk f.s1 && sregOk f.s2 && decide (b + n - 1 ≤ 95)
    uses := [(f.s1, true)] ++ (List.range n).map fun k => (BitVec.ofNat 8 (0x80 + b + k), true)
    own := fun c =>
      let base := c.ssrc f.s1
      if base.toNat % 2 ^ f.modLow.toNat ≠ 0 then some (.precise Cause.misalign base 0)
      else if (List.range n).any fun k => (c.sreg (b + k)).setWidth 32 == 0 then
        some (.precise Cause.illegalOperand 0 h.word)
      else none
    eff := fun c s =>
      let field (k : Nat) (hi : Bool) : Word :=
        if k < n then (if hi then (c.sreg (b + k) >>> 32).setWidth 32 else (c.sreg (b + k)).setWidth 32) else 0
      let w : Walker :=
        { bound := true
          base := c.ssrc f.s1
          esize := f.modLow
          ndim := f.modHigh
          count := #v[field 0 false, field 1 false, field 2 false, field 3 false]
          stride := #v[field 0 true, field 1 true, field 2 true, field 3 true]
          idx := #v[0, 0, 0, 0]
          endf := 0 }
      c.finish h [.wlk f.dst.toNat w] 0 s }

/-- WSET (R244). -/
def execWset (f : F64) (s : State) : Host.Outcome State Fault Refusal :=
  issue (hdr64 0x0D 0x00 f) (wsetPlan f) s

/-- WSTAT (R246): MOD[61:60] the selector; an unbound walker gives 0. -/
def execWstat (f : F64) (s : State) : Host.Outcome State Fault Refusal :=
  let h := hdr64 0x0D 0x01 f
  issue h
    { ops := fun _ => sregOk f.dst && walkerOk f.s1
      also := [.wlk f.s1.toNat]
      eff := fun c s =>
        let w := c.walker f.s1.toNat
        let pair (k : Nat) : DWord := vget w.idx (k + 1) 0 ++ vget w.idx k 0
        let v : DWord :=
          if !w.bound then 0
          else match f.modLow.toNat with
            | 0 => w.status
            | 1 => w.addr
            | 2 => pair 0
            | _ => pair 2
        c.finish h [.sca (f.dst.toNat - 0x80) v] 0 s } s

/-- WREW (R246): indices and flags to zero; nothing on an unbound walker. -/
def execWrew (f : F64) (s : State) : Host.Outcome State Fault Refusal :=
  let h := hdr64 0x0D 0x02 f
  issue h
    { ops := fun _ => walkerOk f.dst
      also := [.wlk f.dst.toNat]
      eff := fun c s =>
        let w := c.walker f.dst.toNat
        c.finish h (if w.bound then [.wlk f.dst.toNat { w with idx := #v[0, 0, 0, 0], endf := 0 }] else []) 0 s } s

end Sys2Proof.Machine
end

