-- ==== Sys2Proof/Machine/Memory.lean ====
section
/-! DEFINITION. The instructions of major 0x10 (R186 to R204): their operands, addresses and checks at issue. What remains is performed
by the events INSTRUCTION_COMPLETION, PAGE_WALK, PAGE_FAULT_ANSWER and VAULT_BANK_ACCESS. -/

namespace Sys2Proof

/-- ORD of the memory sub-format. -/
def F64.ord (f : F64) : BitVec 2 := f.modLow
/-- PRO, or FEV. -/
def F64.pro (f : F64) : Bool := f.modBit 2
/-- WLK: S1 names a walker. -/
def F64.wlk (f : F64) : Bool := f.modBit 3

/-- OFS × z. -/
def F64.ofs (f : F64) (z : Nat) : DWord := f.s2.signExtend 64 * BitVec.ofNat 64 z

end Sys2Proof

namespace Sys2Proof.Machine

/-! ## Addresses (R187) -/

/-- S1 names a base that the form accepts: a walker, a scalar, a latch, or a vector register, a pair for a global address. -/
def baseOk (c : Cx) (f : F64) (loc wlk : Bool) : Bool :=
  let n := f.s1.toNat
  if wlk then walkerOk f.s1 && (c.walker n).bound
  else sregOk f.s1 || n == 0xE4 || c.vecOk (!loc) f.s1 || (0xE0 ≤ n && n < 0xE4)

/-- The base as a source, for R62 and R131. -/
def baseUse (f : F64) (loc wlk : Bool) : List Use :=
  if wlk then [] else [(f.s1, f.s1.toNat ≥ 0x80 || !loc)]

/-- A lane of an access before anything is known but its address. -/
def laneAt (i : Nat) (a : DWord) : LaneAcc := ⟨i, a, 0, 0, 0, 0, .todo, 0⟩
/-- The same with the local place that the address names. -/
def State.localLane (s : State) (block i : Nat) (a : DWord) (z : Nat) : LaneAcc :=
  match s.localAt block a z with
  | .ok (b, off) => { laneAt i a with blk := b, off := off }
  | .error _ => laneAt i a

/-- The lanes and their addresses; `once` for the forms that use the lane-0 address alone. -/
def Cx.addresses (c : Cx) (f : F64) (loc wlk once : Bool) (z : Nat) (ofs : DWord) : List (Nat × DWord) :=
  let step (b : DWord) (i : Nat) : DWord := b + BitVec.ofNat 64 (i * z) + ofs
  let lanes := lanesOf c.en
  if wlk then
    let b := (c.walker f.s1.toNat).addr
    if once then [(0, step b 0)] else lanes.map fun i => (i, step b i)
  else if f.s1.toNat ≥ 0x80 ∧ ¬(0xE0 ≤ f.s1.toNat ∧ f.s1.toNat < 0xE4) then
    let b := c.ssrc f.s1
    if once then [(0, step b 0)] else lanes.map fun i => (i, step b i)
  else
    let b := c.src (f.s1.toNat ≥ 0x80 || !loc) f.s1
    if once then [(0, b.get 0 + ofs)] else lanes.map fun i => (i, b.get i + ofs)

/-- The walker of a base advances once per instruction that issues with an enabled lane (R245). -/
def Cx.advanceWalker (c : Cx) (f : F64) (wlk : Bool) (s : State) : State :=
  if wlk then { s with cur := s.cur.writeNow (.wlk f.s1.toNat (c.walker f.s1.toNat).advance) } else s

/-! ## The checks and stalls of an access -/

/-- MISALIGN, then LOCAL_BOUNDS and LOCAL_REVOKED, of the lowest offending lane (R194, R201). -/
def accessFault (c : Cx) (loc : Bool) (z : Nat) (as : List (Nat × DWord)) : Option Trap :=
  let at_ (cause : Nat) (p : Nat × DWord) : Trap := .precise cause p.2 (BitVec.ofNat 64 p.1)
  match as.find? fun p => p.2.toNat % z != 0 with
  | some p => some (at_ Cause.misalign p)
  | none =>
    if !loc then none
    else
      let err (p : Nat × DWord) : Option Nat := match c.s.localAt c.g.block p.2 z with | .ok _ => none | .error e => some e
      match as.find? fun p => err p == some Cause.localBounds with
      | some p => some (at_ Cause.localBounds p)
      | none => (as.find? fun p => err p == some Cause.localRevoked).map (at_ Cause.localRevoked)

/-- The group's log entries that are pending or resolved. -/
def State.pendingLog (s : State) (g : Group) : List LogEntry :=
  s.olog.filter fun e => e.block == g.block && e.gidx == g.gidx && (e.state == .pending || e.state == .resolved)

/-- A later memory instruction waits behind the group's log entries (R129) and behind an acquire not yet completed (R192), that of a WCNT which
observes deliveries among them (R302, R326). -/
def State.memoryHeld (s : State) (g : Group) (load : Bool) : Bool :=
  ((s.pendingLog g).any fun e => e.wr || !load) ||
    g.flights.any fun f => match f.op with
      | .access a => a.ord.getLsbD 0
      | .fabric k => s.fabric.any fun r => r.key == k && r.ord.getLsbD 0
      | .wcnt sel _ _ _ => sel == 0 || sel == 1
      | _ => false

/-- The requests that a flight's access holds: distinct lines, or distinct granules (R191). -/
def Access.requests (a : Access) : Nat :=
  ((a.lanes.map fun l => l.addr.toNat / (if a.loc then 16 else 128)).eraseDups).length

/-- Requests outstanding on a core. -/
def State.outstanding (s : State) (core : Nat) : Nat :=
  ((s.groups.filter fun g => s.coreOfGroup g == core && s.isResident g.block).flatMap fun g => g.flights.map fun f => match f.op with
    | .access a => a.requests
    | _ => 0).sum

/-- A lane misses the first-level TLB, or its entry does not serve the access (R126). -/
def Cx.tlbMiss (c : Cx) (write : Bool) (as : List (Nat × DWord)) : Bool :=
  as.any fun p => !c.s.l1TlbServes (c.s.coreOfGroup c.g) (c.s.pasidOf c.g) (p.2.toNat % 2 ^ 57) (if write then .store else .load)

/-- A form of memory instruction: what its flight is, and how it forms its lanes. -/
structure MemForm where
  kind  : AccKind
  loc   : Bool
  once  : Bool
  wlk   : Bool
  type  : BitVec 4
  size  : Nat
  ofs   : DWord
  ord   : BitVec 2
  pro   : Bool
  scope : BitVec 3
  qual  : Qual
  dst   : Dst
  pod   : Bool
  data  : Cx → Nat → DWord
  expect : Cx → Nat → DWord

/-- The world of the issuing group is pinned (R425). -/
def State.pin (s : State) : State :=
  let v := s.viewOf s.cur
  let p := s.pasidOf s.cur
  let s : State := { s with views := s.views.map fun w => if v != 0 && w.pasid == p && w.num == v then { w with pinned := true } else w }
  if v = 0 then s else s.serveTable

/-- An instruction with .irrev inside a world sends a pin request (R425). -/
def Cx.pins (c : Cx) (irrev : Bool) : Bool := irrev && c.s.viewOf c.g != 0

/-- WORLD_ESCAPE of an instruction inside a world (R384, R424). -/
def escape (c : Cx) (h : Hdr) (irrev : Bool) : Option Trap :=
  if c.s.viewOf c.g != 0 && !irrev then some (.precise Cause.worldEscape 0 h.word) else none

/-- The lanes of an access with their addresses. -/
def MemForm.addrs (m : MemForm) (f : F64) (c : Cx) : List (Nat × DWord) := c.addresses f m.loc m.wlk m.once m.size m.ofs

/-- The fault of an access at issue (R65 step 5). -/
def MemForm.trap (m : MemForm) (h : Hdr) (f : F64) (irrev : Bool) (c : Cx) : Option Trap :=
  match accessFault c m.loc m.size (m.addrs f c) with
  | some t => some t
  | none => if m.pod && c.scope m.scope == some 6 then escape c h irrev else none

/-- An access cannot issue now (R126, R129, R191). -/
def MemForm.waits (m : MemForm) (f : F64) (c : Cx) : Bool :=
  let core := c.s.coreOfGroup c.g
  let as_ := m.addrs f c
  c.s.memoryHeld c.g (m.kind == .load) ||
    (!m.loc && c.tlbMiss (m.kind != .load) as_ && c.s.logFull core) ||
    decide (Config.outstanding <
      c.s.outstanding core + ((as_.map fun p => p.2.toNat / (if m.loc then 16 else 128)).eraseDups).length)

/-- An access is issued: its lanes go into flight, and a log entry is reserved where a translation is not at hand (R126). An irrevocable one inside a
world acts in the root view and pins the world (R201, R305, R425). -/
def MemForm.start (m : MemForm) (h : Hdr) (f : F64) (dests : List RegRef) (irrev : Bool) (c : Cx) (s : State) : State :=
  let scope := (c.scope m.scope).getD 0
  let leaves := m.pod && irrev && c.s.viewOf c.g != 0
  let s := c.advanceWalker f m.wlk s
  let s := if leaves then s.pin else s
  let s := if m.kind != .load && (s.cur.fenced || (m.ord.getLsbD 1 && decide (1 < scope))) then s.setWide else s
  let lanes := (m.addrs f c).map fun p =>
    { if m.loc then c.s.localLane c.g.block p.1 p.2 m.size else laneAt p.1 p.2 with
      data := (m.data c p.1).setWidth 128, expect := m.expect c p.1 }
  let a : Access := ⟨m.kind, m.loc, m.type, m.size, m.ord, m.pro, scope, m.qual, m.dst, leaves, [], lanes⟩
  let key := s.nextKey
  let s := c.launch h (.access a) [] dests 0 s
  if !m.loc && c.tlbMiss (m.kind != .load) (m.addrs f c) then
    { s with olog := s.olog ++ [⟨s.coreOfGroup s.cur, s.cur.block, s.cur.gidx, key, .reserved, 0, 0, m.kind != .load, 0⟩] }
  else s

/-- The checks, the stalls and the effect of what `memAccess` issues. -/
def memAccessPlan (h : Hdr) (f : F64) (m : MemForm) (ops : Cx → Bool) (uses : List Use) (dests : List RegRef) (irrev : Bool) : Plan :=
  { ops := fun c => baseOk c f m.loc m.wlk && ops c && (c.scope m.scope).isSome
    uses := baseUse f m.loc m.wlk ++ uses ++ scopeUse m.scope
    also := if m.wlk then [.wlk f.s1.toNat] else []
    mem := true
    own := m.trap h f irrev
    wait := m.waits f
    table := fun c => m.pod && c.pins irrev
    eff := m.start h f dests irrev }

/-- A memory instruction (R189, R199): after its checks it goes into flight with one lane for each enabled lane. `pod` marks the forms
of R201 that leave the package at .pod, which inside a world only `irrev` lets through. -/
def memAccess (h : Hdr) (f : F64) (m : MemForm) (ops : Cx → Bool) (uses : List Use) (dests : List RegRef) (irrev : Bool) (s : State) : Host.Outcome State Fault Refusal :=
  issue h (memAccessPlan h f m ops uses dests irrev) s

/-- No operand. -/
def noData : Cx → Nat → DWord := fun _ _ => 0

/-- The rows of a vector destination. -/
def vecRefs (r : Nat) (pair : Bool) : List RegRef := if pair then [.vec r, .vec (r + 1)] else [.vec r]

/-- A load or a store of the memory sub-format. -/
def plainForm (kind : AccKind) (loc once : Bool) (f : F64) (pro : Bool) (qual : Qual) (dst : Dst) (data : Cx → Nat → DWord) : MemForm :=
  { kind := kind, loc := loc, once := once, wlk := f.wlk, type := f.type, size := typeSize f.type, ofs := f.ofs (typeSize f.type)
    ord := f.ord, pro := pro, scope := f.scope, qual := qual, dst := dst, pod := false, data := data, expect := noData }

/-! ## Loads and stores -/

/-- A lane load. -/
def laneLoad (min : BitVec 6) (loc : Bool) (f : F64) (pro : Bool) (qual : Qual) (s : State) : Host.Outcome State Fault Refusal :=
  let pair := typeSize f.type == 8
  memAccess (hdr64 0x10 min f) f (plainForm .load loc false f pro qual (.vec f.dst.toNat pair) noData)
    (fun c => c.vecOk pair f.dst) [] (vecRefs f.dst.toNat pair) false s

/-- A lane store; a scalar datum gives every lane the same value. -/
def laneStore (min : BitVec 6) (loc : Bool) (f : F64) (qual : Qual) (s : State) : Host.Outcome State Fault Refusal :=
  let pair := typeSize f.type == 8
  memAccess (hdr64 0x10 min f) f (plainForm .store loc false f false qual .none fun c i => (c.src pair f.dst).get i)
    (fun c => c.vecOk pair f.dst || sregOk f.dst) [(f.dst, pair)] [] false s

/-- LDG (R189). -/
def execLdg (f : F64) (s : State) : Host.Outcome State Fault Refusal := laneLoad 0x00 false f f.pro .plain s
/-- STG (R189). -/
def execStg (f : F64) (s : State) : Host.Outcome State Fault Refusal := laneStore 0x01 false f .plain s
/-- LDL (R189, R193). -/
def execLdl (f : F64) (s : State) : Host.Outcome State Fault Refusal :=
  laneLoad 0x08 true f false (if f.s3Top then (if f.pro then .fec else .fe) else .plain) s
/-- STL (R189, R193). -/
def execStl (f : F64) (s : State) : Host.Outcome State Fault Refusal :=
  laneStore 0x09 true f (if f.s3Top then (if f.pro then .fee else .fef) else .plain) s
/-- SLD (R189): once, through the lane-0 address. -/
def execSld (f : F64) (s : State) : Host.Outcome State Fault Refusal :=
  memAccess (hdr64 0x10 0x10 f) f (plainForm .load false true f f.pro .plain (.sca (f.dst.toNat - 0x80)) noData)
    (fun _ => sregOk f.dst) [] [.sca (f.dst.toNat - 0x80)] false s
/-- SST (R189). -/
def execSst (f : F64) (s : State) : Host.Outcome State Fault Refusal :=
  memAccess (hdr64 0x10 0x11 f) f (plainForm .store false true f false .plain .none fun c _ => c.ssrc f.dst)
    (fun _ => sregOk f.dst) [(f.dst, true)] [] false s

/-! ## Atomics and reductions -/

/-- An atomic or a reduction (R197 to R201). -/
def atomic (min : BitVec 6) (loc old : Bool) (f : F64) (s : State) : Host.Outcome State Fault Refusal :=
  let wide := f.s3Top
  let d := f.dst.toNat
  let cas := old && f.type == 9
  memAccess (hdr64 0x10 min f) f
    { kind := .atom, loc := loc, once := false, wlk := false, type := f.type, size := if wide then 8 else 4, ofs := 0
      ord := f.ord, pro := f.pro, scope := f.scope, qual := .plain, dst := if old then .vec d wide else .none, pod := !loc
      data := fun c i => (c.src wide f.s2).get i
      expect := fun c i => if cas then (c.src wide f.dst).get i else 0 }
    (fun c => c.srcOk wide f.s2 && (!old || c.vecOk wide f.dst))
    ([(f.s2, wide)] ++ if cas then [(f.dst, wide)] else []) (if old then vecRefs d wide else []) f.wlk s

/-- ATOMG (R199). -/
def execAtomg (f : F64) (s : State) : Host.Outcome State Fault Refusal := atomic 0x03 false true f s
/-- REDG (R199). -/
def execRedg (f : F64) (s : State) : Host.Outcome State Fault Refusal := atomic 0x04 false false f s
/-- ATOML (R199). -/
def execAtoml (f : F64) (s : State) : Host.Outcome State Fault Refusal := atomic 0x0A true true f s

/-! ## PREF (R196) -/

/-- One lane of a prefetch: its translation is made, and its line brought in unless the target is .tlb; it is dropped where it
cannot proceed. -/
def prefLane (core pasid view : Nat) (f : F64) (s : State) (a : DWord) : State :=
  if a.toNat % typeSize f.type ≠ 0 then s
  else match s.translate core pasid a .load with
    | (.ok pa attr _ _, s) =>
      if f.ord = 2 ∨ (s.segAt pa).isSome ∨ s.unreachable pa 1 false ∨ s.outstanding core ≥ Config.outstanding then s
      else if f.ord = 0 then (s.coreRead core pasid view attr (lineOf pa) 128).2
      else (s.l2Read (chipOfCore core) pasid view (lineOf pa) 128).2
    | (.host e, s) => s.askHost e
    | (_, s) => s

/-- The checks, the stalls and the effect of what `execPref` issues. -/
def prefPlan (f : F64) : Plan :=
  let z := typeSize f.type
  let once := f.wlk || f.s1.toNat == 0xE4 || sregOk f.s1
  { ops := fun c => baseOk c f false f.wlk
    uses := baseUse f false f.wlk
    also := if f.wlk then [.wlk f.s1.toNat] else []
    mem := true
    wait := fun c => c.s.memoryHeld c.g true
    eff := fun c s =>
      let s' := c.advanceWalker f f.wlk s
      ((c.addresses f false f.wlk once z (f.ofs z)).map (·.2)).foldl
        (prefLane (s.coreOfGroup s.cur) (s.pasidOf s.cur) (s.viewOf s.cur) f) s' }

/-- PREF (R196). -/
def execPref (f : F64) (s : State) : Host.Outcome State Fault Refusal :=
  issue (hdr64 0x10 0x02 f) (prefPlan f) s

/-! ## FENCE (R202, R203) -/

/-- The conditions of a fence hold for a group's flights: for .rel, those of a release (R303); for .acq, every load and atomic written. -/
def State.fenceReady (s : State) (g : Group) (ord : BitVec 2) (scope : Nat) : Bool :=
  let rel := ord != 1
  let acq := ord != 2
  (!rel || s.releaseReady g g.flights scope) &&
    (!acq || g.flights.all fun f => match f.op with
      | .access a => a.kind == .store || !s.accessOpen g f && (a.lanes.any fun l => match l.st with | .logged _ _ _ => true | _ => false)
      | _ => true)

/-- Tries to end the fence that holds a group (R203). A .sc fence then waits for the first tick that begins in a later cycle. -/
def State.tryFence (s : State) (block gidx : Nat) : State :=
  match s.group? block gidx with
  | none => s
  | some g =>
    match g.hold with
    | .fence ord scope pro none =>
      if !s.fenceReady g ord scope then s
      else
        let core := s.coreOfGroup g
        let pasid := s.pasidOf g
        let view := s.viewOf g
        let s := if ord != 1 then s.release core pasid view scope else s
        let s := if ord != 2 then
            (if pro then s.probe core pasid (worldScope view scope) everyLine else s).acquire core pasid view scope else s
        s.onGroup block gidx fun g =>
          { g with hold := if ord = 0 then .fence ord scope pro (some (max (s.hbeat.toNat + 1) (s.cycle / Config.tick + 1))) else .free }
    | _ => s

/-- The checks, the stalls and the effect of what `execFence` issues. -/
def fencePlan (f : F64) : Plan :=
  { ops := fun c => match c.scope f.scope with | some k => !(f.ord == 0 && k == 6) | none => false
    uses := scopeUse f.scope
    mem := true
    acts := f.ord != 1
    wait := fun c => !(c.s.pendingLog c.g).isEmpty || c.s.memoryHeld c.g false
    eff := fun c s =>
      let scope := (c.scope f.scope).getD 0
      let s : State := if f.ord != 1 && 1 < scope then { s with cur := { s.cur with fenced := true } } else s
      ({ s with cur := { s.cur with hold := .fence f.ord scope f.pro none } } : State).tryFence s.cur.block s.cur.gidx }

/-- FENCE (R203). Class B: the group issues nothing more until its condition holds. -/
def execFence (f : F64) (s : State) : Host.Outcome State Fault Refusal :=
  issue (hdr64 0x10 0x18 f) (fencePlan f) s

end Sys2Proof.Machine
end

