-- ==== Sys2Proof/Machine/Barrier.lean ====
section
/-! DEFINITION. Barriers (R345 to R350): phases as the least count of arrivals among the members that remain (log 15), BAR and BARA,
and the completion of phases. -/

namespace Sys2Proof.Machine

/-! ## Launches and their sets -/

/-- Blocks of a launch (R336). -/
def Launch.total (l : Launch) : Nat := l.rc.gridx * l.rc.gridy * l.rc.gridz

/-- The coordinates of a linear index (R336). -/
def LaunchRec.coords (r : LaunchRec) (lin : Nat) : Nat × Nat × Nat :=
  (lin % r.gridx, lin / r.gridx % r.gridy, lin / (r.gridx * r.gridy))

/-- A block belongs to a set (R340). -/
def SetEntry.has (e : SetEntry) (r : LaunchRec) (lin : Nat) : Bool :=
  if e.kind = 0 then
    let (x, y, z) := r.coords lin
    let ok (k v : Nat) : Bool := decide ((e.lo[k]?).getD 0 ≤ v) && decide (v < (e.hi[k]?).getD 0)
    ok 0 x && ok 1 y && ok 2 z
  else e.bits.contains lin

/-- The sets of a block, in ascending set number: its own numbers 0 to 3 (R341). -/
def Launch.setsOf (l : Launch) (lin : Nat) : List Nat :=
  (List.range l.sets.length).filter fun j => match l.sets[j]? with
    | some e => e.has l.rc lin
    | none => false

/-- A block of the launch waits to be placed. -/
def Launch.unplaced (l : Launch) (lin : Nat) : Bool :=
  (decide (l.nextBlk ≤ lin) && decide (lin < l.total) && !l.withdrawn.contains lin && !l.ahead.contains lin) || l.again.contains lin

/-! ## Phases -/

/-- The arrivals of each thread of a group at a barrier. -/
def Group.counts (g : Group) (b : BarRef) : Lanes Nat :=
  match g.arrivals.find? (·.bar == b) with
  | some c => c.count
  | none => Lanes.const 0

/-- The arrivals of a group: those that every thread that has not exited has made; none where all have exited (R345). -/
def Group.arrived (g : Group) (b : BarRef) : Option Nat := least ((lanesOf g.act).map (g.counts b).get)

/-- The arrivals of a block: those that every group that has not completed has made. -/
def State.blockArrived (s : State) (block : Nat) (b : BarRef) : Option Nat :=
  least ((s.groups.filter (·.block == block)).filterMap (·.arrived b))

/-- The phase of the barrier of some blocks of a launch: 0 while one of them is not placed, otherwise what every one of them has
made, under the name that `own` gives the barrier in each; none where none is left. -/
def State.launchPhase (s : State) (l : Launch) (member : Nat → Bool) (own : Nat → BarRef) : Option Nat :=
  if (List.range l.total).any fun lin => l.unplaced lin && member lin then some 0
  else least ((s.blocks.filter fun x => x.launch == l.key && member x.lin && x.res != .discarded).filterMap
    fun x => s.blockArrived x.key (own x.lin))

/-- The phase of the barrier of set `j` of a launch: each block names it by its own number. -/
def State.setPhase (s : State) (l : Launch) (j : Nat) : Option Nat :=
  s.launchPhase l (fun lin => (l.setsOf lin).contains j) fun lin => ⟨.set, (l.setsOf lin).findIdx (· == j)⟩

/-- The current phase of a barrier as a group names it; none where no member is left that could arrive. -/
def State.phase (s : State) (g : Group) (b : BarRef) : Option Nat :=
  match b.level, s.blockOf g, s.launchOf g with
  | .grp, _, _ => g.arrived b
  | .blk, _, _ => s.blockArrived g.block b
  | .set, some bk, some l =>
    match (l.setsOf bk.lin)[b.id]? with
    | some j => s.setPhase l j
    | none => none
  | .launch, _, some l => s.launchPhase l (fun _ => true) fun _ => b
  | _, _, _ => none

/-- The barrier's current phase is beyond `p`. -/
def State.phaseOver (s : State) (g : Group) (b : BarRef) (p : Nat) : Bool :=
  match s.phase g b with
  | some q => decide (p < q)
  | none => true

/-! ## Completion -/

/-- The reduction of a phase of a set (R348). -/
def reduceContribs (op : BitVec 2) : List DWord → DWord
  | [] => 0
  | v :: vs => vs.foldl (fun a x => if op = 1 then a + x else if op = 2 then (if a < x then x else a) else (if x < a then x else a)) v

/-- A group's threads whose phase has completed go on, the acquire of R347 is made, and the reductions of completed phases are written, to a group
whose handler has ended its threads' waits too (R333, R348; DEDUCED, log 93). -/
def State.resumeGroup (s0 : State) (s : State) (g : Group) : State :=
  let done := (lanesOf (g.blk ||| g.handler.blk)).filterMap fun i => match g.barw.get i with
    | some w => if s0.phaseOver g w.bar w.phase then some (i, w) else none
    | none => none
  let l := s0.launchOf g
  let ended (set phase : Nat) : Bool := match l.bind fun l => s0.setPhase l set with
    | some q => decide (phase < q)
    | none => true
  let value (set phase : Nat) (op : BitVec 2) : DWord :=
    reduceContribs op ((((l.map (·.contribs)).getD []).filter fun c => c.set == set && c.phase == phase).map (·.value))
  let sums := g.flights.filterMap fun f => match f.op with
    | .reduce set phase op dst => if ended set phase then some { f with writes := [.sca dst (value set phase op)] } else none
    | _ => none
  if done = [] && sums = [] then s
  else
    let mask := maskOf fun i => done.any (·.1 == i)
    let s := match (done.filterMap fun p : Nat × BarWait => p.2.scope) with
      | [] => s
      | k :: ks => s.acquire (s.coreOfGroup g) (s.pasidOf g) (s.viewOf g) (ks.foldl max k)
    s.onGroup g.block g.gidx fun x =>
      let x := sums.foldl (fun (x : Group) f => x.complete s f) x
      { x with
        blk := x.blk &&& ~~~mask
        handler := { x.handler with blk := x.handler.blk &&& ~~~mask }
        barw := Lanes.ofFn fun i => if lane mask i then none else x.barw.get i }

/-- Every phase that has its arrivals completes (R346): its waiters go on, and groups stalled ahead of it try again. -/
def State.settleBars (s : State) : State :=
  let t := s.groups.foldl (fun u g => State.resumeGroup s u g) s
  let kept (l : Launch) (c : Contribution) : Bool := match s.setPhase l c.set with
    | some q => decide (q ≤ c.phase)
    | none => false
  ({ t with launches := t.launches.map fun l => { l with contribs := l.contribs.filter (kept l) } } : State).wake

/-! ## BAR and BARA -/

/-- The level of MOD[61:60] (R350). -/
def barLevel (m : BitVec 2) : BarLevel :=
  match m.toNat with
  | 0 => .grp
  | 1 => .blk
  | 2 => .set
  | _ => .launch

/-- The id, the scope code and .nofence of imm16. -/
def barId (f : F64) : Nat := (f.imm16.extractLsb' 0 4).toNat
def barScope (f : F64) : BitVec 3 := f.imm16.extractLsb' 4 3
def barNofence (f : F64) : Bool := f.imm16.getLsbD 7

/-- The set entry that a block's own number names. -/
def State.setEntry (s : State) (g : Group) (id : Nat) : Option (Nat × SetEntry) :=
  match s.blockOf g, s.launchOf g with
  | some b, some l => (l.setsOf b.lin)[id]?.bind fun j => l.sets[j]?.map fun e => (j, e)
  | _, _ => none

/-- The membership scope of a barrier (R347, R341). -/
def memberScope (s : State) (g : Group) (level : BarLevel) (id : Nat) : Nat :=
  match level with
  | .grp => 0
  | .blk => if ((s.blockOf g).map (·.spread)).getD false then 2 else 1
  | .set => match s.setEntry g id with
    | some (_, e) => if e.strict then e.place else 5
    | none => 5
  | .launch => 5

/-- Block-barrier cells in use where a block's barriers run (R349). -/
def State.cellsUsed (s : State) (b : Block) : Nat :=
  let place (x : Block) : Nat := let c := coreOf (s.physId x.pasid x.home); if x.spread then clusterOfCore c else c
  ((s.blocks.filter fun x => x.resident && x.spread == b.spread && place x == place b).map (·.bcells.length)).sum

/-- Faults 3 to 5 of R350. -/
def barFault (c : Cx) (h : Hdr) (f : F64) : Option Trap :=
  let id := barId f
  let info : DWord := BitVec.ofNat 64 (f.modLow.toNat + 16 * id)
  let trap (k : Nat) : Option Trap := some (.precise k 0 info)
  let world : Option Trap := if c.s.viewOf c.g != 0 then some (.precise Cause.worldEscape 0 h.word) else none
  let cls := ((c.s.launchOf c.g).map (·.rc.cls)).getD 0
  match barLevel f.modLow with
  | .grp => none
  | .blk =>
    match c.s.blockOf c.g with
    | none => none
    | some b =>
      if b.xcells.contains id || !b.bcells.contains id && decide ((if b.spread then Config.clusterCells else Config.coreCells) ≤ c.s.cellsUsed b) then
        trap Cause.barExhaust
      else none
  | .set =>
    match c.s.setEntry c.g id with
    | none => trap Cause.barClass
    | some (_, e) =>
      if !e.gang && cls != 2 then trap Cause.barClass
      else if world.isSome then world
      else if e.inTable then none else trap Cause.setExhaust
  | .launch =>
    match c.s.launchOf c.g with
    | none => trap Cause.barClass
    | some l =>
      if !l.rc.lbars.getLsbD id || cls != 2 then trap Cause.barClass
      else if world.isSome then world
      else if l.lcells.contains id then none else trap Cause.barExhaust

/-- A block barrier for which no cell was free stays exhausted, for every member (R393). -/
def State.exhausts (s : State) (f : F64) (tr : Option Trap) : State :=
  if (tr.map (·.cause)) = some Cause.barExhaust ∧ barLevel f.modLow = .blk then
    s.onBlock s.cur.block fun b => { b with xcells := insertNat (barId f) b.xcells }
  else s

/-- The arrivals of the lanes of a mask rise by one. -/
def Group.arrive (g : Group) (b : BarRef) (mask : DWord) : Group :=
  let n := g.counts b
  let c : BarCount := ⟨b, Lanes.ofFn fun i => if lane mask i then n.get i + 1 else n.get i⟩
  { g with arrivals := g.arrivals.filter (·.bar != b) ++ [c] }

/-- A contribution takes the place of the group's earlier one to the same phase (R348). -/
def Launch.contribute (l : Launch) (x : Contribution) : Launch :=
  { l with contribs := l.contribs.filter (fun c =>
      !(c.set == x.set && c.phase == x.phase && c.lin == x.lin && c.gidx == x.gidx)) ++ [x] }

/-- The scope of an arrival and of a resumption (R347). -/
def barReach (c : Cx) (f : F64) : Nat := max ((c.scope (barScope f)).getD 0) (memberScope c.s c.g (barLevel f.modLow) (barId f))

/-- The checks, the stalls and the effect of what `barrier` issues. -/
def barrierPlan (min : BitVec 6) (waits : Bool) (f : F64) : Plan :=
  let h := hdr64 0x19 min f
  let level := barLevel f.modLow
  let b : BarRef := ⟨level, barId f⟩
  let red := f.modHigh != 0
  { ops := fun c => (!red || (sregOk f.s1 && (!waits || sregOk f.dst))) && (c.scope (barScope f)).isSome
    uses := (if red then [(f.s1, true)] else []) ++ scopeUse (barScope f)
    acts := !barNofence f
    own := fun c => barFault c h f
    mark := fun c s => s.exhausts f (barFault c h f)
    wait := fun c =>
      (lanesOf c.en).any (fun i => match c.s.phase c.g b with
        | some cur => decide (cur + 1 < (c.g.counts b).get i)
        | none => false) ||
        (!barNofence f && (!c.s.releaseReady c.g c.g.flights (barReach c f) || c.s.memoryHeld c.g false))
    eff := fun c s =>
      let n := c.g.counts b
      let scope := barReach c f
      let g := s.cur
      let s := if barNofence f then s else s.release (s.coreOfGroup g) (s.pasidOf g) (s.viewOf g) scope
      let s := if 1 < scope then s.setWide else s
      let s := if level == .blk then s.onBlock g.block fun x => { x with bcells := insertNat b.id x.bcells } else s
      let phases := ((lanesOf c.en).map n.get).eraseDups
      let s := match red, c.s.setEntry c.g b.id, c.s.blockOf c.g with
        | true, some (j, _), some bk =>
          s.onLaunch bk.launch fun l => phases.foldl (fun (l : Launch) p =>
            l.contribute ⟨j, p, bk.lin, g.gidx, f.modHigh, c.ssrc f.s1⟩) l
        | _, _, _ => s
      let s : State := { s with cur := s.cur.arrive b c.en }
      let s : State :=
        if !waits then s
        else
          let acq : Option Nat := if barNofence f then none else some scope
          let s := match red, c.s.setEntry c.g b.id with
            | true, some (j, _) => phases.foldl (fun s p =>
                c.launch h (.reduce j p f.modHigh (f.dst.toNat - 0x80)) [] [.sca (f.dst.toNat - 0x80)] 0 s) s
            | _, _ => s
          { s with cur := { s.cur.blockThreads c.en with
              barw := Lanes.ofFn fun i => if lane c.en i then some ⟨b, n.get i, acq⟩ else s.cur.barw.get i } }
      s.settleBars }

/-- BAR, which waits, or BARA (R346 to R350). Its release asks what a store with .rel at its scope would (R192, R303, R347), and it waits behind earlier
acquires (R291). -/
def barrier (min : BitVec 6) (waits : Bool) (f : F64) (s : State) : Host.Outcome State Fault Refusal :=
  issue (hdr64 0x19 min f) (barrierPlan min waits f) s

/-- BAR (R346, R350). -/
def execBar (f : F64) (s : State) : Host.Outcome State Fault Refusal := barrier 0x00 true f s
/-- BARA (R346, R350). -/
def execBara (f : F64) (s : State) : Host.Outcome State Fault Refusal := barrier 0x01 false f s

end Sys2Proof.Machine
end

