-- ==== Sys2Proof/Machine/Control.lean ====
section
/-! DEFINITION. Control instructions (R43 to R46, R69, R351 to R358), resizing (R364) and the system instructions of R134, R135 and R387
to R391. -/

namespace Sys2Proof.Machine

/-! ## Branches -/

/-- The address `off` halfwords from the instruction (R41). -/
def target (c : Cx) (off : BitVec 57) : BitVec 57 := c.run.pc + (off <<< 1)
/-- The offset of I24 and of I16. -/
def F64.off24 (f : F64) : BitVec 57 := f.imm24.signExtend 57
def F64.off16 (f : F64) : BitVec 57 := f.imm16.signExtend 57

/-- A target, link or return-address operand: an even vector register of 64 bits a lane, or a scalar register (R351). -/
def targetOk (c : Cx) (code : BitVec 8) : Bool := sregOk code || c.vecOk true code

/-- MISALIGN of the lowest of some lanes whose target has bit 0 set (R41, R352). -/
def oddTarget (c : Cx) (code : BitVec 8) (mask : DWord) : Option Trap :=
  let v := c.src true code
  ((lanesOf mask).find? fun i => (v.get i).getLsbD 0).map fun i => .precise Cause.misalign (v.get i) (BitVec.ofNat 64 i)

/-- Threads of a mask go to an address each, at a depth each. -/
def goTo (pc : Nat → BitVec 57) (depth : Nat → BitVec 8) (mask : DWord) (s : State) : State :=
  { s with cur := s.cur.setPcs pc depth mask }

/-- Threads of the issuing group exit (R355); barriers count them no more (R345). -/
def exitNow (c : Cx) (mask : DWord) (s : State) : State := ({ s with cur := s.cur.exitThreads mask c.t } : State).settleBars

/-- BRA (R352). -/
def execBra (f : F64) (s : State) : Host.Outcome State Fault Refusal :=
  issue (hdr64 0x18 0x00 f)
    { eff := fun c => goTo (fun _ => target c (F64.off24 f)) (fun _ => c.run.depth) c.en } s

/-- BRC (R353): the whole run, on any, all or none of its lanes in pC. -/
def execBrc (f : F64) (s : State) : Host.Outcome State Fault Refusal :=
  issue (hdr64 0x18 0x01 f)
    { ops := fun _ => predOk f.dst
      also := [.prd f.dst.toNat]
      eff := fun c s =>
        let x := c.run.mask &&& c.preg f.dst.toNat
        let taken := match f.modLow.toNat with
          | 0 => x != 0
          | 1 => x == c.run.mask
          | _ => x == 0
        if taken then goTo (fun _ => target c (F64.off24 f)) (fun _ => c.run.depth) c.run.mask s else s } s

/-- BRX (R352). -/
def execBrx (f : F64) (s : State) : Host.Outcome State Fault Refusal :=
  issue (hdr64 0x18 0x02 f)
    { ops := fun c => targetOk c f.s1
      uses := [(f.s1, true)]
      own := fun c => oddTarget c f.s1 c.en
      eff := fun c => goTo (fun i => ((c.src true f.s1).get i).setWidth 57) (fun _ => c.run.depth) c.en } s

/-- BRW (R353): the whole run, on a walker's end flag; an unbound walker has every flag 0. -/
def execBrw (f : F64) (s : State) : Host.Outcome State Fault Refusal :=
  issue (hdr64 0x18 0x03 f)
    { ops := fun _ => walkerOk f.s1
      also := [.wlk f.s1.toNat]
      eff := fun c s =>
        let w := c.walker f.s1.toNat
        let flag := w.bound && w.endf.getLsbD f.modLow.toNat
        if flag != f.modBit 2 then goTo (fun _ => target c (F64.off16 f)) (fun _ => c.run.depth) c.run.mask s else s } s

/-- CALL and CALLX (R354): the link goes to vL, the depth rises, and the threads go to their targets. -/
def callTo (min : BitVec 6) (f : F64) (ops : Cx → Bool) (uses : List Use) (own : Cx → Option Trap)
    (dest : Cx → Nat → BitVec 57) (s : State) : Host.Outcome State Fault Refusal :=
  let h := hdr64 0x18 min f
  issue h
    { ops := fun c => c.vecOk true f.dst && ops c
      uses := uses
      own := fun c =>
        if c.run.depth = 255 then some (.precise Cause.softTrap 0 0x100) else own c
      eff := fun c s =>
        let link := (c.run.pc + 8).setWidth 64
        let s : State := { s with cur := s.cur.writeNow (.vec f.dst.toNat true c.en (Lanes.const link)) }
        goTo (dest c) (fun _ => c.run.depth + 1) c.en s } s

/-- CALL (R354). -/
def execCall (f : F64) (s : State) : Host.Outcome State Fault Refusal :=
  callTo 0x04 f (fun _ => true) [] (fun _ => none) (fun c _ => target c (F64.off24 f)) s
/-- CALLX (R354). -/
def execCallx (f : F64) (s : State) : Host.Outcome State Fault Refusal :=
  callTo 0x05 f (fun c => targetOk c f.s1) [(f.s1, true)] (fun c => oddTarget c f.s1 c.en)
    (fun c i => ((c.src true f.s1).get i).setWidth 57) s

/-- RET (R354): threads at depth 0 exit, the others return one level up. A run's threads have one depth (R331). -/
def execRet (f : F64) (s : State) : Host.Outcome State Fault Refusal :=
  issue (hdr64 0x18 0x06 f)
    { ops := fun c => targetOk c f.s1
      uses := [(f.s1, true)]
      own := fun c => if c.run.depth = 0 then none else oddTarget c f.s1 c.en
      eff := fun c s =>
        if c.run.depth = 0 then exitNow c c.en s
        else goTo (fun i => ((c.src true f.s1).get i).setWidth 57) (fun _ => c.run.depth - 1) c.en s } s

/-- EXIT (R355): every enabled thread. -/
def execExit (f : F64) (s : State) : Host.Outcome State Fault Refusal :=
  issue (hdr64 0x18 0x07 f) { exits := true, eff := fun c => exitNow c c.en } s
/-- EXIT, 16-bit (R44, R355): every thread of the run. -/
def execExit16 (s : State) : Host.Outcome State Fault Refusal :=
  issue (hdr16 0x0036 .c false true) { exits := true, eff := fun c => exitNow c c.en } s
/-- BRS (R45): every lane of the run. -/
def execBrs (o : BitVec 12) (s : State) : Host.Outcome State Fault Refusal :=
  issue (hdr16 (o ++ 0xA#4) .c false true)
    { eff := fun c => goTo (fun _ => target c (o.signExtend 57)) (fun _ => c.run.depth) c.en } s

/-! ## WAIT, YIELD and hints -/

/-- Every counter that a mask names reads zero. -/
def countersZero (g : Group) (m : BitVec 12) : Bool := (List.range 12).all fun f => !m.getLsbD f || g.counter f == 0

/-- The checks, the stalls and the effect of WAIT where its group does not wait on it already. -/
def waitPlan (m : BitVec 12) : Plan :=
  { names := m
    wait := fun c => c.g.run.pos != 0 && !countersZero c.g m
    eff := fun c s =>
      if countersZero s.cur m then s
      else goTo (fun _ => c.run.pc) (fun _ => c.run.depth) c.run.mask { s with cur := { s.cur with hold := .wait m } } }

/-- WAIT (R43, R357): it takes its issue slot, and the group then issues nothing further until every named counter reads zero. While
it waits its PC stays on it (R404), and a fault due at it is delivered (R131). -/
def execWait (m : BitVec 12) (s : State) : Host.Outcome State Fault Refusal :=
  match s.cur.hold, s.cur.nextRun with
  | .wait n, some r =>
    match s.cur.dueDeferred (waitPlan n) with
    | some d =>
      let t := s.issueCycle 0
      .next (({ s with cur := s.cur.land s t } : State).deliver d r t)
    | none =>
      if countersZero s.cur n then .next { s with cur := { (s.cur.advance r 2) with hold := .free } } else .next s
  | _, _ => issue (hdr16 (m ++ 0x2#4) .c false true) (waitPlan m) s

/-- YIELD (R357): the yield bits of the run are set, and the group becomes the youngest. -/
def execYield (s : State) : Host.Outcome State Fault Refusal :=
  issue (hdr16 0x0016 .c false true)
    { eff := fun c s =>
        let g := s.cur
        let age := (s.groups.map (·.age)).foldl max 0 + 1
        { s with cur :=
            { (if g.priv then { g with handler := { g.handler with yld := g.handler.yld ||| c.run.mask } }
               else { g with yld := g.yld ||| c.run.mask }) with age := age } } } s

/-- NOP, 16-bit (R44). -/
def execNop16 (imm : BitVec 8) (s : State) : Host.Outcome State Fault Refusal :=
  issue (hdr16 (imm ++ 0x06#8) .c false true) {} s
/-- The hint of a 32-bit word (R69): only LEN, DIST and HOLD count. -/
def execNop32 (f : F32) (s : State) : Host.Outcome State Fault Refusal :=
  issue { hdr32 0x3F f with lat := .hint, latch := false, nowb := false } {} s
/-- The hint of a 64-bit word (R69). -/
def execNop64 (minor : BitVec 6) (f : F64) (s : State) : Host.Outcome State Fault Refusal :=
  issue { hdr64 0x3F minor f with cnt := 15, pred := 0, pneg := false, nowb := false } {} s

/-- ILLEGAL_INSTR (R46, R65 step 1). -/
def execIllegalInstr (w : DWord) (s : State) : Host.Outcome State Fault Refusal :=
  let len := lengthOf w
  issue ⟨len, w, if len = 2 then 0 else (w.extractLsb' 2 3).toNat, false, false, .c, false, 15, 0, false, true⟩ { bad := true } s

/-! ## TRAP and BRK -/

/-- SOFT_TRAP or BREAKPOINT (R388): XSCR holds the next instruction. -/
def raiseNow (h : Hdr) (cause : Nat) (imm : BitVec 8) (s : State) : Host.Outcome State Fault Refusal :=
  issue h
    { own := fun c =>
        some { Trap.precise cause 0 (imm.setWidth 64) with xscr := some (c.run.pc + BitVec.ofNat 57 h.len) } } s

/-- TRAP, 16-bit. -/
def execTrap16 (imm : BitVec 8) (s : State) : Host.Outcome State Fault Refusal :=
  raiseNow (hdr16 (imm ++ 0x46#8) .c false true) Cause.softTrap imm s
/-- BRK, 16-bit. -/
def execBrk16 (imm : BitVec 8) (s : State) : Host.Outcome State Fault Refusal :=
  raiseNow (hdr16 (imm ++ 0x26#8) .c false true) Cause.breakpoint imm s
/-- TRAP (R388). -/
def execTrap (f : F64) (s : State) : Host.Outcome State Fault Refusal :=
  raiseNow (hdr64 0x1A 0x00 f) Cause.softTrap (f.imm16.extractLsb' 0 8) s
/-- BRK (R388). -/
def execBrk (f : F64) (s : State) : Host.Outcome State Fault Refusal :=
  raiseNow (hdr64 0x1A 0x01 f) Cause.breakpoint (f.imm16.extractLsb' 0 8) s

/-- XRET (R389). -/
def execXret (f : F64) (s : State) : Host.Outcome State Fault Refusal :=
  issue (hdr64 0x1A 0x02 f)
    { secret := true
      eff := fun c s => ({ s with cur := s.cur.returnThreads c.en c.t } : State).settleBars } s

/-! ## ELECT, SLEEP -/

/-- The highest lane of a mask. -/
def highestLane (m : DWord) : Nat := ((lanesOf m).getLast?).getD 0

/-- ELECT (R356): all 64 bits of pD. -/
def execElect (f : F64) (s : State) : Host.Outcome State Fault Refusal :=
  let h := hdr64 0x19 0x02 f
  issue h
    { ops := fun _ => predOk f.dst
      eff := fun c s =>
        let i := if f.modBit 0 then highestLane c.en else ((lanesOf c.en).head?).getD 0
        c.finish h [.prd f.dst.toNat allOnes (1#64 <<< i)] 0 s } s

/-- SLEEP (R358). -/
def execSleep (f : F64) (s : State) : Host.Outcome State Fault Refusal :=
  issue (hdr64 0x19 0x03 f)
    { ops := fun _ => sregOk f.s1 || f.s1 == 0xE4
      uses := [(f.s1, true)]
      eff := fun c s =>
        let a := if sregOk f.s1 then (c.ssrc f.s1).toNat % 2 ^ 32 else 0
        let t := min (a + f.imm16.toNat) (2 ^ 32 - 1)
        { s with cur := { s.cur with hold := .sleep (s.hbeat.toNat + t + 1) } } } s

/-! ## Resizing: R364 -/

/-- Register rows that a group holds; its shadow has as many (R464). -/
def Group.rows (g : Group) : Nat := g.alloc * (if g.shadow then 2 else 1)

/-- Groups that stand on a core. -/
def State.groupsOn (s : State) (core : Nat) : List Group :=
  s.groups.filter fun g => s.coreOfGroup g == core && ((s.blockOf g).map (·.resident)).getD false

/-- Free register rows of a core (R35). -/
def State.freeRows (s : State) (core : Nat) : Nat := Config.rows - ((s.groupsOn core).map (·.rows)).sum

/-- A group takes all the rows it has asked for where its core has them (R364): the new registers read zero. -/
def State.tryGrow (s : State) (block gidx : Nat) : State :=
  match s.group? block gidx with
  | none => s
  | some g =>
    match g.hold with
    | .grow n =>
      if !s.isResident g.block || s.freeRows (s.coreOfGroup g) < (n - g.alloc) * (if g.shadow then 2 else 1) then s
      else s.onGroup block gidx fun g =>
        { g with
          alloc := n
          hold := .free
          vregs := (List.range 128).foldl (fun v r => if g.alloc ≤ r then v.setIfInBounds r (Lanes.const 0) else v) g.vregs }
    | _ => s

/-- The allocation that imm16 asks for. -/
def allocOk (n : Nat) : Bool := n % 4 == 0 && 4 ≤ n && n ≤ 128

/-- The checks, the stalls and the effect of what `execReggrow` issues. -/
def reggrowPlan (f : F64) : Plan :=
  let n := f.imm16.toNat
  { ops := fun _ => allocOk n
    own := fun c =>
      let core := c.s.coreOfGroup c.g
      let others := (c.s.groups.filter fun g => g.block == c.g.block && g.gidx != c.g.gidx && c.s.coreOfGroup g == core).map (·.alloc)
      if Config.rows < n + others.sum then some (.precise Cause.regExhaust 0 (BitVec.ofNat 64 n)) else none
    eff := fun _ s =>
      if n ≤ s.cur.alloc then s
      else ({ s with cur := { s.cur with hold := .grow n } } : State).tryGrow s.cur.block s.cur.gidx }

/-- REGGROW (R364). -/
def execReggrow (f : F64) (s : State) : Host.Outcome State Fault Refusal :=
  issue (hdr64 0x19 0x06 f) (reggrowPlan f) s

/-- Registers from vn up are lost, and what is outstanding to them is discarded (R364). -/
def Group.shrink (g : Group) (n : Nat) : Group :=
  let lost : RegRef → Bool
    | .vec r => decide (n ≤ r)
    | _ => false
  { g with
    alloc := n
    poison := g.poison.filter fun r => !lost r
    flights := g.flights.map fun f =>
      { f with
        writes := f.writes.filter fun w => !w.refs.any lost
        dests := f.dests.filter fun r => !lost r
        op := match f.op with
          | .access a =>
            let gone := match a.dst with
              | .vec r _ => decide (n ≤ r)
              | .planes r _ _ => decide (n ≤ r)
              | _ => false
            .access { a with dst := if gone then .none else a.dst }
          | op => op } }

/-- REGSHRINK (R364): groups that wait for rows try again. -/
def execRegshrink (f : F64) (s : State) : Host.Outcome State Fault Refusal :=
  let n := f.imm16.toNat
  issue (hdr64 0x19 0x07 f)
    { ops := fun _ => allocOk n
      eff := fun _ s => if s.cur.alloc ≤ n then s else { s with cur := s.cur.shrink n } } s

/-! ## System registers -/

/-- Registers that an unprivileged group may not name (R39, R112, R333, R383, R386). -/
def privReg (n : Nat) : Bool :=
  (0x100 ≤ n && n ≤ 0x105) || n == 0x110 || n == 0x200 || n == 0x206 || (0x240 ≤ n && n ≤ 0x284)

/-- Registers that a chapter assigns. -/
def knownReg (n : Nat) : Bool :=
  n ≤ 4 || privReg n || (0x200 ≤ n && n ≤ 0x207) || n == 0x210 || n == 0x211

/-- The number that imm16 names. -/
def regNum (f : F64) : Nat := (f.imm16.extractLsb' 0 12).toNat

/-- A system register as MFX reads it, zero-extended (R390). -/
def sysRead (s : State) (n : Nat) : DWord :=
  let g := s.cur
  let ctx (f : Context → DWord) : DWord := ((s.ctxOf g).map f).getD 0
  match n with
  | 0x000 => g.fpst
  | 0x001 => s.hbeat
  | 0x002 => ctx fun c => c.shape.setWidth 64
  | 0x003 => ctx (·.sdtbase)
  | 0x004 => ctx fun c => c.budget.setWidth 64 ||| (c.live.setWidth 64 <<< 8) ||| (c.grant.setWidth 64 <<< 16)
  | 0x100 => g.x.xpc
  | 0x101 => g.x.xcause
  | 0x102 => g.x.xstat
  | 0x103 => g.x.xaddr
  | 0x104 => g.x.xinfo
  | 0x105 => g.x.xscr
  | 0x110 => ctx (·.xvec)
  | 0x200 => ctx (·.ptroot)
  | 0x201 => ctx fun c => BitVec.ofNat 64 c.pasid
  | 0x202 => ctx (·.tsbase)
  | 0x203 => ctx (·.winbase)
  | 0x204 => ctx (·.qbase)
  | 0x205 => ctx (·.vpbase)
  | 0x206 => ctx (·.xdump)
  | 0x207 => ctx fun c => c.vpsize.setWidth 64
  | 0x210 => s.mxemu
  | 0x211 => ctx (·.mxfmt)
  | 0x280 => g.actW.getD g.act
  | 0x281 => g.blkW.getD g.blk
  | 0x282 => g.yldW.getD g.yld
  | 0x283 => g.x.pcrun
  | 0x284 => g.x.xdepth
  | n => ((g.depth.get (n - 0x240)).setWidth 64 <<< 56) ||| ((g.pc.get (n - 0x240)).setWidth 64 >>> 1)

/-- MFX (R390). -/
def execMfx (f : F64) (s : State) : Host.Outcome State Fault Refusal :=
  let h := hdr64 0x1A 0x03 f
  issue h
    { secret := privReg (regNum f)
      ops := fun _ => sregOk f.dst && knownReg (regNum f)
      eff := fun c s => c.finish h [.sca (f.dst.toNat - 0x80) (sysRead c.s (regNum f))] 0 s } s

/-- Changes the context of the issuing group. -/
def State.onCtxOf (s : State) (f : Context → Context) : State := s.onCtx (s.pasidOf s.cur) f

/-- An MTX: `write` is what the register makes of the value. FPST aside, an unprivileged group leaves it unchanged (R39). -/
def moveTo (f : F64) (write : DWord → State → State) (s : State) : Host.Outcome State Fault Refusal :=
  let n := regNum f
  issue (hdr64 0x1A 0x04 f)
    { secret := privReg n
      ops := fun _ => sregOk f.s1 && knownReg n
      uses := [(f.s1, true)]
      eff := fun c s => if n == 0 || s.cur.priv then write (c.ssrc f.s1) s else s } s

/-- What MTX makes of a register without behaviour of its own (R333, R383, R386, R38); a read-only one stays (R10). -/
def sysWrite (n : Nat) (v : DWord) (s : State) : State :=
  let g := s.cur
  let x (r : TrapRegs) : State := { s with cur := { g with x := r } }
  match n with
  | 0x000 => { s with cur := { g with fpst := v &&& 0x1F } }
  | 0x101 => x { g.x with xcause := v &&& 0x3F }
  | 0x102 => x { g.x with xstat := v &&& 0x3FFFFF }
  | 0x103 => x { g.x with xaddr := v }
  | 0x104 => x { g.x with xinfo := v }
  | 0x105 => x { g.x with xscr := addrField v }
  | 0x110 => s.onCtxOf fun c => { c with xvec := addrField v }
  | 0x206 => s.onCtxOf fun c => { c with xdump := addrField v }
  | 0x280 => { s with cur := { g with actW := some v } }
  | 0x281 => { s with cur := { g with blkW := some v } }
  | 0x282 => { s with cur := { g with yldW := some v } }
  | n =>
    if 0x240 ≤ n ∧ n < 0x280 then
      let one : DWord := 1#64 <<< (n - 0x240)
      { s with cur := { g with
          pc := mergeLanes one (Lanes.const ((v.setWidth 57) <<< 1)) g.pc
          depth := mergeLanes one (Lanes.const (v.extractLsb' 56 8)) g.depth } }
    else s

/-- MTX (R390). -/
def execMtx (f : F64) (s : State) : Host.Outcome State Fault Refusal := moveTo f (sysWrite (regNum f)) s

/-- XPC or XDEPTH written: every lane of PCRUN takes it in its PCT register (R389). -/
def writeXpc (n : Nat) (v : DWord) (s : State) : State :=
  let g := s.cur
  if n = 0x100 then
    { s with cur := { g with
        x := { g.x with xpc := addrField v }
        pc := mergeLanes g.x.pcrun (Lanes.const ((addrField v).setWidth 57)) g.pc } }
  else
    { s with cur := { g with
        x := { g.x with xdepth := v &&& 0xFF }
        depth := mergeLanes g.x.pcrun (Lanes.const (v.setWidth 8)) g.depth } }

/-- MTX to XPC or XDEPTH (R389). -/
def execMtxXpc (f : F64) (s : State) : Host.Outcome State Fault Refusal := moveTo f (writeXpc (regNum f)) s
/-- MTX to VBUDGET (R417): BUDGET takes the lesser of the value and GRANT. -/
def execMtxVbudget (f : F64) (s : State) : Host.Outcome State Fault Refusal :=
  moveTo f (fun v s => s.onCtxOf fun c => { c with budget := if (v.setWidth 8 : BitVec 8) < c.grant then v.setWidth 8 else c.grant }) s

/-- Writes held for want of a view-pool slot are performed (R416). -/
def State.performHeld (s : State) (pasid : Nat) : State :=
  let refs := (s.groups.filter fun g => s.pasidOf g == pasid).flatMap fun g => g.flights.filterMap fun f => match f.op with
    | .access a => if a.held != [] then some (⟨g.block, g.gidx, f.key⟩ : FRef) else none
    | _ => none
  refs.foldl (fun s r => s.perform r []) s

/-- MTX to VPSIZE (R414, R416): PAGES is never lowered; raised, it lets held writes go on. -/
def execMtxVpsize (f : F64) (s : State) : Host.Outcome State Fault Refusal :=
  moveTo f (fun v s =>
    let n : Word := v.setWidth 32
    (s.onCtxOf fun c => { c with vpsize := if c.vpsize < n then n else c.vpsize }).performHeld (s.pasidOf s.cur)) s
/-- MTX to VPBASE (R414): unchanged while any view is live. -/
def execMtxVpbase (f : F64) (s : State) : Host.Outcome State Fault Refusal :=
  moveTo f (fun v s => s.onCtxOf fun c => if c.live = 0 then { c with vpbase := v &&& 0x01FFFFFFFFFFF000 } else c) s

/-! ## TLBINV and ICINV -/

/-- The checks, the stalls and the effect of what `execTlbinv` issues. -/
def tlbinvPlan (f : F64) : Plan :=
  let h := hdr64 0x1A 0x05 f
  let form := f.modLow.toNat
  { secret := true
    ops := fun c => (form == 2 || sregOk f.s1) && (form != 1 || sregOk f.s2) && (c.scope (f.s3.extractLsb' 0 3)).isSome
    uses := (if form = 2 then [] else [(f.s1, true)]) ++ (if form = 1 then [(f.s2, true)] else []) ++ scopeUse (f.s3.extractLsb' 0 3)
    eff := fun c s =>
      let base := if form = 2 then 0 else (c.ssrc f.s1).toNat % 2 ^ 57 / 4096 * 4096
      let len := match form with
        | 0 => 4096
        | 1 => (c.ssrc f.s2).toNat
        | _ => 2 ^ 57
      c.launch h (.tlbinv f.modLow base len ((c.scope (f.s3.extractLsb' 0 3)).getD 0)) [] [] 0 s }

/-- TLBINV (R134, R135). Its effect is made when it completes. -/
def execTlbinv (f : F64) (s : State) : Host.Outcome State Fault Refusal :=
  issue (hdr64 0x1A 0x05 f) (tlbinvPlan f) s

/-- ICINV (R185, R391). -/
def execIcinv (f : F64) (s : State) : Host.Outcome State Fault Refusal :=
  let h := hdr64 0x1A 0x06 f
  issue h
    { ops := fun c => (c.scope (f.s3.extractLsb' 0 3)).isSome
      uses := scopeUse (f.s3.extractLsb' 0 3)
      eff := fun c s => c.launch h (.icinv ((c.scope (f.s3.extractLsb' 0 3)).getD 0)) [] [] 0 s } s

/-- The units whose translations a TLBINV at a scope drops (R135): cores, engines, and units of the device that hold a host's answer. -/
def unitsOf (scope core unit : Nat) : Bool :=
  if unit < 128 then (coresOf scope core).contains unit
  else decide (2 ≤ scope) && (decide (deviceUnit ≤ unit) || (coresOf scope core).any fun c => engineUnit (clusterOfCore c) == unit)

/-- TLBINV completes: the translations go, and what they served is performed at .package (R135). -/
def State.finishTlbinv (s : State) (core pasid base len scope : Nat) : State :=
  let s := (coresOf scope core).foldl (fun s c => s.release c pasid 0 5) s
  s.tlbDrop (unitsOf scope core) pasid base len

/-- ICINV completes: the instruction lines of the context go, those of the batten cores, which no core's place encloses, from .package up (DEDUCED, log 94), and
from .reticle up the L2s make an acquire (R185). -/
def State.finishIcinv (s : State) (core pasid scope : Nat) : State :=
  let units := coresOf scope core ++ if 5 ≤ scope then (List.range 16).map battenUnit else []
  let s : State := { s with icache := s.icache.filter fun b => !(b.pasid == pasid && units.contains b.core) }
  if scope < 4 then s
  else { s with l2 := s.l2.filter fun c => !(chipsOf scope core).any fun k => c.stale k pasid }

end Sys2Proof.Machine
end

