-- ==== Sys2Proof/Machine/VaultOps.lean ====
section
/-! DEFINITION. PLPACK and PLUNPACK (R233, R234), the vault and segment instructions of major 0x12 (R208 to R213), and what remains of
them once issued: transits (R180), joins and leaves (R170, R171, R211, R212), full-empty changes (R213). -/

namespace Sys2Proof.Machine

/-! ## PLPACK and PLUNPACK -/

/-- Planes of a type code (R93). -/
def planeCount (t : BitVec 4) : Nat := (planeBits t).length

/-- The 128 elements of a lane form, zero in lanes not enabled (R94, R233). -/
def laneForm (c : Cx) (t : BitVec 4) (src : BitVec 8) : List Nat :=
  let w := typeBits t
  let v := c.src false src
  (List.range 128).map fun j =>
    if lane c.en (j % 64) then (v.get (j % 64)).toNat / 2 ^ (j / 64 * w) % 2 ^ w else 0

/-- The first byte of a local range that lies outside what its start names: the offending local address of LOCAL_BOUNDS (R384; DESIGN
CHOICE, log 100). -/
def State.firstOutside (s : State) (block : Nat) (a : DWord) : DWord :=
  match s.localAt block a 1 with
  | .ok (b, off) => a + BitVec.ofNat 64 ((((s.block? b).map (·.vault.size)).getD 0) - off)
  | .error _ => a

/-- MISALIGN and the local faults of a range of a block's local space, named by a scalar (R213, R234). -/
def rangeFault (s : State) (block : Nat) (a : DWord) (n align : Nat) : Option Trap :=
  if a.toNat % align ≠ 0 then some (.precise Cause.misalign a 0)
  else match s.localAt block a n with
    | .ok _ => none
    | .error e => some (.precise e (s.firstOutside block a) 0)

/-- The checks, the stalls and the effect of what `planeAccess` issues. -/
def planeAccessPlan (min : BitVec 6) (f : F64) (kind : AccKind) : Plan :=
  let h := hdr64 0x07 min f
  let n := planeCount f.type
  let store := kind == .store
  { ops := fun c => c.vecOk false f.dst && sregOk f.s1
    uses := (f.s1, true) :: if store then [(f.dst, false)] else []
    mem := true
    own := fun c => rangeFault c.s c.g.block (c.ssrc f.s1) (16 * n) 16
    wait := fun c => c.s.memoryHeld c.g (!store) || decide (Config.outstanding < c.s.outstanding (c.s.coreOfGroup c.g) + n)
    eff := fun c s =>
      let ps := if store then toPlanes f.type (laneForm c f.type f.dst) else []
      let lanes := (List.range n).map fun k =>
        { c.s.localLane c.g.block k (c.ssrc f.s1 + BitVec.ofNat 64 (16 * k)) 16 with data := BitVec.ofNat 128 ((ps[k]?).getD 0) }
      let qual : Qual := if f.modBit 0 then (if store then .fef else .fe) else .plain
      let dst : Dst := if store then .none else .planes f.dst.toNat f.type c.en
      c.launch h (.access ⟨kind, true, f.type, 16, 0, false, 0, qual, dst, false, [], lanes⟩) []
        (if store then [] else [.vec f.dst.toNat]) 0 s }

/-- A plane access: one granule for each plane, in flight as lanes of 16 bytes. -/
def planeAccess (min : BitVec 6) (f : F64) (kind : AccKind) (s : State) : Host.Outcome State Fault Refusal :=
  issue (hdr64 0x07 min f) (planeAccessPlan min f kind) s

/-- PLPACK (R233). -/
def execPlpack (f : F64) (s : State) : Host.Outcome State Fault Refusal := planeAccess 0x05 f .store s
/-- PLUNPACK (R233). -/
def execPlunpack (f : F64) (s : State) : Host.Outcome State Fault Refusal := planeAccess 0x06 f .load s

/-! ## Translation while an instruction issues (step 2 of R155) -/

/-- What a translation made at issue asks for: go on, wait for the page or the host, or trap at once. -/
inductive Sync where
  | go | wait | trap (t : Trap)
  deriving DecidableEq, Repr

/-- The translations of some pages by a group are made as far as they can be: A bits are set, and the host is asked (R118, R123). -/
def State.seekPages (s : State) (g : Group) (pages : List DWord) (w : Way) : State :=
  pages.foldl (fun s va => match s.translate (s.coreOfGroup g) (s.pasidOf g) va w with
    | (.host e, s) => s.askHost e
    | (_, s) => s) s

/-- The answer to a translation made at issue: reasons that system software answers wait, unless the answer was fatal; any other
traps at once with LOGGED = 0. -/
def syncOf (g : Group) (va : DWord) (wr : Bool) : Xlated → Sync
  | .ok _ _ _ _ => .go
  | .host _ => .wait
  | .fault reason level fw =>
    if answerable reason fw && !g.refused then .wait
    else .trap ⟨reasonCause reason, va, 0, faultStat reason level wr false false 0, false, none, none⟩

/-- The first of several that does not go on. -/
def firstSync : List Sync → Sync
  | [] => .go
  | .go :: l => firstSync l
  | x :: _ => x

/-- The fault of a synchronous translation, if it traps. -/
def Sync.fault : Sync → Option Trap
  | .trap t => some t
  | _ => none

/-! ## VMAP and VUNMAP -/

/-- The translations of n pages from an address. -/
def pagesOf (s : State) (g : Group) (va : DWord) (n : Nat) (w : Way) : List (Nat × DWord × Xlated) :=
  (List.range n).map fun k =>
    let a := va + BitVec.ofNat 64 (4096 * k)
    (k, a, (s.translate (s.coreOfGroup g) (s.pasidOf g) a w).1)

/-- The home slice whose directory records a page (R181): that of its first line. -/
def sliceOf (pa : Nat) : Nat × Nat := (homeOf pa, natBits pa 7 9 ^^^ natBits pa 16 9)

/-- A page may be mapped: DRAM, unmapped, its directory not full, and the local page no segment yet (R181, R209). -/
def State.mappable (s : State) (block pa lpage : Nat) : Bool :=
  s.tierOf pa == .dram && (s.segAt pa).isNone && (s.segs.filter fun g => sliceOf g.pa == sliceOf pa).length < 32 &&
    !(s.segs.any fun g => g.block == block && g.lpage == lpage)

/-- The checks, the stalls and the effect of what `execVmap` issues. -/
def vmapPlan (f : F64) : Plan :=
  let h := hdr64 0x12 0x00 f
  let n (c : Cx) := (c.ssrc f.s3).toNat
  let sync (c : Cx) : Sync :=
    firstSync ((pagesOf c.s c.g (c.ssrc f.s1) (n c) .engineWrite).map fun p =>
      match p.2.2 with
      | .fault 0x08 _ _ => .go
      | x => syncOf c.g p.2.1 true x)
  { ops := fun _ => sregOk f.dst && sregOk f.s1 && sregOk f.s2 && sregOk f.s3
    uses := [(f.s1, true), (f.s2, true), (f.s3, true)]
    mem := true
    own := fun c =>
      let g := c.ssrc f.s1
      let l := c.ssrc f.s2
      if 64 < n c then some (.precise Cause.illegalOperand 0 h.word)
      else if g.toNat % 4096 ≠ 0 then some (.precise Cause.misalign g 0)
      else if l.toNat % 4096 ≠ 0 then some (.precise Cause.misalign l 0)
      else
        let size := ((c.s.blockOf c.g).map (·.vault.size)).getD 0
        if n c ≠ 0 ∧ size < l.toNat + 4096 * n c then
          some (.precise Cause.localBounds (if size ≤ l.toNat then l else BitVec.ofNat 64 size) 0)
        else match escape c h (f.modBit 3) with
          | some t => some t
          | none => (sync c).fault
    wait := fun c => c.s.memoryHeld c.g false || sync c == .wait
    table := fun c => c.pins (f.modBit 3)
    ask := fun c s => s.seekPages s.cur ((List.range (n c)).map fun k => c.ssrc f.s1 + BitVec.ofNat 64 (4096 * k)) .engineWrite
    eff := fun c s =>
      let core := s.coreOfGroup s.cur
      let pasid := s.pasidOf s.cur
      let s := if n c = 0 then s else ((if f.modBit 3 then s.pin else s).setWide).release core pasid (s.viewOf s.cur) 5
      let take (st : State × List (Nat × Nat × Nat)) (k : Nat) : State × List (Nat × Nat × Nat) :=
        let va := c.ssrc f.s1 + BitVec.ofNat 64 (4096 * k)
        let lp := (c.ssrc f.s2).toNat + 4096 * k
        match st.1.translate core pasid va .engineWrite with
        | (.ok pa _ _ _, s) =>
          if s.mappable s.cur.block pa lp then
            ({ s with segs := s.segs ++ [⟨pa, va.toNat % 2 ^ 57, pasid, s.cur.block, lp, f.modBit 0, true, false⟩] },
              st.2 ++ [(k, pa, lp)])
          else (s, st.2)
        | (_, s) => (s, st.2)
      let (s, done) := (List.range (n c)).foldl take (s, [])
      let mask := maskOf fun k => done.any (·.1 == k)
      c.launch h (.vmap (f.modBit 0) done mask (f.dst.toNat - 0x80)) [.sca (f.dst.toNat - 0x80) mask]
        [.sca (f.dst.toNat - 0x80)] 0 { s with cur := { s.cur with refused := false } } }

/-- VMAP (R209). -/
def execVmap (f : F64) (s : State) : Host.Outcome State Fault Refusal :=
  issue (hdr64 0x12 0x00 f) (vmapPlan f) s

/-- A page of memory takes the bytes and the poison of a segment of a vault. -/
def State.segToPage (s : State) (g : Segment) : State :=
  match s.block? g.block with
  | none => s
  | some b =>
    let grans := List.range 256
    let bad := grans.filter fun k => b.vault.poison.contains (granOf g.lpage + k)
    { (s.preserve g.pa) with
      mem := s.mem.write g.pa (b.vault.bytes.read g.lpage 4096)
      poison := bad.foldl (fun l k => insertNat (g.pa / 16 + k) l) (s.poison.filter fun x => !(decide (g.pa / 16 ≤ x) && decide (x < g.pa / 16 + 256))) }

/-- A segment of a vault takes the bytes and the poison of its page of memory. -/
def State.pageToSeg (s : State) (g : Segment) : State :=
  let bad := s.poison.filter fun x => decide (g.pa / 16 ≤ x) && decide (x < g.pa / 16 + 256)
  s.onVault g.block fun a =>
    { a.write g.lpage (s.mem.read g.pa 4096) with
      poison := bad.foldl (fun l x => insertNat (granOf g.lpage + (x - g.pa / 16)) l)
        (a.poison.filter fun x => !(decide (granOf g.lpage ≤ x) && decide (x < granOf g.lpage + 256))) }

/-- A segment returns to Invalid: an owned one by way of a transit, a shared one at once, which writes what the vault holds to its page (R180; DESIGN CHOICE,
log 99, for local writes that no release has yet carried). -/
def State.unmap (s : State) (pa : Nat) : State :=
  match s.segs.find? (·.pa == pa) with
  | none => s
  | some g =>
    if g.shared then { (s.segToPage g) with segs := s.segs.filter (·.pa != pa) }
    else { s with segs := s.segs.map fun (x : Segment) => if x.pa == pa then { x with transit := true, leaving := true } else x }

/-- The checks, the stalls and the effect of what `execVunmap` issues. -/
def vunmapPlan (f : F64) : Plan :=
  let h := hdr64 0x12 0x01 f
  { ops := fun _ => sregOk f.dst && sregOk f.s1 && sregOk f.s2
    uses := [(f.s1, true), (f.s2, true)]
    mem := true
    own := fun c =>
      if 64 < (c.ssrc f.s2).toNat then some (.precise Cause.illegalOperand 0 h.word)
      else if (c.ssrc f.s1).toNat % 4096 ≠ 0 then some (.precise Cause.misalign (c.ssrc f.s1) 0)
      else escape c h (f.modBit 3)
    wait := fun c => c.s.memoryHeld c.g false
    table := fun c => c.pins (f.modBit 3)
    eff := fun c s =>
      let s := if f.modBit 3 then s.pin else s
      let mine := (List.range (c.ssrc f.s2).toNat).filterMap fun k =>
        let va := (c.ssrc f.s1 + BitVec.ofNat 64 (4096 * k)).toNat % 2 ^ 57
        (s.segs.find? fun g => g.block == s.cur.block && g.va == va && !g.transit).map fun g => (k, g.pa)
      let mask := maskOf fun k => mine.any (·.1 == k)
      let s := mine.foldl (fun s p => s.unmap p.2) s
      c.launch h (.vunmap mine mask (f.dst.toNat - 0x80)) [.sca (f.dst.toNat - 0x80) mask] [.sca (f.dst.toNat - 0x80)] 0 s }

/-- VUNMAP (R210). -/
def execVunmap (f : F64) (s : State) : Host.Outcome State Fault Refusal :=
  issue (hdr64 0x12 0x01 f) (vunmapPlan f) s

/-- A transit ends (R180). To Invalid: the vault bytes go to memory. To Owned or Shared: remote copies' dirty bytes go home, the page
is read into the vault, and the lines of the page leave every cache, unreleased stores following them into the vault (R181, R182); only lines of
views stay. -/
def State.endTransit (s : State) (pa : Nat) : State :=
  match s.segs.find? fun g => g.pa == pa && g.transit with
  | none => s
  | some g =>
    let inPage (c : CByte) : Bool := pageOf c.pa == pa
    if g.leaving then { (s.segToPage g) with segs := s.segs.filter (·.pa != pa) }
    else
      let s := s.sinkL2 inPage
      let s := { s with l2 := s.l2.filter fun c => !inPage c }.pageToSeg g
      let s : State := { s with segs := s.segs.map fun (x : Segment) => if x.pa == pa then { x with transit := false } else x }
      let gone (c : CByte) : Bool := inPage c && (c.view == 0 || (s.chain c.pasid c.view).all fun v => (s.viewLine c.pasid v c.pa).isNone)
      let s := s.sinkL1 gone
      { s with l1 := s.l1.filter fun c => !gone c }

/-! ## Sharing groups -/

/-- Blocks that hold a slot. -/
def Sharing.held (g : Sharing) : List Nat := g.slots.filterMap fun | .held b => some b | _ => none

/-- SJOIN of a key by a block: the result and the state after (R170, R211). -/
def State.join (s : State) (block : Nat) (key : Word) : DWord × State :=
  match s.block? block with
  | none => (0xFFFFFFFFFFFFFF02, s)
  | some b =>
    let group := s.sharing.find? fun g => g.pasid == b.pasid && g.key == key
    match b.share, group with
    | some (k, m), _ =>
      if k = key then (BitVec.ofNat 64 m, s)
      else match group with
        | some g => if g.slots.all (· != .never) then (0xFFFFFFFFFFFFFF01, s) else (0xFFFFFFFFFFFFFF03, s)
        | none =>
          if 64 ≤ (s.sharing.filter (·.pasid == b.pasid)).length then (0xFFFFFFFFFFFFFF02, s) else (0xFFFFFFFFFFFFFF03, s)
    | none, some g =>
      match (g.slots.zipIdx).find? (·.1 == .never) with
      | none => (0xFFFFFFFFFFFFFF01, s)
      | some (_, m) =>
        let s : State := { s with sharing := s.sharing.map fun (x : Sharing) =>
          if x.pasid == b.pasid && x.key == key then { x with slots := x.slots.set m (.held block) } else x }
        (BitVec.ofNat 64 m, s.onBlock block fun b => { b with share := some (key, m) })
    | none, none =>
      if 64 ≤ (s.sharing.filter (·.pasid == b.pasid)).length then (0xFFFFFFFFFFFFFF02, s)
      else
        let s : State := { s with sharing := s.sharing ++ [⟨b.pasid, key, .held block :: List.replicate 15 .never⟩] }
        (0, s.onBlock block fun b => { b with share := some (key, 0) })

/-- Step 1 of R171: the leaver's slot is revoked. -/
def State.revoke (s : State) (block : Nat) : State :=
  match (s.block? block).bind fun b => b.share.map fun sh => (b.pasid, sh) with
  | none => s
  | some (pasid, key, m) =>
    { s with sharing := s.sharing.map fun g =>
        if g.pasid == pasid && g.key == key then { g with slots := g.slots.set m .revoked } else g }

/-- A local address of an issuer's lies in the slot of a block, by the window at its issue. -/
def throughSlot (slots : List ShSlot) (block : Nat) (a : Nat) : Bool :=
  decide (0x10000000 ≤ a) && decide (a < 0x20000000) && (slots[(a - 0x10000000) / 0x01000000]?) == some (.held block)

/-- An access issued through a block's slot has yet to be performed, the block's own and an engine's among them (step 2 of R171). -/
def State.slotBusy (s : State) (block : Nat) : Bool :=
  (s.groups.any fun g => g.flights.any fun f => match f.op with
    | .access a => a.loc && a.lanes.any fun l => l.blk == block && decide (0x10000000 ≤ l.addr.toNat) && (l.st == .todo || l.st == .queued)
    | .febits _ b _ n shared => shared && b == block && n != 0
    | _ => false) ||
  (s.fabric.any fun r => r.loc && throughSlot r.slots block r.addr) ||
  (s.items.any fun i => [i.dst, i.src, i.idx].any fun t =>
    t.space == 1 && (throughSlot i.slots block t.base || throughSlot i.slots block t.scale)) ||
  s.mxEntries.any fun e => [0x10, 0x1C, 0x20].any fun k => throughSlot e.slots block (leNat ((e.parm.drop k).take 4))

/-- Step 4 of R171; the sharing group dissolves when its last member leaves. -/
def State.leave (s : State) (block : Nat) : State :=
  let s := s.onBlock block fun b => { b with share := none }
  { s with sharing := s.sharing.filter fun g => g.held != [] }

/-- The checks, the stalls and the effect of what `execSjoin` issues. -/
def sjoinPlan (f : F64) : Plan :=
  let h := hdr64 0x12 0x02 f
  { ops := fun _ => sregOk f.dst && sregOk f.s1
    uses := [(f.s1, true)]
    mem := true
    own := fun c => escape c h (f.modBit 3)
    table := fun c => c.pins (f.modBit 3)
    eff := fun c s =>
      let s := if f.modBit 3 then s.pin else s
      c.launch h (.sjoin ((c.ssrc f.s1).setWidth 32) (f.dst.toNat - 0x80)) [] [.sca (f.dst.toNat - 0x80)] 0 s.setWide }

/-- SJOIN (R211). -/
def execSjoin (f : F64) (s : State) : Host.Outcome State Fault Refusal :=
  issue (hdr64 0x12 0x02 f) (sjoinPlan f) s

/-- The checks, the stalls and the effect of what `execSleave` issues. -/
def sleavePlan (f : F64) : Plan :=
  let h := hdr64 0x12 0x03 f
  { mem := true
    own := fun c => escape c h (f.modBit 3)
    table := fun c => c.pins (f.modBit 3)
    eff := fun c s =>
      let s := if f.modBit 3 then s.pin else s
      c.launch h .sleave [] [] 0 (s.revoke s.cur.block) }

/-- SLEAVE (R212). -/
def execSleave (f : F64) (s : State) : Host.Outcome State Fault Refusal :=
  issue (hdr64 0x12 0x03 f) (sleavePlan f) s

/-! ## FESET and FECLR -/

/-- The checks, the stalls and the effect of what `feRange` issues. -/
def feRangePlan (min : BitVec 6) (full : Bool) (f : F64) : Plan :=
  let h := hdr64 0x12 min f
  { ops := fun _ => sregOk f.s1 && sregOk f.s2
    uses := [(f.s1, true), (f.s2, true)]
    mem := true
    own := fun c =>
      let a := c.ssrc f.s1
      let n := (c.ssrc f.s2).toNat
      if a.toNat % 16 ≠ 0 ∨ n % 16 ≠ 0 then some (.precise Cause.misalign (if a.toNat % 16 ≠ 0 then a else c.ssrc f.s2) 0)
      else if n = 0 then none
      else rangeFault c.s c.g.block a n 16
    wait := fun c => c.s.memoryHeld c.g false
    eff := fun c s =>
      let n := (c.ssrc f.s2).toNat
      match s.localAt s.cur.block (c.ssrc f.s1) n with
      | .ok (b, off) => c.launch h (.febits full b (granOf off) (n / 16) (decide (0x10000000 ≤ (c.ssrc f.s1).toNat))) [] [] 0 s
      | .error _ => c.launch h (.febits full 0 0 0 false) [] [] 0 s }

/-- FESET or FECLR of a range (R213). -/
def feRange (min : BitVec 6) (full : Bool) (f : F64) (s : State) : Host.Outcome State Fault Refusal :=
  issue (hdr64 0x12 min f) (feRangePlan min full f) s

/-- FESET (R213). -/
def execFeset (f : F64) (s : State) : Host.Outcome State Fault Refusal := feRange 0x04 true f s
/-- FECLR (R213). -/
def execFeclr (f : F64) (s : State) : Host.Outcome State Fault Refusal := feRange 0x05 false f s

/-! ## Completion of these instructions -/

/-- A flight completes with the writes it already holds and further ones. -/
def State.land (s : State) (r : FRef) (ws : List RegWrite) : State :=
  s.onGroup r.block r.gidx fun g => match g.flight? r.flight with
    | some f => g.complete s { f with writes := f.writes ++ ws }
    | none => g

/-- An earlier instruction of the group has yet to be performed at one of some granules of a vault (R166). -/
def State.febitsHeld (s : State) (r : FRef) (b first n : Nat) : Bool :=
  match s.group? r.block r.gidx with
  | none => false
  | some g => (g.before r.flight).any fun e => match e.op with
    | .access a => a.loc && a.lanes.any fun l => l.blk == b && decide (first ≤ granOf l.off) && decide (granOf l.off < first + n) && l.st.open false
    | .febits _ k lo m _ => k == b && overlap lo m first n
    | _ => false

/-- What remains of a vault or segment instruction is done, and it completes where nothing is left to wait for. -/
def State.finishVault (s : State) (r : FRef) : FlightOp → State
  | .vmap _ done _ _ => if done.any fun p => s.inTransit p.2.1 then s else s.land r []
  | .vunmap mine _ _ => if mine.any fun p => s.inTransit p.2 then s else s.land r []
  | .sjoin key dst =>
    let (v, s) := s.join r.block key
    s.land r [.sca dst v]
  | .sleave => if s.slotBusy r.block then s else (s.leave r.block).land r []
  | .febits full b first n _ =>
    if s.febitsHeld r b first n || (List.range n).any fun k => s.localTransit b (16 * (first + k)) || s.segmentWaits b (16 * (first + k)) then s
    else ((List.range n).foldl (fun s k => s.feBit b (first + k) full) s).land r []
  | _ => s

end Sys2Proof.Machine
end

