-- ==== Sys2Proof/Machine/Copy.lean ====
section
/-! DEFINITION. Tensor copy engines (R136 to R161): records and their checks, the walk as moves of elements and scales into 16-byte
granules, one granule's move with its faults, poison and full-empty rules, and the instructions of major 0x14. -/

namespace Sys2Proof

/-- Little-endian field of `n` bytes at an offset of a record. -/
def field (bs : List Byte) (off n : Nat) : Nat := Machine.leNat ((bs.drop off).take n)

end Sys2Proof

namespace Sys2Proof.Machine

/-! ## Records -/

/-- A tensor record from its 128 bytes (R136). -/
def Tensor.parse (bs : List Byte) : Tensor :=
  let nd := field bs 0x0A 1
  let flag (k : Nat) : Bool := field bs 0x0B 1 / 2 ^ k % 2 == 1
  { base := field bs 0 8
    type := BitVec.ofNat 4 (field bs 0x08 1 % 16)
    space := field bs 0x09 1
    ndim := nd
    feset := flag 0
    fewait := flag 1
    fetake := flag 2
    plane := flag 3
    scope := field bs 0x0C 1 % 8
    conv := BitVec.ofNat 3 (field bs 0x0D 1 % 8)
    skind := field bs 0x0E 1
    counts := (List.range 4).map fun k => if k < nd then field bs (0x10 + 4 * k) 4 else 1
    strides := (List.range 4).map fun k => if k < nd then (BitVec.ofNat 64 (field bs (0x20 + 8 * k) 8)).toInt else 0
    scale := field bs 0x40 8
    status := field bs 0x48 8 }

/-- Count and stride of a dimension. -/
def Tensor.count (t : Tensor) (k : Nat) : Nat := (t.counts[k]?).getD 1
def Tensor.stride (t : Tensor) (k : Nat) : Int := (t.strides[k]?).getD 0
/-- Elements of the shape. -/
def Tensor.total (t : Tensor) : Nat := t.count 0 * t.count 1 * t.count 2 * t.count 3
/-- Width of an element in bits, and its size in bytes; packed I4 counts in whole bytes. -/
def Tensor.bits (t : Tensor) : Nat := typeBits t.type
def Tensor.size (t : Tensor) : Nat := max 1 (t.bits / 8)

/-- Types with a plane form (R140 code 0x05). -/
def planeType (t : BitVec 4) : Bool := t == 8 || t == 9 || t == 0xB || t == 0xA || t == 0 || t == 0xE

/-- The first condition of R140 that a record breaks; `role` is 0 for a destination, 1 for a source, 2 for an index. Every record's STATUS
must be aligned, though only a destination's is used (DESIGN CHOICE, log 83). -/
def Tensor.fault (t : Tensor) (role : Nat) : Option Nat :=
  let used := List.range t.ndim
  let sz : Int := t.size
  if t.type = 0xF then some 0x01
  else if t.ndim = 0 ∨ 4 < t.ndim then some 0x02
  else if 1 < t.space ∨ 2 < t.skind then some 0x03
  else if !t.plane && (t.base % t.size != 0 || (used.any fun k => (k != 0 || t.type != 0xE) && t.stride k % sz != 0) ||
      (t.type == 0xE && t.count 0 % 2 != 0)) then some 0x04
  else if t.plane && (!planeType t.type || t.count 0 % 128 != 0 || t.base % 16 != 0 || (used.any fun k => t.stride k % 16 != 0) ||
      decide (t.stride 0 < 16 * t.bits)) then some 0x05
  else if (t.skind == 1 && t.count 0 % 128 != 0) || (t.skind == 2 && (t.ndim != 2 || t.count 0 % 128 != 0 || t.count 1 % 128 != 0)) ||
      t.scale % 16 != 0 then some 0x06
  else if t.scope = 7 then some 0x07
  else if ((t.feset || t.fewait || t.fetake) && t.space == 0) || (role == 1 && (t.feset || t.fewait)) || (role == 0 && t.fetake) then some 0x08
  else if t.status % 16 ≠ 0 then some 0x09
  else if 2 ^ 48 - 1 < t.total * t.bits / 8 then some 0x0A
  else none

/-- Element types whose scaled values the engine converts (R142). -/
def scaledType (t : BitVec 4) : Bool := t == 8 || t == 9 || t == 0 || t == 0xE

/-- The conversion of a pair (R142): none where it is permitted, otherwise its code. A scaled source in a row of the table that names no SCALEKIND has
code 0x11 (DESIGN CHOICE, log 95). -/
def pairFault (d s : Tensor) : Option Nat :=
  if d.type = s.type then (if d.skind = s.skind then none else some 0x12)
  else if d.skind ≠ 0 then some 0x11
  else if s.skind = 0 then none
  else if scaledType s.type && (d.type == 0xC || d.type == 0xB || d.type == 0xA) then none
  else some 0x11

/-- The rules of R141 for a copy. -/
def copyPairFault (d s : Tensor) : Option Nat :=
  if d.ndim ≠ s.ndim ∨ d.counts ≠ s.counts then some 0x10 else pairFault d s

/-- The rules of R156 for rows along the outermost dimension; `alongDst` for TGATHER. -/
def rowsFault (alongDst : Bool) (d s i : Tensor) : Option Nat :=
  let k := d.ndim - 1
  if d.ndim ≠ s.ndim ∨ (List.range k).any (fun j => d.count j != s.count j) ∨ (if alongDst then d.count k else s.count k) ≠ i.count 0 ∨
      d.skind = 2 ∨ s.skind = 2 then some 0x13
  else none

/-- An index record is not as R156 describes. -/
def indexFault (i : Tensor) : Option Nat :=
  if i.ndim = 1 ∧ i.space ≤ 1 ∧ ¬i.plane ∧ 4 ≤ i.type.toNat ∧ i.type.toNat ≤ 7 ∧ i.skind = 0 then none else some 0x14

/-! ## Places of bits -/

/-- Some bits of a value: in the granule of this number of a space, from bit `lo`, `width` bits that are the value's bits from `bit`. -/
structure Place where
  loc   : Bool
  gran  : Nat
  lo    : Nat
  width : Nat
  bit   : Nat
  deriving DecidableEq, Repr

/-- An address of 64 bits. -/
def wrap64 (x : Int) : Nat := (BitVec.ofInt 64 x).toNat

/-- The index of an element in walk order (R143). -/
def coordsIn (cs : List Nat) (e : Nat) : List Nat :=
  let n (k : Nat) : Nat := (cs[k]?).getD 1
  [e % n 0, e / n 0 % n 1, e / (n 0 * n 1) % n 2, e / (n 0 * n 1 * n 2)]

/-- Coordinate k. -/
def at_ (i : List Nat) (k : Nat) : Nat := (i[k]?).getD 0

/-- The address terms of the dimensions above the first. -/
def Tensor.outer (t : Tensor) (i : List Nat) : Int := (at_ i 1 : Int) * t.stride 1 + (at_ i 2 : Int) * t.stride 2 + (at_ i 3 : Int) * t.stride 3

/-- Where an element's bits lie (R137, R138). -/
def Tensor.places (t : Tensor) (i : List Nat) : List Place :=
  let i0 := at_ i 0
  let loc := t.space == 1
  if t.plane then
    let a := wrap64 (t.base + ((i0 / 128 : Nat) : Int) * t.stride 0 + t.outer i)
    ((planeBits t.type).zipIdx).map fun p => ⟨loc, a / 16 + p.2, i0 % 128, 1, p.1⟩
  else if t.type = 0xE then
    let a := wrap64 (t.base + ((i0 / 2 : Nat) : Int) + t.outer i)
    [⟨loc, a / 16, 8 * (a % 16) + 4 * (i0 % 2), 4, 0⟩]
  else
    let a := wrap64 (t.base + (i0 : Int) * t.stride 0 + t.outer i)
    [⟨loc, a / 16, 8 * (a % 16), t.bits, 0⟩]

/-- Vectors of 128 along dimension 0. -/
def Tensor.vectors (t : Tensor) : Nat := (t.count 0 + 127) / 128
/-- The scaling unit of an element (R139). -/
def Tensor.unit (t : Tensor) (i : List Nat) : Nat :=
  if t.skind = 2 then at_ i 1 / 128 * t.vectors + at_ i 0 / 128
  else ((at_ i 3 * t.count 2 + at_ i 2) * t.count 1 + at_ i 1) * t.vectors + at_ i 0 / 128
/-- Scaling units. -/
def Tensor.units (t : Tensor) : Nat :=
  match t.skind with
  | 0 => 0
  | 1 => t.count 3 * t.count 2 * t.count 1 * t.vectors
  | _ => (t.count 1 + 127) / 128 * t.vectors
/-- An element is the first of its scaling unit. -/
def Tensor.starts (t : Tensor) (i : List Nat) : Bool :=
  match t.skind with
  | 0 => false
  | 1 => at_ i 0 % 128 == 0
  | _ => at_ i 0 % 128 == 0 && at_ i 1 % 128 == 0
/-- Where a scale lies. -/
def Tensor.scaleAt (t : Tensor) (j : Nat) : Place :=
  let a := wrap64 (t.scale + 4 * j)
  ⟨t.space == 1, a / 16, 8 * (a % 16), 32, 0⟩

/-! ## Moves -/

/-- One value of an item: its number in the walk, the element of the walk that it belongs to, where it goes, where it comes from, the scale that
multiplies it, whether it is zero without a source (R156), whether it is a scale moved unchanged, whether the index that names its source could
not be read, and whether a later row of a scatter takes its place (R156). -/
structure Move where
  num  : Nat
  elem : Nat
  dst  : List Place
  src  : List Place
  scl  : Option Place
  zero : Bool
  raw  : Bool
  lost : Bool
  old  : Bool

/-- A value that is no more than an element, where it goes and where it comes from. -/
def Move.of (e : Nat) (dst src : List Place) (scl : Option Place) : Move := ⟨0, e, dst, src, scl, false, false, false, false⟩

/-- What a move reads. -/
def Move.reads (m : Move) : List Place := m.src ++ m.scl.toList
/-- It writes some of a granule. -/
def Move.into (m : Move) (g : Bool × Nat) : Bool := m.dst.any fun p => p.loc == g.1 && p.gran == g.2

/-- Moves under their numbers in the walk. -/
def numbered (ms : List Move) : List Move := (ms.zipIdx).map fun p => { p.1 with num := p.2 }

/-- The moves of an element from one index of a source to one of a destination: with the first of a scaling unit goes the unit's scale, where both
records have one (R142), so that a scale granule is read when the first element that it scales is (R146). -/
def Tensor.move (d s : Tensor) (e : Nat) (first : Bool) (i j : List Nat) : List Move :=
  (if d.skind = s.skind && first then [{ Move.of e [d.scaleAt (d.unit i)] [s.scaleAt (s.unit j)] none with raw := true }] else []) ++
    [Move.of e (d.places i) (s.places j) (if d.skind = 0 ∧ s.skind ≠ 0 then some (s.scaleAt (s.unit j)) else none)]

/-- The moves of a copy in walk order (R143). -/
def copyMoves (d s : Tensor) : List Move :=
  numbered <| (List.range d.total).flatMap fun e =>
    let i := coordsIn d.counts e
    d.move s e (d.starts i) i i

/-- An index is a row. -/
def rowOf (n : Nat) (k : Int) : Option Nat :=
  match k with
  | .ofNat m => if m < n then some m else none
  | _ => none

/-- The moves of TGATHER: destination rows in turn, each from the indexed source row, or zeros, in its scales too (DESIGN CHOICE, log 95); a row whose
index could not be read is written poisoned (R150, log 84). -/
def gatherMoves (d s : Tensor) (rows : List (Option Int)) : List Move :=
  let k := d.ndim - 1
  numbered <| (List.range d.total).flatMap fun e =>
    let i := coordsIn d.counts e
    let bare (lost : Bool) : List Move := (d.move s e (d.starts i) i i).map fun m => { m with src := [], scl := none, zero := true, lost := lost }
    match rows[at_ i k]? with
    | some (some v) =>
      match rowOf (s.count k) v with
      | some r => d.move s e (d.starts i) i (i.set k r)
      | none => bare false
    | _ => bare true

/-- The moves of TSCATTER: source rows in turn, each to the indexed destination row, or dropped; so is a row whose index could not be read
(log 84). A row gives way to a later one of the same index. -/
def scatterMoves (d s : Tensor) (rows : List (Option Int)) : List Move :=
  let k := d.ndim - 1
  numbered <| (List.range s.total).flatMap fun e =>
    let i := coordsIn s.counts e
    let index := (rows[at_ i k]?).join
    match index.bind (rowOf (d.count k)) with
    | some r =>
      let old := (rows.drop (at_ i k + 1)).contains index
      (d.move s e (s.starts i) (i.set k r) i).map fun m => { m with old := old }
    | none => []

/-- The moves of an item, given its index values; those of a tier entry of DTIER 4 go over the source alone (R104). -/
def CopyItem.movesOf (it : CopyItem) (rows : List (Option Int)) : List Move :=
  match it.kind with
  | .gather => gatherMoves it.dst it.src rows
  | .scatter => scatterMoves it.dst it.src rows
  | _ => if it.install then copyMoves it.src it.src else copyMoves it.dst it.src

/-- The moves of an item whose index values have been read. -/
def CopyItem.moves (it : CopyItem) : List Move := it.movesOf (it.rows.getD [])

/-- The destination granules of moves in walk order. -/
def granulesOf (ms : List Move) : List (Bool × Nat) := (ms.flatMap fun m => m.dst.map fun p => (p.loc, p.gran)).eraseDups

/-! ## Values -/

/-- The product of a value and a scale, exact and rounded once (R91, R142). -/
def scaledTo (f : Fmt) (mode : Round) (satf : Bool) (a b : Fp) : DWord :=
  match a, b with
  | .nan _, _ => f.nan
  | _, .nan _ => f.nan
  | .num n m e, .num n' m' e' => (roundTo f mode false satf (n != n') (m * m') 1 (e + e')).1
  | x, y =>
    if x.isZero || y.isZero then f.nan
    else
      let neg := x.neg != y.neg
      if f.e4m3 then (if satf then f.largest neg else f.nan) else f.inf neg

/-- An element's value without its scale. -/
def elemFp (t : BitVec 4) (x : DWord) : Fp :=
  match typeFmt t with
  | some f => f.decode x
  | none => let n := readInt t x; .num (decide (n < 0)) n.natAbs 0

/-- The bits that a move writes (R142). -/
def convertTo (d s : Tensor) (x : Nat) (scl : Option Nat) : Nat :=
  let mode := Round.ofCode (d.conv.extractLsb' 0 2)
  let sat := d.conv.getLsbD 2
  let v : DWord := BitVec.ofNat 64 x
  match scl with
  | some k => match typeFmt d.type with
    | some f => (scaledTo f mode sat (elemFp s.type v) (Fmt.fp32.decode (BitVec.ofNat 64 k))).toNat
    | none => 0
  | none => if d.type = s.type then x else (cvtValue d.type s.type mode sat v).1.toNat % 2 ^ d.bits

/-- Contents of granules as an item has read them: the space and number, poison, and the 128 bits. -/
abbrev Contents := List ((Bool × Nat) × (Bool × Nat))

/-- The contents of one granule. -/
def Contents.of (c : Contents) (loc : Bool) (gran : Nat) : Bool × Nat :=
  match c.find? fun x => x.1.1 == loc && x.1.2 == gran with
  | some x => x.2
  | none => (false, 0)

/-- A value assembled from its places. -/
def gather (c : Contents) (ps : List Place) : Nat :=
  ps.foldl (fun v p => v + (c.of p.loc p.gran).2 / 2 ^ p.lo % 2 ^ p.width * 2 ^ p.bit) 0

/-- A value has a poisoned source, or an index that could not be read. -/
def Move.bad (m : Move) (c : Contents) : Bool := !m.old && (m.lost || m.reads.any fun p => (c.of p.loc p.gran).1)

/-- The value of a move. -/
def Move.value (m : Move) (d s : Tensor) (c : Contents) : Nat :=
  if m.zero then 0
  else if m.raw then gather c m.src
  else convertTo d s (gather c m.src) (m.scl.map fun p => gather c [p])

/-- Bits laid over a granule: the data and the bits covered; what lies there already may stay. -/
def layBits (stays : Bool) (st : Nat × Nat) (p : Place) (v : Nat) : Nat × Nat :=
  let m := (2 ^ p.width - 1) * 2 ^ p.lo
  let b := v / 2 ^ p.bit % 2 ^ p.width * 2 ^ p.lo
  if st.2 &&& m ≠ 0 ∧ stays then st else ((st.1 &&& (2 ^ 128 - 1 - m)) ||| b, st.2 ||| m)

/-- The data that moves write into a granule, and the bytes that they cover. Where moves meet, `pick` says for each, and so in all its granules alike,
whether it gives way to those before it (R145, log 4); a row of a scatter whose index comes again leaves nothing (R156). -/
def granuleData (ms : List Move) (d s : Tensor) (c : Contents) (loc : Bool) (gran : Nat) (pick : Nat → Bool) : List Byte × BitVec 16 :=
  let st := (ms.filter (!·.old)).foldl (fun st m => (m.dst.filter fun p => p.loc == loc && p.gran == gran).foldl
    (fun st p => layBits (pick m.num) st p (m.value d s c)) st) (0, 0)
  (natBytes 16 st.1, (List.range 16).foldl (fun (k : BitVec 16) j => if st.2 / 2 ^ (8 * j) % 256 != 0 then k ||| (1#16 <<< j) else k) 0)

/-! ## Reading records -/

/-- Bytes read at a virtual address in `n` pieces of `c` bytes, each translated; the first failure instead, with the host asked where it is to answer
(R123). -/
def readVirt (unit pasid : Nat) (w : Way) (rd : State → Nat → BitVec 2 → State × Except Xlated (List Byte)) (c : Nat) :
    Nat → DWord → State → Except Xlated (List Byte) × State
  | 0, _, s => (.ok [], s)
  | n + 1, va, s =>
    match s.translate unit pasid va w with
    | (.ok pa attr _ _, s) =>
      match rd s pa attr with
      | (s, .ok bs) =>
        match readVirt unit pasid w rd c n (va + BitVec.ofNat 64 c) s with
        | (.ok l, s) => (.ok (bs ++ l), s)
        | (e, s) => (e, s)
      | (s, .error e) => (.error e, s)
    | (.host e, s) => (.error (.host e), s.askHost e)
    | (x, s) => (.error x, s)

/-- Bytes read by a core for a record (step 2 of R155): poison and a lost pool node fail it. -/
def coreBytes (core pasid view n : Nat) (s : State) (pa : Nat) (attr : BitVec 2) : State × Except Xlated (List Byte) :=
  if s.unreachable pa n false then (s, .error (.fault 0x0C 0 false))
  else if s.readsPoison core pasid view pa n then (s, .error (.fault 0x0B 0 false))
  else
    let (bs, s) := s.coreRead core pasid view attr pa n
    (s, .ok bs)

/-- A record of n bytes read at issue by the issuing group, 64 bytes at a time. -/
def State.readRecord (s : State) (va : DWord) (n : Nat) : Except Xlated (List Byte) × State :=
  let core := s.coreOfGroup s.cur
  let pasid := s.pasidOf s.cur
  readVirt core pasid .load (coreBytes core pasid (s.viewOf s.cur) 64) 64 (n / 64) va s

/-- What the issue does about a record (step 2 of R155): XADDR is the record's address. -/
def recordSync (g : Group) (va : DWord) : Except Xlated (List Byte) → Sync
  | .ok _ => .go
  | .error x => syncOf g va false x

/-- Bytes of a record read at issue; empty where it could not be read. -/
def Cx.record (c : Cx) (va : DWord) (n : Nat) : List Byte :=
  match (c.s.readRecord va n).1 with
  | .ok bs => bs
  | .error _ => []

/-- The caches and translations that reading records leaves behind. -/
def readRecords (rs : List (DWord × Nat)) (s : State) : State := rs.foldl (fun s r => (s.readRecord r.1 r.2).2) s

/-- Stores of a group have yet to be performed where it is about to read, so that it does not read yet (R191). -/
def State.storesTo (s : State) (g : Group) (rs : List (DWord × Nat)) : Bool :=
  rs.any fun r =>
    let a : Access := ⟨.load, false, 0, r.2, 0, false, 0, .plain, .none, false, [], []⟩
    let l : LaneAcc := ⟨0, r.1, 0, 0, 0, 0, .todo, 0⟩
    g.flights.any fun f => match f.op with
      | .access b => b.kind != .load && b.lanes.any fun m => m.st.open (s.fatalLog g f.key) && s.lanesMeet g a l b m
      | _ => false

/-- Steps 1 and 2 of R155 over records, each an address and a length. -/
def recordsSync (c : Cx) (rs : List (DWord × Nat)) : Sync := firstSync (rs.map fun r => recordSync c.g r.1 (c.s.readRecord r.1 r.2).1)

/-- Step 1 of R155. -/
def recordAlign (as : List DWord) : Option Trap := (as.find? fun a => a.toNat % 64 != 0).map fun a => .precise Cause.misalign a 0

/-- COPY_RECORD (step 3 of R155). -/
def copyRecord (addr : DWord) (code which : Nat) : Trap := .precise Cause.copyRecord addr (BitVec.ofNat 64 (code + 256 * which))

/-! ## Extents: step 4 of R155 -/

/-- The least and the end of the addresses that elements touch; none for an empty shape. -/
def Tensor.extent (t : Tensor) : Option (Int × Int) :=
  if t.total = 0 then none
  else
    let steps (k : Nat) : Int :=
      let n := t.count k
      if k ≠ 0 then (n : Int) - 1
      else if t.plane then ((n / 128 : Nat) : Int) - 1
      else if t.type = 0xE then ((n / 2 : Nat) : Int) - 1
      else (n : Int) - 1
    let stride (k : Nat) : Int := if k = 0 ∧ t.type = 0xE ∧ ¬t.plane then 1 else t.stride k
    let span := (List.range 4).map fun k => steps k * stride k
    let lo := (span.map fun x => min 0 x).sum
    let hi := (span.map fun x => max 0 x).sum
    let size : Int := if t.plane then (16 * t.bits : Nat) else t.size
    some (t.base + lo, t.base + hi + size)

/-- The element bytes of a local record as granule pieces, for the lowest one outside its allocation. -/
def Tensor.touched (t : Tensor) : List Nat :=
  ((List.range t.total).flatMap fun e => (t.places (coordsIn t.counts e)).flatMap fun p =>
    if t.plane then (List.range 16).map (16 * p.gran + ·)
    else (List.range t.size).map (16 * p.gran + p.lo / 8 + ·))

/-- The lowest byte of a range that fails under a cause. -/
def State.badRange (s : State) (slots : List ShSlot) (block : Nat) (lo hi : Int) (touched : Unit → List Nat) (cause : Nat) : Option Nat :=
  if hi ≤ lo then none
  else
    let a := wrap64 lo
    let past (k : Nat) : Option Nat := least ((touched ()).filter fun x => decide (k ≤ x))
    match s.localVia slots block (BitVec.ofNat 64 a) 1 with
    | .error e =>
      if e = cause then some a
      else if cause = Cause.localBounds then past (a / 0x01000000 * 0x01000000 + 0x01000000)
      else none
    | .ok (b, off) =>
      if cause ≠ Cause.localBounds then none
      else match s.localVia slots block (BitVec.ofNat 64 a) (hi - lo).toNat with
        | .ok _ => none
        | .error _ => past (a + (((s.block? b).map (·.vault.size)).getD 0 - off))

/-- LOCAL_BOUNDS or LOCAL_REVOKED of a record: the lowest offending local address. -/
def State.localFault (s : State) (slots : List ShSlot) (block : Nat) (t : Tensor) (cause : Nat) : Option Nat :=
  if t.space ≠ 1 then none
  else
    let elems := match t.extent with
      | some (lo, hi) => s.badRange slots block lo hi (fun _ => t.touched) cause
      | none => none
    let n := if t.total = 0 then 0 else 4 * t.units
    let scales := s.badRange slots block t.scale (t.scale + n) (fun _ => (List.range n).map (t.scale + ·)) cause
    least (elems.toList ++ scales.toList)

/-- Step 4 of R155 over records in their order. -/
def extentFault (s : State) (slots : List ShSlot) (block : Nat) (ts : List Tensor) : Option Trap :=
  let one (cause : Nat) : Option Trap :=
    (ts.zipIdx).findSome? fun p => (s.localFault slots block p.1 cause).map fun a =>
      .precise cause (BitVec.ofNat 64 a) (BitVec.ofNat 64 (256 * p.2))
  (one Cause.localBounds).or (one Cause.localRevoked)

/-! ## Items -/

/-- The item of a key. -/
def State.item? (s : State) (key : Nat) : Option CopyItem := s.items.find? (·.key == key)
/-- Changes one item. -/
def State.onItem (s : State) (key : Nat) (f : CopyItem → CopyItem) : State :=
  { s with items := s.items.map fun i => if i.key == key then f i else i }

/-- The live status record (R152). -/
def CopyItem.status (it : CopyItem) : Nat :=
  it.state + 16 * it.reason + (if it.poison then 2 ^ 12 else 0) + (if it.oob then 2 ^ 13 else 0) + 2 ^ 16 * (it.bytes % 2 ^ 48) +
    2 ^ 64 * it.faultva

/-- The release of an engine at a scope: its chiplet's remote copies and, at .pod, pool and host lines (R147, R175, R176). -/
def State.engineRelease (s : State) (unit pasid view scope : Nat) : State :=
  let scope := worldScope view scope
  let s := if scope ≥ 2 then s.flushShared pasid else s
  let s := if scope ≥ 4 then s.cleanL2 (chipOfUnit unit) pasid everyLine else s
  if scope ≥ 6 then s.cleanHomes else s

/-- The acquire of an engine at a scope. -/
def State.engineAcquire (s : State) (unit pasid view scope : Nat) : State :=
  let scope := worldScope view scope
  { s with
    l2 := if scope ≥ 4 then s.l2.filter fun c => !c.stale (chipOfUnit unit) pasid else s.l2
    homes := if scope ≥ 6 then s.homes.filter (·.dirty) else s.homes }

/-- Granules that a unit's bytes at an address cover whole lose their poison (R109). -/
def State.coverPoison (s : State) (unit pasid view pa n : Nat) : State :=
  (coveredGranules [(pa, n)]).foldl (fun s g => s.mendIn unit pasid view (16 * g)) s

/-- A store of an engine or of the device is performed, in one granule of a vault or at the place that its address translates to; false where it must
wait: for a page in transit, for the host, for system software or for a slot of the view pool (R179, R128, R416). A fatal fault, or a pool
node that cannot be reached, discards it (log 16). -/
def State.storeNow (s : State) (o : Owed) : Bool × State :=
  match o.block with
  | some b =>
    if s.localTransit b o.va || s.segmentWaits b o.va then (false, s)
    else if (((s.block? b).map (·.vault.size)).getD 0) < o.va + o.bytes.length then (true, s)
    else
      let s := (s.vaultWrite b o.va o.bytes).engineRelease o.unit o.pasid o.view o.scope
      (true, (coveredGranules [(o.va, o.bytes.length)]).foldl (fun s g => (s.poisonVault b g false).fed b g) s)
  | none =>
    match s.translate o.unit o.pasid (BitVec.ofNat 64 o.va) .engineWrite with
    | (.ok pa _ _ _, s) =>
      if s.inTransit pa || s.pageWaits pa || s.viewFull o.pasid o.view pa then (false, s)
      else if s.unreachable pa o.bytes.length (o.view == 0) then (true, s)
      else
        let s := if deviceUnit ≤ o.unit then s.deviceWrite o.pasid pa o.bytes
          else ((s.diverge o.pasid o.view o.va pa).l2Write (chipOfUnit o.unit) o.pasid o.view pa o.bytes).engineRelease o.unit o.pasid o.view o.scope
        (true, s.coverPoison o.unit o.pasid o.view pa o.bytes.length)
    | (.host e, s) => (false, s.askHost e)
    | (.fault r _ fw, s) => (!answerable r fw, s)

/-- Two stores go to one granule of one space: they stay in their order. -/
def Owed.meets (o p : Owed) : Bool := o.block == p.block && o.pasid == p.pasid && o.view == p.view && o.va / 16 == p.va / 16

/-- A store is performed, or joins those that wait. -/
def State.store (s : State) (o : Owed) : State :=
  if s.owed.any o.meets then { s with owed := s.owed ++ [o] }
  else match s.storeNow o with
    | (true, s) => s
    | (false, s) => { s with owed := s.owed ++ [o] }

/-- Stores that wait are tried again, those to one granule in order. -/
def State.payOwed (s : State) : State := s.owed.foldl State.store { s with owed := [] }

/-- Bytes that an engine writes at a virtual address in one granule, released at a scope (log 16). -/
def State.engineStore (s : State) (unit pasid view va : Nat) (bs : List Byte) (scope : Nat) : State :=
  s.store ⟨unit, pasid, view, none, va, bs, scope, 0⟩

/-- The block whose local space an item's addresses name. -/
def CopyItem.blk (it : CopyItem) : Nat := it.block.getD 0

/-- A write of an item is held, and VIEW_POOL is recorded once for the line that it needs (R416). -/
def State.itemHeld (s : State) (it : CopyItem) (va : Nat) : State :=
  if it.held.contains (lineOf va) then s
  else
    let s := s.onItem it.key fun i => { i with held := lineOf va :: i.held }
    match (s.group? it.blk it.gidx).bind fun g => g.flight? it.flight with
    | none => s
    | some f =>
      let pages := ((s.ctx? it.pasid).map fun c => c.vpsize.setWidth 64).getD 0
      s.defer ⟨it.blk, it.gidx, it.flight⟩
        ⟨Cause.viewPool, BitVec.ofNat 64 (lineOf va), pages, 0, true, some f.pc, none⟩ f.cnt f.dests 0 false false

/-- The store of an item's status record; that of a DTIER 5 entry stands in the named block's allocation (R106). -/
def CopyItem.statusStore (it : CopyItem) : Owed :=
  let tier := match it.kind with | .tier _ => it.dst.space == 1 | _ => false
  ⟨it.unit, it.pasid, it.view, if tier then it.block else none, it.dst.status, natBytes 16 it.status, max 2 it.dst.scope, it.key⟩

/-- The status record of an item is written at a change of STATE (R152). -/
def State.putStatus (s : State) (key : Nat) : State :=
  match s.item? key with
  | none => s
  | some it =>
    let o := it.statusStore
    if it.dst.status = 0 then s
    else
      let s := s.store o
      match (s.translate it.unit it.pasid (BitVec.ofNat 64 it.dst.status) .engineWrite).1 with
      | .ok pa _ _ _ => if o.block.isNone && s.viewFull it.pasid it.view pa then s.itemHeld it it.dst.status else s
      | _ => s

/-- An item changes STATE. -/
def State.itemState (s : State) (key st : Nat) : State :=
  match s.item? key with
  | none => s
  | some it => if it.state = st then s else (s.onItem key fun i => { i with state := st }).putStatus key

/-- A fatal fault is recorded: the first one gives REASON and FAULTVA (R150, R152). -/
def State.itemFault (s : State) (key reason va : Nat) : State :=
  s.onItem key fun i => if i.reason = 0 then { i with reason := reason, faultva := va } else i

/-- An item waits for a page (R150). -/
def State.itemWaits (s : State) (key va : Nat) : State := (s.onItem key fun i => { i with waitva := va + 1 }).itemState key 2

/-! ## One granule -/

/-- The source granule as an item reads it: poison and bits; none where the item must wait. -/
def State.itemRead (s : State) (it : CopyItem) (take loc : Bool) (gran : Nat) : Option (Bool × Nat) × State :=
  let lost (s : State) : Option (Bool × Nat) × State := (some (true, (s.freeWord (40000 + gran % 1024)).toNat), s)
  if loc then
    match s.localVia it.slots it.blk (BitVec.ofNat 64 (16 * gran)) 1 with
    | .error _ => lost s
    | .ok (b, off) =>
      let g := granOf off
      if s.localTransit b off || (take && s.segmentWaits b off) then (none, s)
      else if !take then (some (s.vaultPoisoned b g, leNat (s.vaultRead b off 16)), s)
      else
        match it.taken.find? (·.1 == b * 2 ^ 32 + g) with
        | some (_, []) => lost s
        | some (_, bs) => (some (false, leNat bs), s)
        | none =>
          if s.isFull b g then
            let bad := s.vaultPoisoned b g
            let bs := s.vaultRead b off 16
            let s := (s.setFull b g false).served b g true
            let s := s.onItem it.key fun i => { i with taken := i.taken ++ [(b * 2 ^ 32 + g, if bad then [] else bs)] }
            (some (bad, leNat bs), s)
          else
            let s := s.onItem it.key fun i => { i with pend := some ⟨b, off, true, [], 0, false, 0, [], true⟩ }
            (none, (s.itemState it.key 3).enqueue b g (.item it.key .fec))
  else
    let va := 16 * gran
    match s.translate it.unit it.pasid (BitVec.ofNat 64 va) .engineRead with
    | (.ok pa _ _ _, s) =>
      if s.inTransit pa then (none, s)
      else if s.unreachable pa 16 false then lost s
      else if s.portStopped pa 16 false then (none, s)
      else
        let (bs, s') := s.l2Read (chipOfUnit it.unit) it.pasid it.rview pa 16
        (some (s.readsPoison it.unit it.pasid it.rview pa 16, leNat (s.moved it.pasid it.rview va pa bs)), s')
    | (.host e, s) => (none, (s.askHost e).itemWaits it.key va)
    | (.fault r _ fw, s) =>
      if answerable r fw && !it.refused.contains (pageOf va) then (none, s.itemWaits it.key va)
      else lost (s.itemFault it.key r va)

/-- Every granule that some places need, read in order; none where the item must wait for one. -/
def State.itemReads (it : CopyItem) : List (Bool × Bool × Nat) → Contents → State → Option Contents × State
  | [], c, s => (some c, s)
  | (take, loc, gran) :: l, c, s =>
    match s.itemRead ((s.item? it.key).getD it) take loc gran with
    | (some x, s) => State.itemReads it l (((loc, gran), x) :: c) s
    | (none, s) => (none, s)

/-- A destination granule is done: moved, with its bytes and poison counted, or skipped. -/
def State.itemDone (s : State) (key gi n : Nat) (bad : Bool) : State :=
  s.onItem key fun i =>
    { i with
      moved := i.moved ++ [gi]
      wrote := i.wrote.filter (·.1 != gi)
      bytes := i.bytes + n
      poison := i.poison || bad
      npoison := if bad then i.npoison + 1 else i.npoison }

/-- One write of a destination granule: its index in walk order and its place, the bytes with their mask, whether they are poisoned, and the values
that it writes, with whether they complete the granule. -/
structure GranWrite where
  gi   : Nat
  loc  : Bool
  gran : Nat
  data : List Byte
  mask : BitVec 16
  bad  : Bool
  nums : List Nat
  last : Bool

/-- Such a write has been made: the granule is done, or some of its values are. -/
def State.itemWrote (s : State) (key : Nat) (w : GranWrite) : State :=
  let n := ((List.range 16).filter (w.mask.getLsbD ·)).length
  if w.last then s.itemDone key w.gi n w.bad
  else s.onItem key fun i =>
    { i with
      wrote := i.wrote ++ w.nums.map fun k => (w.gi, k)
      bytes := i.bytes + n
      poison := i.poison || w.bad
      npoison := if w.bad then i.npoison + 1 else i.npoison }

/-- Bytes of a granule written under a mask at a physical place by an engine. -/
def State.engineMask (s : State) (unit pasid view pa : Nat) (bs : List Byte) (mask : BitVec 16) : State :=
  (bs.zipIdx).foldl (fun s p => if mask.getLsbD p.2 then s.l2Write (chipOfUnit unit) pasid view (pa + p.2) [p.1] else s) s

/-- Some of a destination granule is written (R144, R146); false where the item must wait. What FESET and FEWAIT ask of a granule is Full only with the
write that completes it, and FEWAIT waits before the first. -/
def State.itemWrite (s : State) (it : CopyItem) (w : GranWrite) : Bool × State :=
  let full := w.mask == BitVec.allOnes 16
  if w.loc then
    match s.localVia it.slots it.blk (BitVec.ofNat 64 (16 * w.gran)) 1 with
    | .error _ => (true, s.itemDone it.key w.gi 0 false)
    | .ok (b, off) =>
      let g := granOf off
      if s.localTransit b off || s.segmentWaits b off then (false, s)
      else if it.dst.fewait && s.isFull b g && it.wrote.all (·.1 != w.gi) then
        let s := s.onItem it.key fun i => { i with pend := some ⟨b, off, false, w.data, w.mask, w.bad, w.gi, w.nums, w.last⟩ }
        (false, (s.itemState it.key 3).enqueue b g (.item it.key .fee))
      else
        let was := s.isFull b g
        let s := s.vaultMask b off w.data w.mask
        let s := if w.bad then s.poisonVault b g true else if full then s.poisonVault b g false else s
        let s := if full then s.fed b g else s
        let s := if w.last && (it.dst.feset || it.dst.fewait) then s.setFull b g true else s
        (true, (s.itemWrote it.key w).served b g was)
  else
    let va := 16 * w.gran
    match s.translate it.unit it.pasid (BitVec.ofNat 64 va) .engineWrite with
    | (.ok pa _ _ _, s) =>
      if s.inTransit pa || s.pageWaits pa then (false, s)
      else if s.unreachable pa 16 (it.view == 0) then (true, (s.itemFault it.key 0x0C va).itemDone it.key w.gi 0 false)
      else if it.view == 0 && s.portStopped pa 16 false then (false, s)
      else if s.viewFull it.pasid it.view pa then (false, s.itemHeld it va)
      else
        let s := (s.diverge it.pasid it.view va pa).engineMask it.unit it.pasid it.view pa w.data w.mask
        let s := if w.bad then s.poisonIn it.pasid it.view pa true else if full then s.mendIn it.unit it.pasid it.view pa else s
        (true, s.itemWrote it.key w)
    | (.host e, s) => (false, (s.askHost e).itemWaits it.key va)
    | (.fault r _ fw, s) =>
      if answerable r fw && !it.refused.contains (pageOf va) then (false, s.itemWaits it.key va)
      else (true, (s.itemFault it.key r va).itemDone it.key w.gi 0 false)

/-- A granule is read by a tier entry of DTIER 4, and its line installed at its home slice (R104): clean, and of nothing but memory. -/
def State.installLine (s : State) (it : CopyItem) (gi gran : Nat) : Bool × State :=
  match s.itemRead it false false gran with
  | (none, s) => (false, s)
  | (some (bad, _), s) =>
    let s := match s.translate it.unit it.pasid (BitVec.ofNat 64 (16 * gran)) .engineRead with
      | (.ok pa _ _ _, s) => (s.rootRead it.pasid pa 16).2
      | (_, s) => s
    (true, s.itemDone it.key gi 0 bad)

/-- The destination granules of an item, by their index in walk order, that it has not yet moved. -/
def CopyItem.left (it : CopyItem) (ms : List Move) : List (Nat × Bool × Nat) :=
  (((granulesOf ms).zipIdx).map fun p => (p.2, p.1)).filter fun p => !it.moved.contains p.1

/-- The moves that an item has still to make into a granule. -/
def CopyItem.movesInto (it : CopyItem) (ms : List Move) (p : Nat × Bool × Nat) : List Move :=
  ms.filter fun m => m.into p.2 && !it.wrote.contains (p.1, m.num)

/-- The moves that an item has still to make, wholly or in part. -/
def CopyItem.openMoves (it : CopyItem) (ms : List Move) : List Move :=
  let left := it.left ms
  ms.filter fun m => left.any fun p => m.into p.2 && !it.wrote.contains (p.1, m.num)

/-- The name under which an item keeps a taken granule. -/
def State.takenName (s : State) (it : CopyItem) (gran : Nat) : Option Nat :=
  match s.localVia it.slots it.blk (BitVec.ofNat 64 (16 * gran)) 1 with
  | .ok (b, off) => some (b * 2 ^ 32 + granOf off)
  | .error _ => none

/-- The names of the vault granules that moves read, in the order in which they do. -/
def State.takes (s : State) (it : CopyItem) (ms : List Move) : List Nat :=
  (ms.flatMap fun m => m.reads.filterMap fun p => if p.loc then s.takenName it p.gran else none).eraseDups

/-- Those of some moves that an item makes at once: all of them, or, where it takes its source granules, those whose granules it holds or may take: it
holds no more than four, unless `more` lets the first value have its own beyond them (R146, log 85). -/
def State.fitting (s : State) (it : CopyItem) (more : Bool) (ms : List Move) : List Move :=
  if !it.src.fetake then ms
  else
    (ms.foldl (fun (st : List Nat × List Move) m =>
      let new := (s.takes it [m]).filter fun k => !st.1.contains k
      if new = [] || decide (st.1.length + new.length ≤ 4) || (more && st.2.isEmpty) then (st.1 ++ new, st.2 ++ [m]) else st)
      (it.taken.map (·.1), [])).2

/-- Taken granules are consumed once every value that they feed has been written (R146). -/
def State.consume (s : State) (key : Nat) (ms : List Move) : State :=
  match s.item? key with
  | none => s
  | some it =>
    if it.taken = [] then s
    else
      let used := s.takes it (it.openMoves ms)
      s.onItem key fun i => { i with taken := i.taken.filter fun x => used.contains x.1 }

/-- The free choices of an item where its values meet (R145, log 4). -/
def CopyItem.picks (it : CopyItem) (k : Nat) : Bool := Config.freeBit it.seed (10 ^ 20 + k)

/-- Moves into one destination granule of an item what can be moved at once; false where the item must wait. -/
def State.copyGranule (s : State) (key : Nat) (ms : List Move) (more : Bool) (p : Nat × Bool × Nat) : Bool × State :=
  match s.item? key with
  | none => (false, s)
  | some it =>
    if it.moved.contains p.1 then (true, s)
    else if it.install then s.installLine it p.1 p.2.2
    else
      let here := it.movesInto ms p
      let now := s.fitting it more here
      if now.isEmpty then (true, s)
      else
        let needs := (now.flatMap fun m => m.reads.map fun q => (it.src.fetake && q.loc, q.loc, q.gran)).eraseDups
        match State.itemReads it needs [] s with
        | (none, s) => (false, s)
        | (some c, s) =>
          let (bs, mask) := granuleData now it.dst it.src c p.2.1 p.2.2 it.picks
          let (on, s) := s.itemWrite ((s.item? key).getD it)
            ⟨p.1, p.2.1, p.2.2, bs, mask, now.any (·.bad c), now.map (·.num), now.length == here.length⟩
          (on, s.consume key ms)

/-- The index values of a gather or scatter are read from the index record once, none for a value whose granule is poisoned or does not translate
(R109, R150); none of them where the item must wait. FETAKE in an index record has no effect (DESIGN CHOICE, log 95). -/
def State.itemIndex (s : State) (it : CopyItem) : Option (List (Option Int)) × State :=
  match it.rows, it.kind with
  | none, .gather | none, .scatter =>
    let ps := (List.range (it.idx.count 0)).map fun e => it.idx.places [e]
    match State.itemReads it ((ps.flatten.map fun p => (false, p.loc, p.gran)).eraseDups) [] s with
    | (some c, s) =>
      (some (ps.map fun p => if p.any fun x => (c.of x.loc x.gran).1 then none else some (readInt it.idx.type (BitVec.ofNat 64 (gather c p)))), s)
    | (none, s) => (none, s)
  | rows, _ => (some (rows.getD []), s)

/-- Moves granules of an item in turn until it must wait. -/
def State.copyGranules (key : Nat) (ms : List Move) (more : Bool) : List (Nat × Bool × Nat) → State → State
  | [], s => s
  | p :: l, s =>
    match s.copyGranule key ms more p with
    | (true, s) => State.copyGranules key ms more l s
    | (false, s) => s

/-- An item has come to its end, under a final STATE: nothing more of it is moved (R152). -/
def CopyItem.ended (it : CopyItem) : Bool := decide (4 ≤ it.state)

/-- An item sends nothing and waits only for peers or for its own full-empty act. -/
def CopyItem.blocked (it : CopyItem) : Bool := it.pend.isSome || (match it.kind with | .coll => true | _ => false)

/-- A tier entry is no group's item. -/
def CopyKind.isTier : CopyKind → Bool
  | .tier _ => true
  | _ => false

/-- An earlier item of its group has not started: items of one group start in issue order (R148). -/
def State.behind (s : State) (it : CopyItem) : Bool :=
  it.state == 0 && (s.items.takeWhile (·.key != it.key)).any fun j =>
    j.state == 0 && !j.kind.isTier && !it.kind.isTier && j.block == it.block && j.gidx == it.gidx

/-- A turn of an item (R151): up to 256 granules of 16 bytes, those of the given indexes or the next in walk order. An item that takes its source
granules goes in walk order, and so takes none before the granule that it writes needs it; where it holds four and can write nothing that they feed,
the next value has what it needs (R146, log 85). -/
def State.copyTurn (s : State) (key : Nat) (sel : List Nat) : State :=
  match s.item? key with
  | none => s
  | some it =>
    if it.blocked || it.ended || it.waitva != 0 || s.behind it then s
    else
      let s := if it.state = 0 then (s.itemState key 1).engineAcquire it.unit it.pasid it.rview (max 2 it.src.scope) else s.itemState key 1
      match s.itemIndex ((s.item? key).getD it) with
      | (none, s) => s
      | (some rows, s) =>
        let n := match it.kind with
          | .gather => it.src.count (it.src.ndim - 1)
          | _ => it.dst.count (it.dst.ndim - 1)
        let s := s.onItem key fun i =>
          { i with
            rows := some rows
            oob := i.oob || rows.any fun k => match k with | some v => (rowOf n v).isNone | none => false }
        match s.item? key with
        | none => s
        | some it =>
          let ms := it.moves
          let left := it.left ms
          let more := it.src.fetake && left.all fun p => (s.fitting it false (it.movesInto ms p)).isEmpty
          let todo := if more then left.take 1 else if sel = [] || it.src.fetake then left.take 256 else left.filter fun p => sel.contains p.1
          State.copyGranules key ms more todo s

/-- Every destination granule of an item that has started has been moved or skipped. -/
def CopyItem.over (it : CopyItem) : Bool := !it.blocked && !it.ended && it.state != 0 && it.rows.isSome && (it.left it.moves).isEmpty

/-- The pages of the source walk and of the destination walk that an item has still to move, up to 64 ahead on each side (R149). -/
def CopyItem.pagesAhead (it : CopyItem) : List Nat :=
  let open_ := it.openMoves it.moves
  let pages (f : Move → List Place) : List Nat := (((open_.flatMap f).filterMap fun p => if p.loc then none else some (pageOf (16 * p.gran))).eraseDups).take 65
  pages (·.dst) ++ pages Move.reads

/-- A group's core forgets clean copies of its L1, so that its later accesses observe what a unit of its cluster has written (R148). -/
def State.observe (s : State) (block gidx : Nat) : State :=
  match s.group? block gidx with
  | some g => s.acquire (s.coreOfGroup g) (s.pasidOf g) (s.viewOf g) 2
  | none => s

/-- A collective is over at this member: its chunks go, and a cancellation is told to the other members (R159). -/
def State.endColl (s : State) (it : CopyItem) (st : Nat) : State :=
  let seq := field it.coll 0x18 8
  let told (c : CollChunk) : Bool := c.pasid == it.pasid && c.seq == seq && c.member == 128
  let s' : State := { s with chunks := s.chunks.filter fun c => !(c.pasid == it.pasid && c.seq == seq) }
  if st = 6 ∧ ¬s.chunks.any told then { s' with sent := s'.sent ++ [⟨8, (s.portFrom 0).getD 0, it.pasid, 0, seq, 0, it.coll, []⟩] } else s'

/-- An item that has ended leaves its engine once its status record has been written, and its issuer's counter falls (R147, R148, R152). -/
def State.leaveItem (s : State) (key : Nat) : State :=
  match s.item? key with
  | none => s
  | some it =>
    if !it.ended || s.owed.any (·.by_ == key) then s
    else
      let s : State := { s with items := s.items.filter (·.key != key) }
      if it.kind.isTier then s else (s.observe it.blk it.gidx).land ⟨it.blk, it.gidx, it.flight⟩ []

/-- An item ends under a final STATE: its completion release, then its status record (R147, R152). -/
def State.endItem (s : State) (it : CopyItem) (st : Nat) : State :=
  if it.ended then s
  else
    let s := if it.kind = .coll then s.endColl it st else s
    let s := s.engineRelease it.unit it.pasid it.view (max 2 it.dst.scope)
    let s := match it.pend with
      | some p => (s.dequeue p.block (.item it.key .fec)).dequeue p.block (.item it.key .fee)
      | none => s
    ((s.onItem it.key fun i => { i with pend := none }).itemState it.key st).leaveItem it.key

/-- Items whose status records have been written since they ended leave their engines. -/
def State.leaveItems (s : State) : State := ((s.items.filter (·.ended)).map (·.key)).foldl State.leaveItem s

/-! ## Instructions -/

/-- An item as it is accepted: queued, with nothing moved. -/
def CopyItem.new (key : Nat) (kind : CopyKind) (pasid view : Nat) (block : Option Nat) (gidx flight : Nat) (pc : BitVec 57) (unit : Nat)
    (dst src idx : Tensor) (coll raw : List Byte) (slots : List ShSlot) : CopyItem :=
  ⟨key, kind, pasid, view, view, block, gidx, flight, pc, unit, dst, src, idx, coll, raw, key, false, none, [], [], [], [], none, 0, 0, false, false, 0,
    0, 0, 0, [], [], slots⟩

/-- The engine of the issuing group's cluster (R151). -/
def State.ownEngine (s : State) : Nat := engineUnit (clusterOfCore (s.coreOfGroup s.cur))
/-- It holds 64 items. -/
def State.engineFull (s : State) (unit : Nat) : Bool := decide (64 ≤ (s.items.filter (·.unit == unit)).length)

/-- A release made at issue at a scope waits for the group's earlier accesses (R147, R288, R303). -/
def State.releaseWaits (s : State) (scope : Nat) : Bool := !s.releaseReady s.cur s.cur.flights scope
/-- A status record's store, or the release of an item that has come to its end, waits for a write-back at a port (R309). -/
def State.itemStuck (s : State) (it : CopyItem) : Bool := s.releaseStuck it.view (max 2 it.dst.scope)

/-- The checks, the stalls and the effect of what `copyInstr` issues. -/
def copyInstrPlan (min : BitVec 6) (kind : CopyKind) (f : F64) (third : Nat) (check : State → List Byte → List Byte → List Byte → Option (Nat × Nat))
    (irrev : Option Bool) : Plan :=
  let h := hdr64 0x14 min f
  let addrs (c : Cx) : List DWord := [c.ssrc f.s1, c.ssrc f.s2] ++ if third = 0 then [] else [c.ssrc f.s3]
  let recs (c : Cx) : List (DWord × Nat) := (addrs c).zip [128, 128, third]
  let bytes (c : Cx) (k : Nat) : List Byte := match (recs c)[k]? with
    | some r => c.record r.1 r.2
    | none => []
  let tensors (c : Cx) : List Tensor :=
    [Tensor.parse (bytes c 0), Tensor.parse (bytes c 1)] ++ if third = 128 then [Tensor.parse (bytes c 2)] else []
  { ops := fun _ => sregOk f.s1 && sregOk f.s2 && (third == 0 || sregOk f.s3)
    uses := [(f.s1, true), (f.s2, true)] ++ if third = 0 then [] else [(f.s3, true)]
    mem := true
    acts := true
    reading := fun c => c.s.storesTo c.g (recs c)
    ask := fun c s => readRecords (recs c) s
    table := fun c => c.pins (irrev == some true)
    own := fun c =>
      match recordAlign (addrs c) with
      | some t => some t
      | none => match recordsSync c (recs c) with
        | .trap t => some t
        | .wait => none
        | .go => match check c.s (bytes c 0) (bytes c 1) (bytes c 2) with
          | some (code, k) => some (copyRecord (((addrs c)[k]?).getD 0) code k)
          | none => match extentFault c.s (c.s.window c.g.block) c.g.block (tensors c) with
            | some t => some t
            | none => match irrev with
              | some i => escape c h i
              | none => none
    wait := fun c =>
      c.s.memoryHeld c.g false || c.s.releaseWaits (Tensor.parse (bytes c 1)).scope || c.s.engineFull c.s.ownEngine ||
        recordsSync c (recs c) == .wait
    eff := fun c s =>
      let s := readRecords (recs c) s
      let d := Tensor.parse (bytes c 0)
      let r := Tensor.parse (bytes c 1)
      let view := s.viewOf s.cur
      let leaves := irrev == some true && view != 0
      let s := if leaves then s.pin else s
      let s := (s.setWide).release (s.coreOfGroup s.cur) (s.pasidOf s.cur) view (max 2 r.scope)
      let (k, s) := s.fresh
      let it := CopyItem.new k kind (s.pasidOf s.cur) view (some s.cur.block) s.cur.gidx s.nextKey c.run.pc s.ownEngine
        d r (if third = 128 then Tensor.parse (bytes c 2) else Tensor.zero) (if third = 64 then bytes c 2 else [])
        (bytes c 0 ++ bytes c 1 ++ bytes c 2 ++ List.replicate (128 - third) 0) (s.window s.cur.block)
      let s : State := { s with items := s.items ++ [{ it with view := if leaves then 0 else view }], cur := { s.cur with refused := false } }
      (c.launch h (.copy k) [] [] 0 s).putStatus k }

/-- TCOPY, TGATHER, TSCATTER and TCOLL: `third` is the length of their third record, 0 where they have none; `check` gives the code and
the record of their own rules. -/
def copyInstr (min : BitVec 6) (kind : CopyKind) (f : F64) (third : Nat) (check : State → List Byte → List Byte → List Byte → Option (Nat × Nat))
    (irrev : Option Bool) (s : State) : Host.Outcome State Fault Refusal :=
  issue (hdr64 0x14 min f) (copyInstrPlan min kind f third check irrev) s

/-- The checks of R140 on a destination and a source, with their record: every condition of the destination before any of the source (DESIGN CHOICE,
log 83). -/
def tensorFaults (d s : List Byte) : Option (Nat × Nat) :=
  (((Tensor.parse d).fault 0).map fun k => (k, 0)).or (((Tensor.parse s).fault 1).map fun k => (k, 1))

/-- The checks of R140 on a destination and a source, and of R141 on the pair (step 3 of R155), which name the destination's record (DESIGN CHOICE,
log 95). -/
def copyChecks (d s : List Byte) : Option (Nat × Nat) :=
  (tensorFaults d s).or ((copyPairFault (Tensor.parse d) (Tensor.parse s)).map fun k => (k, 0))

/-- TCOPY (R143). -/
def execTcopy (f : F64) (s : State) : Host.Outcome State Fault Refusal :=
  copyInstr 0x00 .copy f 0 (fun _ d s _ => copyChecks d s) none s

/-- The checks of TGATHER and TSCATTER: R140 on the three records, R141 on the pair, and R156, code 0x13 before 0x14; those of the pair and 0x13 name
the destination's record (DESIGN CHOICE, log 95). -/
def rowChecks (alongDst : Bool) (d s i : List Byte) : Option (Nat × Nat) :=
  (tensorFaults d s).or (((Tensor.parse i).fault 2).map (fun k => (k, 2))) |>.or
    ((pairFault (Tensor.parse d) (Tensor.parse s)).map fun k => (k, 0)) |>.or
    ((rowsFault alongDst (Tensor.parse d) (Tensor.parse s) (Tensor.parse i)).map fun k => (k, 0)) |>.or
    ((indexFault (Tensor.parse i)).map fun k => (k, 2))

/-- TGATHER (R156). -/
def execTgather (f : F64) (s : State) : Host.Outcome State Fault Refusal :=
  copyInstr 0x01 .gather f 128 (fun _ => rowChecks true) none s
/-- TSCATTER (R156). -/
def execTscatter (f : F64) (s : State) : Host.Outcome State Fault Refusal :=
  copyInstr 0x02 .scatter f 128 (fun _ => rowChecks false) none s

/-- Logical package of a group. -/
def packageOf (locid : Word) : Nat := natBits locid.toNat 15 7

/-- A collective descriptor breaks the table of R157 for an issuer. -/
def collFault (pkg : Nat) (s : Tensor) (c : List Byte) : Option Nat :=
  let op := field c 0 1
  let wire := field c 2 1
  let reducing := op ≤ 1
  if 6 < op ∨ (reducing ∧ 2 < field c 1 1) ∨
      (if reducing then wire ≠ 0xB ∧ wire ≠ 0xC else wire ≠ s.type.toNat ∧ ¬(wire = 8 ∧ s.skind = 1)) ∨
      4095 < field c 4 4 ∨ field c 8 16 / 2 ^ pkg % 2 = 0 ∨ (3 ≤ op ∧ op ≤ 5 ∧ 127 < field c 3 1) then some 0x15
  else none

/-- TCOLL (R157): the pair of records and the descriptor are checked. -/
def execTcoll (f : F64) (s : State) : Host.Outcome State Fault Refusal :=
  copyInstr 0x03 .coll f 64
    (fun st d s c => (copyChecks d s).or
      ((collFault (packageOf st.cur.locid) (Tensor.parse s) c).map fun k => (k, 2))) (some (f.modBit 0)) s

/-- The checks, the stalls and the effect of what `execTcancel` issues: .all ignores sA, so any code stands in S1 (DESIGN CHOICE, log 83). -/
def tcancelPlan (f : F64) : Plan :=
  let h := hdr64 0x14 0x04 f
  let all := f.modBit 0
  { ops := fun _ => all || sregOk f.s1
    uses := if all then [] else [(f.s1, true)]
    mem := true
    acts := true
    wait := fun c => c.s.memoryHeld c.g false
    eff := fun c s =>
      let a := (c.ssrc f.s1).toNat
      let mine := s.items.filter fun i =>
        if all then i.block == some s.cur.block && !i.kind.isTier
        else a != 0 && i.dst.status == a && i.pasid == s.pasidOf s.cur && i.unit == s.ownEngine
      c.launch h (.tcancel (mine.map (·.key))) [] [] 0 s.setWide }

/-- TCANCEL (R159). -/
def execTcancel (f : F64) (s : State) : Host.Outcome State Fault Refusal :=
  issue (hdr64 0x14 0x04 f) (tcancelPlan f) s

/-- The checks, the stalls and the effect of what `execTstat` issues. -/
def tstatPlan (f : F64) : Plan :=
  let h := hdr64 0x14 0x06 f
  { ops := fun _ => sregOk f.dst && sregOk f.s1
    uses := [(f.s1, true)]
    mem := true
    wait := fun c => c.s.memoryHeld c.g true
    eff := fun c s =>
      c.launch h (.tstat (c.ssrc f.s1) (f.dst.toNat - 0x80)) [] [.sca (f.dst.toNat - 0x80)] 0 s.setWide }

/-- TSTAT (R161). -/
def execTstat (f : F64) (s : State) : Host.Outcome State Fault Refusal :=
  issue (hdr64 0x14 0x06 f) (tstatPlan f) s

/-! ## The tier schedule (R103 to R107, R160) -/

/-- An entry of the schedule (R104). -/
structure TierEntry where
  index    : Nat
  va       : Nat
  src      : Nat
  dst      : Nat
  layer    : Nat
  dtier    : Nat
  flags    : Nat
  replica  : Nat
  done     : Nat
  launchId : Nat
  blk      : Nat

/-- An entry from its 64 bytes. -/
def TierEntry.parse (base k : Nat) (bs : List Byte) : TierEntry :=
  ⟨k, base + 0x40 + 64 * k, field bs 0 8, field bs 8 8, field bs 0x10 4, field bs 0x14 1, field bs 0x15 1, field bs 0x18 8, field bs 0x20 8,
    field bs 0x28 4, field bs 0x2C 4⟩

/-- FLAGS bit 0, valid. -/
def TierEntry.valid (e : TierEntry) : Bool := e.flags % 2 == 1

/-- Reads records at addresses. -/
abbrev Reader := Nat → Nat → State → Except Xlated (List Byte) × State

/-- The entries of a table from index k on, read with `rd`. One that cannot be read fails, where none before it lies above a limit; after such a
one it ends the table (log 86). -/
def tierEntries (rd : Reader) (base limit : Nat) : Nat → Nat → Bool → State → Except (Nat × Xlated) (List TierEntry) × State
  | 0, _, _, s => (.ok [], s)
  | n + 1, k, above, s =>
    match rd (base + 0x40 + 64 * k) 64 s with
    | (.error x, s) => (if above then .ok [] else .error (base + 0x40 + 64 * k, x), s)
    | (.ok bs, s) =>
      let e := TierEntry.parse base k bs
      match tierEntries rd base limit n (k + 1) (above || decide (limit < e.layer)) s with
      | (.ok l, s) => (.ok (e :: l), s)
      | (x, s) => (x, s)

/-- The header: VERSION aside, COUNT, LOOKAHEAD and CURSOR. -/
structure TierHead where
  count  : Nat
  ahead  : Nat
  cursor : Nat

/-- The header from its bytes. -/
def TierHead.parse (bs : List Byte) : TierHead := ⟨field bs 4 4, field bs 8 4, field bs 12 4⟩

/-- Records read by a unit of the device at the point that a reader function gives. -/
def coreRecord : Reader := fun va n s => s.readRecord (BitVec.ofNat 64 va) n

/-- Records read by an engine. -/
def engineRecord (unit pasid : Nat) : Reader := fun va n s =>
  readVirt unit pasid .engineRead (fun s pa _ =>
    let (bs, s') := s.l2Read (chipOfUnit unit) pasid 0 pa 64
    (s', if s.unreachable pa 64 false then .error (.fault 0x0C 0 false)
      else if s.readsPoison unit pasid 0 pa 64 then .error (.fault 0x0B 0 false) else .ok bs)) 64 (n / 64) (BitVec.ofNat 64 va) s

/-- The records of an entry make it ill-formed (R105, R106, R140, R141). -/
def entryBad (e : TierEntry) (d s : Tensor) : Bool :=
  (d.fault 0).isSome || (s.fault 1).isSome || (copyPairFault d s).isSome || ((e.dtier == 5) != (d.space == 1))

/-- The first entry with LAYER at most a limit that has a LAYER below that of the entry before it, or an ill-formed DTIER (R105). Entries that are
not valid count too (DESIGN CHOICE, log 86). -/
def layersBad (limit : Nat) : Option Nat → List TierEntry → Option TierEntry
  | _, [] => none
  | prev, e :: l =>
    if decide (e.layer ≤ limit) && ((match prev with | some p => decide (e.layer < p) | none => false) || e.dtier = 0 || 5 < e.dtier) then some e
    else layersBad limit (some e.layer) l

/-- The state of an entry (R107): 0 where the device has recorded none. -/
def State.tierState (s : State) (pasid k : Nat) : Nat :=
  ((s.sched.find? fun e => e.pasid == pasid && e.index == k).map (·.state)).getD 0
/-- An entry has started. -/
def State.tierStarted (s : State) (pasid k : Nat) : Bool :=
  s.tierState pasid k != 0 || s.items.any fun i => i.pasid == pasid && i.kind == .tier k

/-- What a check of entries finds: an address of a record that is not aligned, a record that cannot be read, or an ill-formed entry. -/
inductive EntryFault where
  | misaligned (va : Nat) | unread (va : Nat) (x : Xlated) | illFormed (va : Nat)

/-- What the entries of a table that a limit makes eligible, and that have not started, break first, in the order of R155. -/
def entriesCheck (rd : Reader) (pasid limit : Nat) (es : List TierEntry) (s : State) : Option EntryFault :=
  let due := es.filter fun e => e.valid && decide (e.layer ≤ limit) && !s.tierStarted pasid e.index
  let records := due.flatMap fun e => [e.dst, e.src]
  (((records.find? fun a => a % 64 != 0).map EntryFault.misaligned).or
    (records.findSome? fun a => match (rd a 128 s).1 with | .ok _ => none | .error x => some (.unread a x))).or
  (match layersBad limit none es with
  | some e => some (.illFormed e.va)
  | none => due.findSome? fun e => match (rd e.dst 128 s).1, (rd e.src 128 s).1 with
      | .ok d, .ok r => if entryBad e (Tensor.parse d) (Tensor.parse r) then some (.illFormed e.va) else none
      | _, _ => none)

/-- The new cursor of a TSCHED (R160). -/
def newCursor (inc : Bool) (old layer : Nat) : Nat := if inc then (old + 1) % 2 ^ 32 else max old (layer % 2 ^ 32)

/-- CURSOR as the atomic update of a group would find it (R160), where its place translates. -/
def State.cursorNow (s : State) (g : Group) (base : Nat) : Option Nat :=
  match s.translate (s.coreOfGroup g) (s.pasidOf g) (BitVec.ofNat 64 (base + 12)) .engineWrite with
  | (.ok pa _ _ _, s) =>
    some ((s.atomicAt (s.coreOfGroup g) (s.pasidOf g) 0 0 5 0 (base + 12) pa 4 [] fun _ => none).1.toNat % 2 ^ 32)
  | _ => none

/-- The header as TSCHED takes it: with CURSOR as its update finds it. -/
def State.tschedHead (s : State) (g : Group) (base : Nat) (bs : List Byte) : TierHead :=
  let hd := TierHead.parse bs
  { hd with cursor := (s.cursorNow g base).getD hd.cursor }

/-- What TSCHED finds at issue: a trap, a wait, or the header. With TSBASE 0 XADDR is 0 (DESIGN CHOICE, log 86). The cursor, which it is about to
write, must translate for that. -/
def tschedCheck (c : Cx) (inc : Bool) (layer : Nat) : Sync × TierHead :=
  let base := ((c.s.ctxOf c.g).map (·.tsbase.toNat)).getD 0
  let bad (va : Nat) (code : Nat) : Sync := .trap (copyRecord (BitVec.ofNat 64 va) code 3)
  if base = 0 then (bad 0 0x17, ⟨0, 0, 0⟩)
  else match coreRecord base 64 c.s with
    | (.error x, _) => (syncOf c.g (BitVec.ofNat 64 base) false x, ⟨0, 0, 0⟩)
    | (.ok bs, s) =>
      let hd := c.s.tschedHead c.g base bs
      let limit := newCursor inc hd.cursor layer + hd.ahead
      match tierEntries coreRecord base limit hd.count 0 false s with
      | (.error (va, x), _) => (syncOf c.g (BitVec.ofNat 64 va) false x, hd)
      | (.ok es, s) => match entriesCheck coreRecord (c.s.pasidOf c.g) limit es s with
        | some (.misaligned va) => (.trap (.precise Cause.misalign (BitVec.ofNat 64 va) 0), hd)
        | some (.unread va x) => (syncOf c.g (BitVec.ofNat 64 va) false x, hd)
        | some (.illFormed va) => (bad va 0x16, hd)
        | none => match (s.translate (s.coreOfGroup c.g) (s.pasidOf c.g) (BitVec.ofNat 64 (base + 12)) .engineWrite).1 with
          | .ok pa _ _ _ => (if s.inTransit pa then .wait else .go, hd)
          | x => (syncOf c.g (BitVec.ofNat 64 (base + 12)) true x, hd)

/-- The ranges that TSCHED reads at issue, as far as it knows them, and the state that it leaves: the header, the entries, and the records of those that are
due. -/
def tschedReads (c : Cx) (inc : Bool) (layer : Nat) (s : State) : List (DWord × Nat) × State :=
  let base := ((c.s.ctxOf c.g).map (·.tsbase.toNat)).getD 0
  let at_ (a n : Nat) : DWord × Nat := (BitVec.ofNat 64 a, n)
  if base = 0 then ([], s)
  else match coreRecord base 64 s with
    | (.error _, s) => ([at_ base 64], s)
    | (.ok bs, s) =>
      let hd := s.tschedHead c.g base bs
      let limit := newCursor inc hd.cursor layer + hd.ahead
      let entries := (List.range hd.count).map fun k => at_ (base + 0x40 + 64 * k) 64
      match tierEntries coreRecord base limit hd.count 0 false s with
      | (.error _, s) => (at_ base 64 :: entries, s)
      | (.ok es, s) =>
        let due := es.filter fun e => e.valid && decide (e.layer ≤ limit) && !s.tierStarted (s.pasidOf c.g) e.index
        let records := due.flatMap fun e => [at_ e.dst 128, at_ e.src 128]
        (at_ base 64 :: entries ++ records, (readRecords records s).seekPages c.g [BitVec.ofNat 64 (base + 12)] .engineWrite)

/-- The checks, the stalls and the effect of what `execTsched` issues. -/
def tschedPlan (f : F64) : Plan :=
  let h := hdr64 0x14 0x05 f
  let inc := f.modBit 0
  { ops := fun _ => sregOk f.s1
    uses := [(f.s1, true)]
    mem := true
    acts := true
    reading := fun c => c.s.storesTo c.g (tschedReads c inc (c.ssrc f.s1).toNat c.s).1
    ask := fun c s => (tschedReads c inc (c.ssrc f.s1).toNat s).2
    own := fun c => (tschedCheck c inc (c.ssrc f.s1).toNat).1.fault
    wait := fun c => c.s.memoryHeld c.g false || c.s.releaseWaits 5 || (tschedCheck c inc (c.ssrc f.s1).toNat).1 == .wait
    eff := fun c s =>
      let hd := (tschedCheck c inc (c.ssrc f.s1).toNat).2
      let base := ((s.ctxOf s.cur).map (·.tsbase.toNat)).getD 0
      let pasid := s.pasidOf s.cur
      let core := s.coreOfGroup s.cur
      let s := s.setWide
      let s := match s.translate core pasid (BitVec.ofNat 64 (base + 12)) .engineWrite with
        | (.ok pa _ _ _, s) =>
          (s.atomicAt core pasid 0 0 5 0 (base + 12) pa 4 [] fun old =>
            some (BitVec.ofNat 64 (newCursor inc (old.toNat % 2 ^ 32) (c.ssrc f.s1).toNat))).2
        | (_, s) => s
      let layer := newCursor inc hd.cursor (c.ssrc f.s1).toNat
      c.launch h (.tsched (f.modBit 1) layer) [] [] 0 { s with cur := { s.cur with refused := false } } }

/-- TSCHED (R160): the cursor is updated at issue. -/
def execTsched (f : F64) (s : State) : Host.Outcome State Fault Refusal :=
  issue (hdr64 0x14 0x05 f) (tschedPlan f) s

/-- Every valid entry with LAYER at most a cursor has left state 0 (R160). -/
def State.scheduleDone (s : State) (pasid core layer : Nat) : Bool :=
  let base := ((s.ctx? pasid).map (·.tsbase.toNat)).getD 0
  let rd := engineRecord (engineUnit (clusterOfCore core)) pasid
  match rd base 64 s with
  | (.ok bs, s') =>
    match (tierEntries rd base layer (TierHead.parse bs).count 0 false s').1 with
    | .ok es => es.all fun e => !e.valid || decide (layer < e.layer) || s.tierState pasid e.index != 0
    | .error _ => false
  | _ => false

/-- What remains of TCANCEL, TSTAT and TSCHED. A tier entry whose item TCANCEL names stays in state 0 and may start again (DESIGN CHOICE, log 86). -/
def State.finishCopy (s : State) (r : FRef) : FlightOp → State
  | .tcancel keys =>
    let s := (s.items.filter fun i => keys.contains i.key).foldl (fun (s : State) it => s.endItem it 6) s
    s.land r []
  | .tstat a dst =>
    match s.group? r.block r.gidx with
    | none => s
    | some g =>
      let unit := engineUnit (clusterOfCore (s.coreOfGroup g))
      let it := s.items.find? fun i => a != 0 && i.dst.status == a.toNat && i.unit == unit && i.pasid == s.pasidOf g
      s.land r [.sca dst (match it with | some i => BitVec.ofNat 64 i.status | none => 0xF)]
  | .tsched wait layer =>
    match s.group? r.block r.gidx with
    | none => s
    | some g => if wait && !s.scheduleDone (s.pasidOf g) (s.coreOfGroup g) layer then s else s.land r []
  | _ => s

/-! ## Events of the engines -/

/-- COPY_ITEM_TURN (R151): the item of the cue's key moves the granules whose indexes the cue lists, or the next 256. -/
def execCopyItemTurn (s : State) : Host.Outcome State Fault Refusal := .next (s.copyTurn s.cue.key s.cue.nums).wake

/-- The DONE word of an entry is written (R107). -/
def State.putDone (s : State) (pasid unit done st npoison scope : Nat) : State :=
  if done = 0 then s else s.engineStore unit pasid 0 done (natBytes 8 (st + 2 ^ 32 * npoison)) (max 2 scope)

/-- The entry of an index as an engine reads it. -/
def State.tierEntry? (s : State) (pasid unit k : Nat) : Option TierEntry :=
  let base := ((s.ctx? pasid).map (·.tsbase.toNat)).getD 0
  if base = 0 then none
  else match (engineRecord unit pasid (base + 0x40 + 64 * k) 64 s).1 with
    | .ok bs => some (TierEntry.parse base k bs)
    | .error _ => none

/-- The device keeps the state of an entry and its count of poisoned granules (R107). -/
def State.noteTier (s : State) (pasid k st npoison : Nat) : State :=
  { s with sched := s.sched.filter (fun e => !(e.pasid == pasid && e.index == k)) ++ [⟨pasid, k, st, npoison⟩] }

/-- The state of a schedule entry changes, and its DONE word with it. -/
def State.setTier (s : State) (pasid unit k st npoison scope : Nat) : State :=
  let s := s.noteTier pasid k st npoison
  match s.tierEntry? pasid unit k with
  | some e => s.putDone pasid unit e.done st npoison scope
  | none => s

/-- A granule that an entry has written is set Full at its completion (FLAGS bit 2 of R104). -/
def State.fillGranules (s : State) (it : CopyItem) : State :=
  (granulesOf it.moves).foldl (fun s p =>
    match s.localVia it.slots it.blk (BitVec.ofNat 64 (16 * p.2)) 1 with
    | .ok (b, off) => if p.1 then s.feBit b (granOf off) true else s
    | .error _ => s) s

/-- A schedule entry ends in a state of R107. -/
def State.endTier (s : State) (it : CopyItem) (k st : Nat) : State :=
  let e := s.tierEntry? it.pasid it.unit k
  let s := if st ≠ 4 && (e.map fun e => e.flags / 4 % 2 == 1).getD false then s.fillGranules it else s
  (s.endItem it (if st = 4 then 6 else if it.reason = 0 then 4 else 5)).setTier it.pasid it.unit k st it.npoison it.dst.scope

/-- COPY_ITEM_COMPLETION (R147, R107): the item of the cue's key, once every granule has been moved. -/
def execCopyItemCompletion (s : State) : Host.Outcome State Fault Refusal :=
  .next (match s.item? s.cue.key with
    | none => s
    | some it =>
      if !it.over then s
      else match it.kind with
        | .tier k => s.endTier it k (if it.npoison = 0 then 1 else 2)
        | _ => s.endItem it (if it.reason = 0 then 4 else 5)).wake

/-- The live block that a DTIER 5 entry names, where it is placed (R106): of the copies of a block that has forked the first, which is the block itself
while it lives (R410; DESIGN CHOICE, log 96). -/
def State.namedBlock (s : State) (pasid : Nat) (e : TierEntry) : Option Block :=
  let named (b : Block) : Bool := b.pasid == pasid && b.lin == e.blk && b.res != .discarded &&
    ((s.launch? b.launch).map fun l => l.rc.launchId == e.launchId).getD false
  (least ((s.blocks.filter named).map (·.key))).bind s.block?

/-- Logical clusters of a context's placement in ascending order, as location IDs (R15, R151). -/
def clustersOf (shape : Word) : List Word :=
  let n := shape.toNat
  let pk := n % 128 + 1
  let rt := n / 128 % 2 + 1
  let ch := n / 256 % 4 + 1
  let ly := n / 1024 % 2 + 1
  let cl := n / 2048 % 2 + 1
  (List.range pk).flatMap fun p => (List.range rt).flatMap fun r => (List.range ch).flatMap fun c =>
    (List.range ly).flatMap fun l => (List.range cl).map fun k =>
      BitVec.ofNat 32 (2 ^ 15 * p + 2 ^ 14 * r + 2 ^ 12 * c + 2 ^ 11 * l + 2 ^ 10 * k)

/-- The engine that runs an entry: that of the named block's vault, or that of cluster k mod n (R151); none where another package
runs it. -/
def State.tierUnit (s : State) (pasid : Nat) (b : Option Block) (k : Nat) : Option Nat :=
  match b with
  | some b => some (engineUnit (clusterOfCore b.vault.core))
  | none =>
    let cs := clustersOf (((s.ctx? pasid).map (·.shape)).getD 0)
    match cs[k % cs.length]? with
    | none => none
    | some a =>
      let p := s.physId pasid a
      if natBits p.toNat 15 7 = s.slot then some (engineUnit (clusterOf p)) else none

/-- The item of an entry on an engine: one of DTIER 4 installs the source's lines, released as its destination record says (R104, R107). The
addresses of a DTIER 5 entry lie in the named block's own allocation (R106). `raw` holds the bytes of the records. -/
def tierItem (key pasid k unit : Nat) (e : TierEntry) (named : Option Block) (d s : Tensor) (raw : List Byte) : CopyItem :=
  { CopyItem.new key (.tier k) pasid 0 (named.map Block.key) 0xFF 0 0 unit d s Tensor.zero [] raw [] with install := e.dtier == 4, rows := some [] }

/-- The scope at which an entry's DONE word is released: that of its destination record (R107). -/
def State.tierScope (s : State) (pasid : Nat) (e : TierEntry) : Nat :=
  match (engineRecord (engineUnit 0) pasid e.dst 128 s).1 with
  | .ok d => (Tensor.parse d).scope
  | .error _ => 0

/-- The header of a context's schedule as an engine reads it, where the context runs (R478). -/
def State.tierHead? (s : State) (pasid : Nat) : Option TierHead :=
  let base := ((s.ctx? pasid).map fun c => if c.begun then c.tsbase.toNat else 0).getD 0
  if base = 0 then none
  else match engineRecord (engineUnit 0) pasid base 64 s with
    | (.ok bs, _) => some (TierHead.parse bs)
    | _ => none

/-- An entry waits for its block, which is unplaced or saved (R106). -/
def State.tierWaits (s : State) (pasid : Nat) (e : TierEntry) : Bool :=
  e.dtier == 5 && (match s.namedBlock pasid e with
    | some b => b.res == Residence.saved
    | none => true)

/-- Another package's engine runs an entry (R151). -/
def State.tierElsewhere (s : State) (pasid : Nat) (e : TierEntry) : Bool := e.dtier != 5 && (s.tierUnit pasid none e.index).isNone

/-- An entry that nothing holds up starts on its engine, or is dropped: its block is gone, or its destination does not fit the block (R106). -/
def State.enterTier (s : State) (pasid : Nat) (e : TierEntry) : State :=
  let k := e.index
  let reader := engineRecord (engineUnit 0) pasid
  let named := if e.dtier = 5 then s.namedBlock pasid e else none
  let live := s.launches.any fun l => l.pasid == pasid && l.rc.launchId == e.launchId && l.unplaced e.blk
  if e.dtier = 5 ∧ named.isNone then
    (if live then s else s.setTier pasid (engineUnit 0) k 4 0 (s.tierScope pasid e))
  else if s.tierWaits pasid e then s
  else
    match s.tierUnit pasid named k, (reader e.dst 128 s).1, (reader e.src 128 s).1 with
    | some unit, .ok d, .ok r =>
      if s.engineFull unit then s
      else
        let dst := Tensor.parse d
        let bad := match named with
          | some b => (extentFault s [] b.key [dst]).isSome
          | none => false
        if bad then
          ((s.engineRelease unit pasid 0 (max 2 dst.scope)).setTier pasid unit k 4 0 dst.scope).logError ErrKind.tier pasid [k]
        else
          let (key, s) := s.fresh
          ({ s with items := s.items ++ [tierItem key pasid k unit e named dst (Tensor.parse r) (d ++ r ++ List.replicate 128 0)] } : State).putStatus key
    | _, _, _ => s

/-- The start of an eligible entry of a context's tier schedule, where its block, its records and an engine allow it (R105, R106); entries that
other packages run, and those that wait for their blocks, hold up none after them. -/
def State.startTier (s : State) (pasid k : Nat) : State :=
  match s.ctx? pasid, s.tierHead? pasid with
  | some ctx, some hd =>
    let reader := engineRecord (engineUnit 0) pasid
    let limit := hd.cursor + hd.ahead
    match tierEntries reader ctx.tsbase.toNat limit hd.count 0 false s with
    | (.error _, _) => s
    | (.ok es, s) =>
      match es.find? fun (x : TierEntry) => x.index == k with
      | none => s
      | some e =>
        let upTo : List TierEntry := es.filter fun x => decide (x.index ≤ k)
        let blocked := (entriesCheck reader pasid limit upTo s).isSome ||
          upTo.any fun x => decide (x.index < k) && x.valid && !s.tierStarted pasid x.index && !s.tierWaits pasid x && !s.tierElsewhere pasid x
        if !e.valid || decide (limit < e.layer) || s.tierStarted pasid k || blocked then s else s.enterTier pasid e
  | _, _ => s

/-- TIER_ENTRY_START (R105, R106): entry cue.key of the context cue.gidx starts where it is eligible and no earlier one is in its way. Of an entry that
another package runs, the cue lists the state and the count that come from there. -/
def execTierEntryStart (s : State) : Host.Outcome State Fault Refusal :=
  let p := s.cue.gidx
  .next (match s.cue.nums, s.tierEntry? p (engineUnit 0) s.cue.key with
    | [st, n], some e =>
      if s.tierElsewhere p e && e.valid && decide (1 ≤ st) && decide (st ≤ 4) then
        s.noteTier p s.cue.key st n
      else s
    | _, _ => s.startTier p s.cue.key).wake

/-- Entries of a block that leaves its allocation before they complete are dropped (R106). -/
def State.dropTiers (s : State) (block : Nat) : State :=
  (s.items.filter fun i => i.block == some block).foldl (fun s it => match it.kind with
    | .tier k => s.endTier it k 4
    | _ => s) s

/-- A granule that an entry wrote, or of a source whose line it installed, is poisoned. -/
def State.tierBad (s : State) (it : CopyItem) (p : Bool × Nat) : Bool :=
  if p.1 then (match s.localVia [] it.blk (BitVec.ofNat 64 (16 * p.2)) 1 with
    | .ok (b, off) => s.vaultPoisoned b (granOf off)
    | .error _ => false)
  else (match (s.translate it.unit it.pasid (BitVec.ofNat 64 (16 * p.2)) .engineRead).1 with
    | .ok pa _ _ _ => s.poisonedAt pa
    | _ => false)

/-- A granule that an entry has had rewritten from its replica is poisoned no more (R110). -/
def State.tierClean (s : State) (it : CopyItem) (p : Bool × Nat) : State :=
  if p.1 then (match s.localVia [] it.blk (BitVec.ofNat 64 (16 * p.2)) 1 with
    | .ok (b, off) => s.poisonVault b (granOf off) false
    | .error _ => s)
  else (match (s.translate it.unit it.pasid (BitVec.ofNat 64 (16 * p.2)) .engineRead).1 with
    | .ok pa _ _ _ => s.setPoison pa false
    | _ => s)

/-- A refetched granule of a line that an entry of DTIER 4 installed is written at home (R104, R110; DESIGN CHOICE, log 97); flash, which
no slice holds, keeps what it has. -/
def State.reinstall (s : State) (it : CopyItem) (ms : List Move) (d : Tensor) (gran : Nat) : State :=
  match s.translate it.unit it.pasid (BitVec.ofNat 64 (16 * gran)) .engineRead with
  | (.ok pa _ _ _, s) =>
    let here := ms.filter (·.into (false, gran))
    match State.itemReads it ((here.flatMap fun m => m.reads.map fun p => (false, p.loc, p.gran)).eraseDups) [] s with
    | (some c, s) =>
      if here.any (·.bad c) || s.tierOf pa == .flash || s.inTransit pa || s.pageWaits pa then s
      else
        let (bs, mask) := granuleData here d it.src c false gran it.picks
        ((bs.zipIdx).foldl (fun (s : State) x => if mask.getLsbD x.2 then s.rootWrite it.pasid (pa + x.2) [x.1] else s) s).setPoison pa false
    | (none, s) => s
  | (_, s) => s

/-- The poisoned granules of a completed entry fetched again from its replica, all of them or it stays as it was (R107, R110); what its destination
record asks for at completion is signalled again. -/
def State.refetch (s : State) (pasid k : Nat) : State :=
  let entry : Option TierEntry := if s.tierState pasid k = 2 then s.tierEntry? pasid (engineUnit 0) k else none
  match entry with
    | none => s
    | some e =>
      let named := if e.dtier = 5 then s.namedBlock pasid e else none
      let reader := engineRecord (engineUnit 0) pasid
      if e.flags / 2 % 2 = 0 ∨ s.updating then s
      else match s.tierUnit pasid named k, (reader e.dst 128 s).1, (reader e.src 128 s).1, (reader e.replica 128 s).1 with
        | some unit, .ok d, .ok o, .ok r =>
          let dst := Tensor.parse d
          let old := Tensor.parse o
          let src := Tensor.parse r
          let tgt := if e.dtier = 4 then old else dst
          if (src.fault 1).isSome || (copyPairFault tgt src).isSome then s
          else
            let (key, s) := s.fresh
            let ms := copyMoves tgt src
            let into := { tgt with fewait := false, feset := e.dtier == 5 && (dst.feset || dst.fewait || e.flags / 4 % 2 == 1) }
            let it := { tierItem key pasid k unit e named into { src with fetake := false } [] with install := false, state := 1 }
            let gs : List ((Bool × Nat) × Nat) := (granulesOf ms).zipIdx
            let it := { it with moved := (gs.filter fun (p : (Bool × Nat) × Nat) => !s.tierBad it p.1).map fun (p : (Bool × Nat) × Nat) => p.2 }
            let t : State := { s with items := s.items ++ [it] }
            let t := if e.dtier = 4 then (it.left ms).foldl (fun (t : State) p => t.reinstall it ms tgt p.2.2) t
              else State.copyGranules key ms false (it.left ms) t
            match t.item? key with
            | some j =>
              let all := if e.dtier = 4 then true else j.npoison == 0 && (it.left ms).all fun p => j.moved.contains p.1
              let t := if all && e.dtier != 4 then (it.left ms).foldl (fun (t : State) p => t.tierClean it p.2) t else t
              let clean := all && gs.all fun (p : (Bool × Nat) × Nat) => !t.tierBad it p.1
              let t := t.engineRelease unit pasid 0 (max 2 dst.scope)
              let t := if clean && j.reason = 0 then
                  (t.onItem key fun i => { i with state := 4, dst := dst, bytes := 16 * gs.length }).putStatus key else t
              let t : State := { t with items := t.items.filter (·.key != key) }
              if clean && j.reason = 0 then t.setTier pasid unit k 3 0 dst.scope else t
            | none => s
        | _, _, _, _ => s

/-- REPLICA_REFETCH (R110): the poisoned granules of a completed entry are written clean from its replica. -/
def execReplicaRefetch (s : State) : Host.Outcome State Fault Refusal := .next (s.refetch s.cue.gidx s.cue.key).wake

end Sys2Proof.Machine
end

