-- ==== Sys2Proof/Machine/Keccak.lean ====
section
/-! DEFINITION. SHAKE256 and SHA3-512 of byte strings, which the manual names (R401, R448, R469, R470) and FIPS 202 fixes (log 76). -/

namespace Sys2Proof

/-- The round constants. -/
def keccakConsts : List DWord :=
  [0x0000000000000001, 0x0000000000008082, 0x800000000000808A, 0x8000000080008000, 0x000000000000808B, 0x0000000080000001,
   0x8000000080008081, 0x8000000000008009, 0x000000000000008A, 0x0000000000000088, 0x0000000080008009, 0x000000008000000A] ++
  [0x000000008000808B, 0x800000000000008B, 0x8000000000008089, 0x8000000000008003, 0x8000000000008002, 0x8000000000000080,
   0x000000000000800A, 0x800000008000000A, 0x8000000080008081, 0x8000000000008080, 0x0000000080000001, 0x8000000080008008]
/-- The rotation of each lane, x + 5 y. -/
def keccakTurns : List Nat := [0, 1, 62, 28, 27, 36, 44, 6, 55, 20, 3, 10, 43, 25, 39, 41, 45, 15, 21, 8, 18, 2, 61, 56, 14]

/-- Lane (x, y) of the 25. -/
def keccakLane (a : List DWord) (x y : Nat) : DWord := (a[x % 5 + 5 * (y % 5)]?).getD 0
/-- The 25 lanes of a function of their places. -/
def keccakLanes (f : Nat → Nat → DWord) : List DWord := (List.range 25).map fun i => f (i % 5) (i / 5)

/-- The five steps of one round. -/
def keccakRound (a : List DWord) (rc : DWord) : List DWord :=
  let c := (List.range 5).map fun x => (List.range 5).foldl (fun (w : DWord) y => w ^^^ keccakLane a x y) 0
  let d := (List.range 5).map fun x => keccakLane c (x + 4) 0 ^^^ (keccakLane c ((x + 1) % 5) 0).rotateLeft 1
  let t := keccakLanes fun x y => (keccakLane a x y ^^^ keccakLane d x 0).rotateLeft ((keccakTurns[x + 5 * y]?).getD 0)
  let p := keccakLanes fun x y => keccakLane t (x + 3 * y) x
  (keccakLanes fun x y => keccakLane p x y ^^^ (~~~keccakLane p (x + 1) y &&& keccakLane p (x + 2) y)).mapIdx fun i w => if i = 0 then w ^^^ rc else w
/-- The permutation. -/
def keccakF (a : List DWord) : List DWord := keccakConsts.foldl keccakRound a

/-- Bytes, least significant first. -/
def keccakWord (bs : List Byte) : DWord := bs.foldr (fun b (w : DWord) => (w <<< 8) ||| b.setWidth 64) 0
def keccakBytes (w : DWord) : List Byte := (List.range 8).map fun k => w.extractLsb' (8 * k) 8

/-- One block of `rate` bytes is absorbed. -/
def keccakAbsorb (rate : Nat) (a : List DWord) (bs : List Byte) : List DWord :=
  keccakF (a.mapIdx fun i w => if 8 * i < rate then w ^^^ keccakWord ((bs.drop (8 * i)).take 8) else w)
/-- n blocks of a string are absorbed, one after the other. -/
def keccakAll (rate : Nat) : Nat → List Byte → List DWord → List DWord
  | 0, _, a => a
  | n + 1, bs, a => keccakAll rate n (bs.drop rate) (keccakAbsorb rate a bs)
/-- n blocks are squeezed. -/
def keccakSqueeze (rate : Nat) : Nat → List DWord → List Byte
  | 0, _ => []
  | n + 1, a => (a.flatMap keccakBytes).take rate ++ keccakSqueeze rate n (keccakF a)

/-- A string with its suffix and the last bit of the padding. -/
def keccakPad (rate : Nat) (suffix : Byte) (bs : List Byte) : List Byte :=
  let k := rate - bs.length % rate
  if k = 1 then bs ++ [suffix ||| 0x80] else bs ++ [suffix] ++ List.replicate (k - 2) 0 ++ [0x80]
/-- n bytes of a sponge. -/
def sponge (rate : Nat) (suffix : Byte) (bs : List Byte) (n : Nat) : List Byte :=
  let p := keccakPad rate suffix bs
  (keccakSqueeze rate (n / rate + 1) (keccakAll rate (p.length / rate) p (List.replicate 25 0))).take n

/-- SHAKE256. -/
def shake256 (bs : List Byte) (n : Nat) : List Byte := sponge 136 0x1F bs n
/-- SHA3-512. -/
def sha3 (bs : List Byte) : List Byte := sponge 72 0x06 bs 64

end Sys2Proof
end

