-- ==== Sys2Proof/Machine/Matrix.lean ====
section
/-! DEFINITION. The matrix engine (R247 to R285): parameter blocks and their checks, exact dot products and the two roundings, weight
loads, passes, drains and fills, the reservation table, allocations, and the instructions of major 0x15 with their events. -/

namespace Sys2Proof.Machine

/-! ## Parameter blocks (R253, R255, R256) -/

/-- A parameter block. -/
structure MxParm where
  op     : Nat
  afmt   : Nat
  wfmt   : Nat
  flags  : Nat
  scope  : Nat
  out    : Nat
  tile   : Nat
  trow   : Nat
  k      : Nat
  n      : Nat
  m      : Nat
  koff   : Nat
  noff   : Nat
  base   : Nat
  s0     : Int
  s1     : Int
  scale  : Nat
  status : Nat
  rest   : Bool

/-- A parameter block from its 128 bytes. -/
def MxParm.parse (bs : List Byte) : MxParm where
  op := field bs 0 1
  afmt := field bs 1 1
  wfmt := field bs 2 1
  flags := field bs 3 1
  scope := field bs 4 1
  out := field bs 5 1
  tile := field bs 6 1
  trow := field bs 7 1
  k := field bs 8 2
  n := field bs 10 2
  m := field bs 12 2
  koff := field bs 14 1
  noff := field bs 15 1
  base := field bs 0x10 4
  s0 := (BitVec.ofNat 32 (field bs 0x14 4)).toInt
  s1 := (BitVec.ofNat 32 (field bs 0x18 4)).toInt
  scale := field bs 0x1C 4
  status := field bs 0x20 4
  rest := (bs.drop 0x24).any (· != 0)

/-- The address that stands for none. -/
def mxNone : Nat := 0xFFFFFFFF
/-- A FLAGS bit. -/
def MxParm.flag (p : MxParm) (k : Nat) : Bool := p.flags / 2 ^ k % 2 == 1
/-- SWAP, ZERO, FEWAIT, PLANE, POW2 and SATF. -/
def MxParm.swap (p : MxParm) : Bool := p.flag 0
def MxParm.zero (p : MxParm) : Bool := p.flag 1
def MxParm.fewait (p : MxParm) : Bool := p.flag 2
def MxParm.plane (p : MxParm) : Bool := p.flag 3
def MxParm.pow2 (p : MxParm) : Bool := p.flag 4
def MxParm.satf (p : MxParm) : Bool := p.flag 5
/-- Segments and column tiles of an operation. -/
def MxParm.segs (p : MxParm) : Nat := p.k / 128
def MxParm.cols (p : MxParm) : Nat := p.n / 128

/-- A format code that the command may not use (R97). -/
def badFormat (mxemu : DWord) (c : Nat) : Bool := decide (0x20 ≤ c) || (decide (6 ≤ c) && !mxemu.getLsbD c)

/-- FLAGS bits that an operation uses. -/
def mxFlags (op : Nat) : Nat :=
  match op with
  | 1 => 0x04
  | 2 => 0x07
  | 3 => 0x38
  | _ => 0x04

/-- The first condition of R255 that a parameter block meets, for the operation of the instruction and the extent of the cells. -/
def MxParm.bad (p : MxParm) (op : Nat) (mxemu : DWord) (lim : Nat) : Option Nat :=
  let load := op == 1
  let run := op == 2
  let drain := op == 3
  let fill := op == 4
  let raw := (drain || fill) && p.out == 4
  let e4m3 := drain && p.out == 3
  let rows := p.m == 0 || decide (128 < p.m)
  if p.op ≠ op then some 0x01
  else if (if run then badFormat mxemu p.afmt else p.afmt != 0) || (if load then badFormat mxemu p.wfmt else p.wfmt != 0) then some 0x02
  else if (load || run) && (p.k == 0 || p.k % 128 != 0 || p.n == 0 || p.n % 128 != 0 || decide (lim < p.koff * 128 + p.k) ||
      decide (lim < p.noff * 128 + p.n)) then some 0x03
  else if (!load && rows) || (load && p.m != 0) || ((drain || fill) && (p.k != 0 || p.n != 0 || p.koff != 0 || p.noff != 0)) then some 0x03
  else if decide (31 < p.tile) || (!load && decide (128 < p.trow + p.m)) || (run && decide (32 < p.tile + p.cols)) ||
      (raw && (p.m != 128 || p.trow != 0)) || (load && (p.tile != 0 || p.trow != 0)) then some 0x04
  else if decide (4 < p.out) || (fill && p.out != 0 && p.out != 4) || ((load || run) && p.out != 0) || (p.plane && (p.out == 0 || p.out == 4)) ||
      (p.pow2 && p.out != 3) || (p.satf && p.out != 1 && p.out != 2) || p.flags &&& (0xFF - mxFlags op) != 0 then some 0x05
  else if p.scope % 8 = 7 then some 0x06
  else if p.base % 16 != 0 || p.s0 % 16 != 0 || p.s1 % (if e4m3 then 4 else 16) != 0 || (p.scale != mxNone && p.scale % 16 != 0) ||
      (e4m3 && p.scale == mxNone) then some 0x07
  else if p.status ≠ mxNone ∧ p.status % 16 ≠ 0 then some 0x08
  else if p.scope / 8 ≠ 0 ∨ p.rest then some 0x09
  else none

/-- The element type of a native format code (R96); an emulable one is held in eight planes (R99). -/
def mxType (code : Nat) : BitVec 4 :=
  match code with
  | 0 => 8
  | 1 => 9
  | 2 => 0
  | 3 => 0xE
  | 4 => 0xB
  | 5 => 0xA
  | _ => 0
/-- Bytes of a plane block, and significand planes streamed (R96); an emulable block is reckoned as eight (R276). -/
def mxBlock (code : Nat) : Nat := 16 * planeCount (mxType code)
def mxPlanes (code : Nat) : Nat :=
  match code with
  | 0 => 4
  | 1 => 3
  | 3 => 4
  | 5 => 11
  | _ => 8

/-- The output type of an OUTFMT. -/
def outType (out : Nat) : BitVec 4 :=
  match out with
  | 1 => 0xB
  | 2 => 0xA
  | 3 => 8
  | _ => 0xC
/-- Bytes of a drained row, which are the same in either form. -/
def rowBytes (out : Nat) : Nat := 16 * typeBits (outType out)

/-- Bytes of a raw image (R272). -/
def rawBytes : Nat := 0x10040

/-- Ranges of local addresses that an operation reads, and those that it writes, each with its length (R254). -/
def MxParm.reads (p : MxParm) : List (Int × Nat) :=
  let scales (n : Nat) : List (Int × Nat) := if p.scale = mxNone then [] else [((p.scale : Int), 4 * n)]
  match p.op with
  | 1 => (List.range p.segs).flatMap (fun (s : Nat) => (List.range p.n).map fun (n : Nat) =>
      ((p.base : Int) + s * p.s0 + n * p.s1, mxBlock p.wfmt)) ++ scales (p.segs * p.cols)
  | 2 => (List.range p.segs).flatMap (fun (s : Nat) => (List.range p.m).map fun (m : Nat) =>
      ((p.base : Int) + s * p.s0 + m * p.s1, mxBlock p.afmt)) ++ scales (p.segs * p.m)
  | 4 => if p.out = 4 then [((p.base : Int), rawBytes)] else (List.range p.m).map fun (m : Nat) => ((p.base : Int) + m * p.s0, 512)
  | _ => []
def MxParm.writes (p : MxParm) : List (Int × Nat) :=
  if p.op ≠ 3 then []
  else if p.out = 4 then [((p.base : Int), rawBytes)]
  else (List.range p.m).map (fun (m : Nat) => ((p.base : Int) + m * p.s0, rowBytes p.out)) ++
    if p.out = 3 then (List.range p.m).map fun (m : Nat) => ((p.scale : Int) + m * p.s1, 4) else []

/-- The tiles that an operation names. -/
def MxParm.tiles (p : MxParm) : List Nat :=
  match p.op with
  | 1 => []
  | 2 => (List.range p.cols).map (p.tile + ·)
  | _ => [p.tile]
/-- The weight tiles, by segment and column tile, that it uses. -/
def MxParm.cells (p : MxParm) : List (Nat × Nat) :=
  if p.op = 1 ∨ p.op = 2 then (List.range p.segs).flatMap fun s => (List.range p.cols).map fun t => (p.koff + s, p.noff + t) else []

/-! ## Exact arithmetic (R257 to R259) -/

/-- The descriptor of an emulable code (R99) decodes an element. -/
def describedElem (page : List Byte) (desc : List Byte) (x : Nat) : Fp :=
  let width := field desc 1 1
  let eb := field desc 2 1
  let mb := field desc 3 1
  let bias := (BitVec.ofNat 16 (field desc 4 2)).toInt
  let special := field desc 6 1
  let v := x % 2 ^ width
  match field desc 0 1 with
  | 1 => let i := (BitVec.ofNat width v).toInt; .num (decide (i < 0)) i.natAbs 0
  | 2 => .num false v 0
  | 3 =>
    let neg := v % 2 == 1
    let e := v / 2 % 2 ^ eb
    let f := v / 2 ^ (eb + 1) % 2 ^ mb
    if e = 2 ^ eb - 1 ∧ special = 1 then (if f = 0 then .inf neg else .nan false)
    else if e = 2 ^ eb - 1 ∧ f = 2 ^ mb - 1 ∧ special = 2 then .nan false
    else if e = 0 then .num neg f (1 - bias - mb)
    else .num neg (f + 2 ^ mb) (e - bias - mb)
  | 4 => Fmt.fp32.decode (BitVec.ofNat 64 (field page (field desc 8 4 + 4 * v) 4))
  | _ => .num false 0 0

/-- An element of a format code (R80, R77, R99, R258). -/
def mxElem (page : List Byte) (code x : Nat) : Fp :=
  if code < 6 then elemFp (mxType code) (BitVec.ofNat 64 x) else describedElem page ((page.drop (16 * code)).take 16) x

/-- A product of an activation and a weight: a NaN with whether it is a new one, an infinity, or a finite value. DESIGN CHOICE (log 98): a product that is
zero because an integer operand is has the sign that the operands' signs give, so that of -1 and an integer 0 is -0; R258 says nothing of it. -/
def mxProduct (a b : Fp) : Fp × Bool :=
  match a, b with
  | .nan _, _ => (.nan false, false)
  | _, .nan _ => (.nan false, false)
  | .num n m e, .num n' m' e' => (.num (n != n') (m * m') (e + e'), false)
  | x, y => if x.isZero || y.isZero then (.nan false, true) else (.inf (x.neg != y.neg), false)

/-- ExactDot (R258), with NV of R259. -/
def exactDot (ps : List (Fp × Fp)) : Fp × Bool :=
  let xs := ps.map fun p => mxProduct p.1 p.2
  let inf (n : Bool) : Bool := xs.any fun x => match x.1 with | .inf k => k == n | _ => false
  let both := inf true && inf false
  let nv := both || xs.any (·.2)
  if both || xs.any (·.1.isNan) then (.nan false, nv)
  else if inf true then (.inf true, nv)
  else if inf false then (.inf false, nv)
  else
    let vs : List (Bool × Nat × Int) := xs.filterMap fun x => match x.1 with | .num n m e => some (n, m, e) | _ => none
    let q := vs.foldl (fun (q : Int) (v : Bool × Nat × Int) => min q v.2.2) 0
    let t := vs.foldl (fun (t : Int) (v : Bool × Nat × Int) => t + scaled v.1 v.2.1 v.2.2 q) 0
    if t = 0 then (.num (vs.all fun (v : Bool × Nat × Int) => v.1 && v.2.1 == 0) 0 0, nv) else (.num (decide (t < 0)) t.natAbs q, nv)

/-- The first rounding of R257: the product of the sum and its two scales, which are multiplied in their order (R259). -/
def promoteFirst (x : Fp × Bool) (act tile : Word) : DWord × BitVec 5 :=
  let f := Fmt.fp32
  let a := f.decode (act.setWidth 64)
  let t := f.decode (tile.setWidth 64)
  let parts := [x.1, a, t]
  let neg := x.1.neg != (a.neg != t.neg)
  let endless (p : Fp) : Bool := match p with | .inf _ => true | _ => false
  let inf := parts.any endless
  if x.1.isNan then (f.nan, flagIf x.2 flagNV)
  else if a.isNan then (f.nan, 0)
  else if t.isNan then (f.nan, flagIf ((x.1.isZero && endless a) || (endless x.1 && a.isZero)) flagNV)
  else if inf && parts.any Fp.isZero then (f.nan, flagNV)
  else match x.1, a, t with
    | .num _ m e, .num _ m' e', .num _ m'' e'' => Rnd.plain.round f neg (m * m' * m'') (e + e' + e'')
    | _, _, _ => (f.inf neg, 0)

/-- The second rounding of R257: the accumulator addition, every NaN quiet (R259). -/
def promoteSecond (acc : Word) (q : DWord) : DWord × BitVec 5 :=
  let a := Fmt.fp32.decode (acc.setWidth 64)
  let b := Fmt.fp32.decode q
  if a.isNan || b.isNan then (Fmt.fp32.nan, 0) else fpSum .fp32 .plain a b

/-- What one segment adds to an accumulator: the operands, the activation's scale and the weight tile's. -/
structure MxTerm where
  acts    : List Fp
  weights : List Fp
  ascale  : Word
  tscale  : Word
  bad     : Bool

/-- One accumulator element through its segments, in ascending K. -/
def accumulate (ts : List MxTerm) (acc : Word) : Word × BitVec 5 :=
  ts.foldl (fun (r : Word × BitVec 5) (t : MxTerm) =>
    let q := promoteFirst (exactDot (t.acts.zip t.weights)) t.ascale t.tscale
    let x := promoteSecond r.1 q.1
    (x.1.setWidth 32, r.2 ||| q.2 ||| x.2)) (acc, 0)

/-! ## Draining (R269, R270) -/

/-- The scale of a row drained to E4M3. -/
def rowScale (pow2 : Bool) (row : List Word) : Word :=
  let mags := row.map fun x => x.toNat % 2 ^ 31
  let amax := (mags.filter fun m => decide (m < 0x7F800000)).foldl max 0
  match Fmt.fp32.decode (BitVec.ofNat 64 amax) with
  | .num _ m e =>
    if m = 0 then 0x3F800000
    else if pow2 then
      let l := leading m 448 e
      let u := inUnits m 448 e l
      let k := if u.1 = u.2 then l else l + 1
      ((roundTo .fp32 .even false false false 1 1 (max k (-149))).1).setWidth 32
    else ((roundTo .fp32 .up false false false m 448 e).1).setWidth 32
  | _ => 0x3F800000

/-- One element drained to E4M3 over its row's scale. -/
def drainE4m3 (sc x : Word) : DWord × BitVec 5 :=
  let f := Fmt.fe4m3
  match Fmt.fp32.decode (x.setWidth 64), Fmt.fp32.decode (sc.setWidth 64) with
  | .num n m e, .num _ m' e' =>
    let r := roundTo f .even false true n m m' (e - e')
    (r.1, r.2 &&& (flagNX ||| flagUF ||| flagNV))
  | .inf n, _ => (f.largest n, 0)
  | .nan s, _ => (f.nan, flagIf s flagNV)
  | _, _ => (f.nan, 0)

/-- The elements of a row as OUTFMT converts them, with the conditions they record. DESIGN CHOICE (log 98): those of E4M3 are the conditions of the elements'
conversions; the rounding of the row's scale records none. -/
def drainRow (p : MxParm) (row : List Word) : List Nat × BitVec 5 :=
  let one (x : Word) : DWord × BitVec 5 :=
    match p.out with
    | 0 => (x.setWidth 64, 0)
    | 3 => drainE4m3 (rowScale p.pow2 row) x
    | _ =>
      let r := cvtValue (outType p.out) 0xC .even p.satf (x.setWidth 64)
      (r.1, r.2 &&& ~~~flagNV)
  let rs := row.map one
  (rs.map fun (r : DWord × BitVec 5) => r.1.toNat, rs.foldl (fun (fl : BitVec 5) (r : DWord × BitVec 5) => fl ||| r.2) 0)

/-- The bytes of a drained row, in plane or element form. -/
def drainBytes (p : MxParm) (codes : List Nat) : List Byte :=
  let t := outType p.out
  if p.plane then (toPlanes t codes).flatMap (natBytes 16) else codes.flatMap (natBytes (typeBits t / 8))

/-! ## Tiles, banks and allocations -/

/-- A row of a tile. -/
def MxTile.row (t : MxTile) (r : Nat) : List Word :=
  match t.rows[r]? with
  | some (x :: l) => x :: l
  | _ => List.replicate 128 0
/-- Changes one row of a tile. -/
def MxTile.setRow (t : MxTile) (r : Nat) (row : List Word) : MxTile :=
  { t with rows := (if t.rows = [] then List.replicate 128 [] else t.rows).set r row }
/-- Sets or clears a row's poison bit. -/
def MxTile.setBad (t : MxTile) (r : Nat) (on : Bool) : MxTile :=
  { t with bad := if on then t.bad ||| (1#128 <<< r) else t.bad &&& ~~~(1#128 <<< r) }

/-- The image of a raw transfer (R272). -/
def MxTile.image (t : MxTile) : List Byte :=
  (List.range 128).flatMap (fun r => (t.row r).flatMap fun (x : Word) => natBytes 4 x.toNat) ++ natBytes 16 t.bad.toNat ++ natBytes 8 t.mism.toNat ++
    List.replicate 40 0
/-- A tile from its image. -/
def MxTile.ofImage (k : Nat) (bs : List Byte) (bad : Bool) : MxTile :=
  { num := k
    rows := (List.range 128).map fun r => (List.range 128).map fun c => BitVec.ofNat 32 (field bs (512 * r + 4 * c) 4)
    bad := BitVec.ofNat 128 (field bs 0x10000 16) ||| (if bad then 1 else 0)
    mism := BitVec.ofNat 64 (field bs 0x10010 8) &&& 0x8000000000003FF0 }

/-- The bank that passes read, and the shadow. -/
def MxWeights.active (w : MxWeights) : MxBank := if w.one then w.b1 else w.b0

/-- The weight tile of an allocation at a segment and column tile. -/
def MxAlloc.weight (a : MxAlloc) (seg col : Nat) : MxWeights :=
  (a.weights.find? fun (w : MxWeights) => w.seg == seg && w.col == col).getD ⟨seg, col, .clean, .clean, false⟩
/-- Puts a weight tile. -/
def MxAlloc.putWeight (a : MxAlloc) (w : MxWeights) : MxAlloc :=
  { a with weights := w :: a.weights.filter fun (v : MxWeights) => !(v.seg == w.seg && v.col == w.col) }
/-- A weight tile's shadow bank is written. -/
def MxWeights.load (w : MxWeights) (b : MxBank) : MxWeights := if w.one then { w with b0 := b } else { w with b1 := b }
/-- The banks of weight tiles exchange (R262). -/
def MxAlloc.swap (a : MxAlloc) (cs : List (Nat × Nat)) : MxAlloc :=
  cs.foldl (fun (a : MxAlloc) (c : Nat × Nat) => let w := a.weight c.1 c.2; a.putWeight { w with one := !w.one }) a

/-- The mark of some cell of a column, and a cell's format code (R248). -/
def MxBank.marked (b : MxBank) (n : Nat) : Bool := (b.bad[n]?).getD 0 != 0
def MxBank.code (b : MxBank) (n k : Nat) : Nat := ((b.odd.find? fun x => x.1 == 128 * n + k).map (·.2)).getD b.fmt
/-- The format codes that cells of a bank have. -/
def MxBank.codes (b : MxBank) : List Nat := b.fmt :: b.odd.map (·.2)
/-- Marks one cell. -/
def MxBank.mark (b : MxBank) (n k : Nat) : MxBank :=
  { b with bad := (if b.bad = [] then List.replicate 128 0 else b.bad).modify n (· ||| (1#128 <<< k)) }

/-- The partner pane of a redundant allocation, by the pane's own segments: segment g stands at partner segment (g + 1) mod 4 (R273). -/
def MxAlloc.partner (a : MxAlloc) : MxAlloc :=
  { a with tiles := a.mtiles, weights := a.mweights.map fun (w : MxWeights) => { w with seg := (w.seg + 3) % 4 } }
/-- A partner pane goes back into its allocation. -/
def MxAlloc.withPartner (a b : MxAlloc) : MxAlloc :=
  { a with mtiles := b.tiles, mweights := b.weights.map fun (w : MxWeights) => { w with seg := (w.seg + 1) % 4 } }
/-- An act on the pane is performed on its partner too (R273). -/
def MxAlloc.both (f : MxAlloc → MxAlloc) (a : MxAlloc) : MxAlloc := if a.mode = 3 then (f a).withPartner (f a.partner) else f a
/-- What a partner's active cell holds changes without the hardware's notice: the segment, the column tile, the column, the row and the element
code. Only this makes panes differ (R273). -/
def MxAlloc.upset (a : MxAlloc) : List Nat → MxAlloc
  | [sg, t, n, k, x] =>
    let w := a.weight sg t
    let cols (b : MxBank) : MxBank := { b with cols := (if b.cols = [] then List.replicate 128 (List.replicate 128 0) else b.cols).modify n (·.set k x) }
    a.putWeight (if w.one then { w with b1 := cols w.b1 } else { w with b0 := cols w.b0 })
  | _ => a
/-- The mirrors are as the owned pane is: at a grant, and at a restore (R250, R407). -/
def MxAlloc.mirrored (a : MxAlloc) : MxAlloc := if a.mode = 3 then a.withPartner a else a

/-- A tile of an allocation. -/
def MxAlloc.tile (a : MxAlloc) (k : Nat) : MxTile := (a.tiles.find? fun (t : MxTile) => t.num == k).getD (.clean k)
/-- It owns a tile. -/
def MxAlloc.owns (a : MxAlloc) (k : Nat) : Bool := a.tiles.any fun (t : MxTile) => t.num == k
/-- Puts a tile. -/
def MxAlloc.putTile (a : MxAlloc) (t : MxTile) : MxAlloc :=
  { a with tiles := a.tiles.map fun (u : MxTile) => if u.num == t.num then t else u }
/-- The mask of owned tiles. -/
def MxAlloc.mask (a : MxAlloc) : DWord := maskOf fun i => a.owns i
/-- The panes that a mode takes (R250). -/
def panesOf (mode pane : Nat) : List Nat :=
  match mode with
  | 1 => [0, 1, 2, 3]
  | 2 => [pane]
  | _ => [pane, pane ^^^ 1]

/-- The allocation of a block on an engine. -/
def State.mxAlloc? (s : State) (cluster block : Nat) : Option MxAlloc :=
  s.mxAllocs.find? fun a => a.cluster == cluster && a.block == block
/-- What a block holds on an engine: its allocation, or the one that is granted again after its restore (R277). -/
def State.mxHolding? (s : State) (cluster block : Nat) : Option MxAlloc :=
  (s.mxAlloc? cluster block).or ((s.mxReqs.find? fun r => r.cluster == cluster && r.block == block && r.image.isSome).bind (·.image))
/-- Changes an allocation. -/
def State.onMxAlloc (s : State) (cluster block : Nat) (f : MxAlloc → MxAlloc) : State :=
  { s with mxAllocs := s.mxAllocs.map fun a => if a.cluster == cluster && a.block == block then f a else a }
/-- The engine of a block. -/
def State.mxCluster (s : State) (g : Group) : Nat := clusterOfCore (s.coreOfGroup g)

/-! ## Local reads of an engine -/

/-- Bytes at a local address of an entry, and whether a granule of them is poisoned (R275). Where a pass or a weight load reads a granule that lanes
have stored and their group's MXFENCE has not passed, each byte is one that the granule holds or held before such a store, a free choice
(R267, R268, R12; log 4). So it is where a store's MXFENCE had not passed when the command was issued; where it had, and the storing group is not synchronised
with the issuer, the bytes are the present ones (DESIGN CHOICE, log 98). -/
def State.mxRead (s : State) (e : MxEntry) (a : Int) (n : Nat) : List Byte × Bool :=
  match s.localVia e.slots e.block (BitVec.ofNat 64 a.toNat) n with
  | .error _ => (List.replicate n 0, false)
  | .ok (b, off) =>
    let grans := (List.range ((off % 16 + n + 15) / 16)).map (granOf off + ·)
    let loose : List (Nat × Nat × List (List Byte)) :=
      if e.op = 1 ∨ e.op = 2 then (s.unfenced.map (fun (u : Unfenced) => (u.home, u.gran, u.past)) ++ e.loose).filter (·.1 == b) else []
    (((s.vaultRead b off n).zipIdx).map fun (x : Byte × Nat) =>
      let k := (off + x.2) % 16
      let past := (loose.filter (·.2.1 == granOf (off + x.2))).flatMap (·.2.2)
      s.freePick (60000 + 16 * granOf (off + x.2) + k) x.1 (past.map fun bs => (bs[k]?).getD 0), grans.any (s.vaultPoisoned b))

/-- An FP32 scale, and its granule's poison. -/
def State.mxScale (s : State) (e : MxEntry) (p : MxParm) (k : Nat) : Word × Bool :=
  if p.scale = mxNone then (0x3F800000, false)
  else
    let r := s.mxRead e ((p.scale : Int) + 4 * k) 4
    (BitVec.ofNat 32 (leNat r.1), r.2)

/-- The 128 element codes of a plane block, and its poison. -/
def State.mxElems (s : State) (e : MxEntry) (code : Nat) (a : Int) : List Nat × Bool :=
  let r := s.mxRead e a (mxBlock code)
  let ps := (List.range (planeCount (mxType code))).map fun k => field r.1 (16 * k) 16
  ((List.range 128).map fun j => fromPlanes (mxType code) ps j, r.2)

/-- The matrix format page of a context, as the firmware that emulates reads it (R99). -/
def State.formatPage (s : State) (cluster pasid : Nat) : List Byte :=
  let base := ((s.ctx? pasid).map (·.mxfmt.toNat)).getD 0
  match (engineRecord (engineUnit cluster) pasid base 4096 s).1 with
  | .ok bs => bs
  | .error _ => []

/-! ## Entries -/

/-- The parameter block of an entry. -/
def MxEntry.params (e : MxEntry) : MxParm := MxParm.parse e.parm
/-- Tiles and cells that an entry touches. -/
def MxEntry.tiles (e : MxEntry) : List Nat := if e.op = 5 then (List.range 32).filter fun k => e.mask.getLsbD k else e.params.tiles
def MxEntry.cells (e : MxEntry) : List (Nat × Nat) := if e.op = 5 then [] else e.params.cells
/-- The status address of an entry. -/
def MxEntry.statusAt (e : MxEntry) : Nat := if e.op = 5 then mxNone else e.params.status
/-- The scope of its acquire and release (R266). DESIGN CHOICE (log 98): that of MXZERO, which names none, is .layer. -/
def MxEntry.scope (e : MxEntry) : Nat := if e.op = 5 then 2 else max 2 (e.params.scope % 8)

/-- The status record (R279) under a STATE and DONE. -/
def MxEntry.status (e : MxEntry) (st : Nat) (done : DWord) : Nat :=
  let bit (f : BitVec 5) (k : Nat) : Nat := if e.flags &&& f = 0 then 0 else 2 ^ k
  st + bit flagNV 4 + bit flagOF 5 + bit flagUF 6 + bit flagNX 7 + (if e.poison then 2 ^ 8 else 0) + (if e.emu then 2 ^ 9 else 0) +
    2 ^ 16 * min e.waitcyc 0xFFFFFFFF + 2 ^ 64 * done.toNat
/-- STATE of an entry that is held. -/
def MxEntry.state (e : MxEntry) : Nat := if e.ended ≠ 0 then e.ended else if e.granted.isSome then 1 else 0

/-- The PASID and view in which an entry acts. -/
def State.mxPasid (s : State) (e : MxEntry) : Nat := ((s.block? e.block).map (·.pasid)).getD 0
def State.mxView (s : State) (e : MxEntry) : Nat := ((s.block? e.block).map (·.view)).getD 0

/-- The release of an entry (R266). -/
def State.mxRelease (s : State) (e : MxEntry) : State := s.engineRelease (engineUnit e.cluster) (s.mxPasid e) (s.mxView e) e.scope

/-- The status record is written at a change of STATE, and released (R279). -/
def State.mxStatus (s : State) (e : MxEntry) (st : Nat) (done : DWord) : State :=
  if e.statusAt = mxNone then s
  else match s.localVia e.slots e.block (BitVec.ofNat 64 e.statusAt) 16 with
    | .error _ => s
    | .ok (b, off) => s.store ⟨engineUnit e.cluster, s.mxPasid e, s.mxView e, some b, off, natBytes 16 (e.status st done), e.scope, e.key⟩

/-- Changes one entry. -/
def State.onMxEntry (s : State) (key : Nat) (f : MxEntry → MxEntry) : State :=
  { s with mxEntries := s.mxEntries.map fun e => if e.key == key then f e else e }

/-- An earlier entry of the block holds a later one back (R264 point 1). -/
def mxBehind (y e : MxEntry) : Bool :=
  let cells := y.cells.any e.cells.contains
  let meets := cells || y.tiles.any e.tiles.contains
  let order (x : MxEntry) : Bool := decide (3 ≤ x.op)
  meets && (if order y || order e then true
    else if y.op = 2 ∧ e.op = 2 then y.granted.isNone
    else if e.op = 1 then cells
    else cells && e.params.swap)

/-- Plane cycles are two to a core cycle (R8). -/
def State.planeCycle (s : State) : Nat := 2 * s.cycle
/-- The plane cycle at which a granted pass has left the first cell of its region (R261). -/
def MxEntry.streamEnd (e : MxEntry) : Nat :=
  match e.granted with
  | some t => if e.op = 2 then t + mxPlanes e.params.afmt * e.params.m else t
  | none => 0
/-- The plane cycle at which it has left the last (R261). -/
def MxEntry.streamDone (e : MxEntry) : Nat := if e.op = 2 then e.streamEnd + e.params.k + e.params.n - 2 else e.streamEnd
/-- The plane cycle at which it has left the first cell that it shares with a later pass; a cell is later by its row and column in the region (R261;
DEDUCED, log 98, where the two regions begin at different cells). -/
def MxEntry.streamLeaves (y e : MxEntry) : Nat :=
  y.streamEnd + 128 * (e.params.koff - y.params.koff) + 128 * (e.params.noff - y.params.noff)

/-- Every operand and scale granule that an entry reads is Full (R264 point 2). -/
def State.mxFull (s : State) (e : MxEntry) : Bool :=
  e.params.reads.all fun r =>
    match s.localVia e.slots e.block (BitVec.ofNat 64 r.1.toNat) r.2 with
    | .error _ => true
    | .ok (b, off) => (List.range ((off % 16 + r.2 + 15) / 16)).all fun k => s.isFull b (granOf off + k)

/-- The block is not being saved (R264 point 4). -/
def State.mxLive (s : State) (e : MxEntry) : Bool :=
  match s.block? e.block with
  | some b => b.res == .running || (match b.res with | .draining _ _ => true | _ => false)
  | none => false

/-- The plane cycle from which the streams of earlier passes leave an entry its region (R261). -/
def State.mxOpens (s : State) (e : MxEntry) : Nat :=
  if e.op ≠ 2 then 0
  else (s.mxEntries.map fun y => if y.cluster == e.cluster && y.block == e.block && y.op == 2 && y.cells.any e.cells.contains then y.streamLeaves e else 0).foldl max 0

/-- An entry meets what R264 asks for, the streams aside; while its context takes a cut none does (R439). -/
def State.mxReady (s : State) (e : MxEntry) : Bool :=
  e.granted.isNone && e.ended == 0 && s.mxLive e && !(((s.block? e.block).map fun b => s.cutHolds b.pasid).getD false) && (s.mxAlloc? e.cluster e.block).isSome &&
    ((s.mxEntries.takeWhile (·.key != e.key)).all fun y => y.block != e.block || !mxBehind y e) &&
    (e.op == 5 || !e.params.fewait || s.mxFull e)

/-- An entry is eligible for grant (R264). -/
def State.mxEligible (s : State) (e : MxEntry) : Bool := s.mxReady e && decide (s.mxOpens e ≤ s.planeCycle)

/-- A granule that an entry reads lies in a segment in transit: the access is held (R180). -/
def State.mxTransit (s : State) (e : MxEntry) : Bool :=
  s.segs != [] && e.op != 5 && e.params.reads.any fun r =>
    match s.localVia e.slots e.block (BitVec.ofNat 64 r.1.toNat) r.2 with
    | .error _ => false
    | .ok (b, off) => (List.range ((off % 16 + r.2 + 15) / 16)).any fun k => s.localTransit b (off / 16 * 16 + 16 * k)

/-- The engine notes since which cycle entries are eligible (R265): from now on, or once the streams leave their regions. DESIGN CHOICE (log 98): where an
entry ceases to be eligible, its wait counts from 0 when it is eligible again. -/
def State.mxNote (s : State) : State :=
  if s.mxEntries = [] then s
  else { s with mxEntries := s.mxEntries.map fun e =>
    if s.mxReady e then { e with since := some (max (e.since.getD s.cycle) ((s.mxOpens e + 1) / 2)) } else { e with since := none } }

/-- The effective priority of an eligible entry (R265). -/
def State.mxPriority (s : State) (e : MxEntry) : Nat :=
  let l := (((s.block? e.block).bind fun b => s.launch? b.launch).map (·.rc.mxpri)).getD 0
  min 3 (l + (s.cycle - e.since.getD s.cycle) / 4096)

/-- The entry that the arbiter of an engine grants: the highest effective priority, then the earliest arrival. -/
def State.mxNext (s : State) (cluster : Nat) : Option MxEntry :=
  (s.mxEntries.filter fun e => e.cluster == cluster && s.mxEligible e && !s.mxTransit e && !s.unitsWait cluster).foldl (fun (best : Option MxEntry) (e : MxEntry) =>
    match best with
    | none => some e
    | some b => if s.mxPriority b < s.mxPriority e then some e else some b) none

/-! ## The operations -/

/-- MXWLOAD: the shadow banks of its weight tiles (R283), whose poison marks follow R275. -/
def State.mxLoad (s : State) (e : MxEntry) (p : MxParm) (a : MxAlloc) : MxAlloc × Bool :=
  p.cells.foldl (fun (r : MxAlloc × Bool) (c : Nat × Nat) =>
    let sg := c.1 - p.koff
    let t := c.2 - p.noff
    let sc := s.mxScale e p (t * p.segs + sg)
    let cols := (List.range 128).map fun (n : Nat) =>
      s.mxElems e p.wfmt ((p.base : Int) + sg * p.s0 + ((128 * t + n : Nat) : Int) * p.s1)
    let bad := sc.2 || cols.any (·.2)
    let marks : List (BitVec 128) := if bad then cols.map fun (x : List Nat × Bool) => if sc.2 || x.2 then BitVec.allOnes 128 else 0 else []
    let b : MxBank := ⟨p.wfmt, [], sc.1, marks, cols.map (·.1)⟩
    (MxAlloc.both (fun a => a.putWeight ((a.weight c.1 c.2).load b)) r.1, r.2 || bad)) (a, false)

/-- The decoded weights of a column of a bank. -/
def MxBank.column (page : List Byte) (b : MxBank) (n : Nat) : List Fp :=
  match b.cols[n]? with
  | some xs => (xs.zipIdx).map fun (x : Nat × Nat) => mxElem page (b.code n x.2) x.1
  | none => List.replicate 128 (.num false 0 0)

/-- What the segments of a pass add to column n of its row m at its column tile t: of activations read through `s`, and of an allocation's active
banks. -/
def State.mxTerms (s : State) (e : MxEntry) (p : MxParm) (page : List Byte) (a : MxAlloc) (m t : Nat) : List (Nat → MxTerm) :=
  (List.range p.segs).map fun (sg : Nat) =>
    let x := s.mxElems e p.afmt ((p.base : Int) + sg * p.s0 + m * p.s1)
    let sc := s.mxScale e p (m * p.segs + sg)
    let acts := x.1.map (mxElem page p.afmt)
    let b := (a.weight (p.koff + sg) (p.noff + t)).active
    fun n => ⟨acts, b.column page n, sc.1, b.scale, x.2 || sc.2 || b.marked n⟩

/-- MXRUN on one pane: the tiles it writes, with the conditions and poison it records (R257, R275), over banks already exchanged. -/
def State.mxPass (s : State) (e : MxEntry) (p : MxParm) (page : List Byte) (a : MxAlloc) : MxAlloc × BitVec 5 × Bool :=
  let one (r : MxAlloc × BitVec 5 × Bool) (m : Nat) : MxAlloc × BitVec 5 × Bool :=
    (List.range p.cols).foldl (fun (r : MxAlloc × BitVec 5 × Bool) (t : Nat) =>
      let tile := r.1.tile (p.tile + t)
      let terms := s.mxTerms e p page r.1 m t
      let elem (n : Nat) : (Word × BitVec 5) × Bool :=
        let ts := terms.map fun f => f n
        (accumulate ts (if p.zero then 0 else ((tile.row (p.trow + m))[n]?).getD 0), ts.any (·.bad))
      let xs := (List.range 128).map elem
      let bad := xs.any (·.2)
      let tile := tile.setRow (p.trow + m) (xs.map (·.1.1))
      (r.1.putTile (if bad then tile.setBad (p.trow + m) true else tile),
        xs.foldl (fun (f : BitVec 5) (x : (Word × BitVec 5) × Bool) => f ||| x.1.2) r.2.1, r.2.2 || bad)) r
  (List.range p.m).foldl one (a, 0, false)

/-- A promotion's value q (R257). -/
def MxTerm.promoted (t : MxTerm) : DWord := (promoteFirst (exactDot (t.acts.zip t.weights)) t.ascale t.tscale).1

/-- The first promotion of a pass, by row and then by segment, at which the values of two panes differ for a column tile (R273). -/
def State.mxDiffers (s : State) (e : MxEntry) (p : MxParm) (page : List Byte) (a b : MxAlloc) (t : Nat) : Option (Nat × Nat) :=
  if a.weights = b.weights then none
  else (List.range p.m).findSome? fun m =>
    ((((s.mxTerms e p page a m t).zip (s.mxTerms e p page b m t)).zipIdx).find? fun x =>
      (List.range 128).any fun n => (x.1.1 n).promoted != (x.1.2 n).promoted).map fun x => (p.trow + m, p.koff + x.2)

/-- A tile's first mismatch is recorded (R273), as R272 lays it out. -/
def MxTile.mismatch (t : MxTile) (at_ : Option (Nat × Nat)) : MxTile :=
  match at_ with
  | some (row, sg) => if t.mism.getLsbD 63 then t else { t with mism := BitVec.ofNat 64 (2 ^ 63 + 128 * row + 16 * sg) }
  | none => t

/-- MXRUN on the pane and, in redundant mode, on its partner, with each tile's first mismatch. -/
def State.mxPasses (s : State) (e : MxEntry) (p : MxParm) (page : List Byte) (a : MxAlloc) : MxAlloc × BitVec 5 × Bool :=
  let r := s.mxPass e p page a
  if a.mode ≠ 3 then r
  else
    let b := a.partner
    let noted := (List.range p.cols).foldl (fun (x : MxAlloc) (t : Nat) =>
      x.putTile ((x.tile (p.tile + t)).mismatch (s.mxDiffers e p page a b t))) r.1
    (noted.withPartner (s.mxPass e p page b).1, r.2)

/-- The 16-byte granules of bytes at a local address. -/
def outsAt (a : Int) (bs : List Byte) (bad : Bool) : List MxOut :=
  (List.range (bs.length / 16)).map fun (k : Nat) => ⟨(a + (16 * k : Nat)).toNat, (bs.drop (16 * k)).take 16, BitVec.allOnes 16, bad⟩

/-- The scale granules of a drain to E4M3: every scale that falls in a granule under one mask. -/
def scaleOuts (scales : List (Int × Word × Bool)) (pick : Nat → Bool) : List MxOut :=
  (((scales.map fun (x : Int × Word × Bool) => x.1.toNat / 16 * 16)).eraseDups).map fun (g : Nat) =>
    let here := scales.filter fun (x : Int × Word × Bool) => x.1.toNat / 16 * 16 == g
    let put (st : Nat × Nat) (x : (Int × Word × Bool) × Nat) : Nat × Nat :=
      layBits (pick x.2) st ⟨true, g / 16, 8 * (x.1.1.toNat % 16), 32, 0⟩ x.1.2.1.toNat
    let st := here.zipIdx.foldl put (0, 0)
    ⟨g, natBytes 16 st.1, (List.range 16).foldl (fun (k : BitVec 16) j => if st.2 / 2 ^ (8 * j) % 256 != 0 then k ||| (1#16 <<< j) else k) 0,
      here.any (·.2.2)⟩

/-- MXDRAIN: the granules it writes, the conditions and the poison (R269, R270, R272, R275). -/
def State.mxDrain (s : State) (p : MxParm) (a : MxAlloc) : List MxOut × BitVec 5 × Bool :=
  let tile := a.tile p.tile
  if p.out = 4 then (outsAt p.base tile.image false, 0, false)
  else
    let rows := (List.range p.m).map fun (m : Nat) =>
      let row := tile.row (p.trow + m)
      (m, row, drainRow p row, tile.bad.getLsbD (p.trow + m))
    let data := rows.flatMap fun (x : Nat × List Word × (List Nat × BitVec 5) × Bool) =>
      outsAt ((p.base : Int) + x.1 * p.s0) (drainBytes p x.2.2.1.1) x.2.2.2
    let scales := rows.map fun (x : Nat × List Word × (List Nat × BitVec 5) × Bool) =>
      ((p.scale : Int) + x.1 * p.s1, rowScale p.pow2 x.2.1, x.2.2.2)
    (data ++ (if p.out = 3 then scaleOuts scales fun k => s.freeBit (70000 + k) else []),
      rows.foldl (fun (f : BitVec 5) (x : Nat × List Word × (List Nat × BitVec 5) × Bool) => f ||| x.2.2.1.2) 0, rows.any (·.2.2.2))

/-- MXFILL: the tile it writes, and poison (R271, R272). -/
def State.mxFill (s : State) (e : MxEntry) (p : MxParm) (a : MxAlloc) : MxAlloc × Bool :=
  if p.out = 4 then
    let r := s.mxRead e p.base rawBytes
    (MxAlloc.both (·.putTile (MxTile.ofImage p.tile r.1 r.2)) a, r.2)
  else
    (List.range p.m).foldl (fun (x : MxAlloc × Bool) (m : Nat) =>
      let r := s.mxRead e ((p.base : Int) + m * p.s0) 512
      let row := (List.range 128).map fun c => BitVec.ofNat 32 (field r.1 (4 * c) 4)
      (MxAlloc.both (fun a => a.putTile (((a.tile p.tile).setRow (p.trow + m) row).setBad (p.trow + m) r.2)) x.1, x.2 || r.2)) (a, false)

/-- A granted entry acts on tiles and banks; what it writes to the vaults stays to be written (R266, R276). -/
def State.mxAct (s : State) (e : MxEntry) : State :=
  match s.mxAlloc? e.cluster e.block with
  | none => s
  | some a =>
    let p := e.params
    let done (a : MxAlloc) (fl : BitVec 5) (bad emu : Bool) (outs : List MxOut) : State :=
      (s.onMxAlloc e.cluster e.block fun _ => a).onMxEntry e.key fun x =>
        { x with flags := fl, poison := bad, emu := emu, outs := outs }
    match e.op with
    | 1 =>
      let r := s.mxLoad e p a
      done r.1 0 r.2 (decide (6 ≤ p.wfmt)) []
    | 2 =>
      let a := if p.swap then MxAlloc.both (·.swap p.cells) a else a
      let a := if a.mode = 3 then a.withPartner (a.partner.upset s.cue.nums) else a
      let codes := p.afmt :: p.cells.flatMap fun (c : Nat × Nat) => (a.weight c.1 c.2).active.codes
      let emu := codes.any fun c => decide (6 ≤ c)
      let r := s.mxPasses e p (if emu then s.formatPage e.cluster (s.mxPasid e) else []) a
      done r.1 r.2.1 r.2.2 emu []
    | 3 =>
      let r := s.mxDrain p a
      done a r.2.1 r.2.2 false r.1
    | 4 =>
      let r := s.mxFill e p a
      done r.1 0 r.2 false []
    | _ => done (MxAlloc.both (fun a => e.tiles.foldl (fun (a : MxAlloc) (k : Nat) => a.putTile (.clean k)) a) a) 0 false false []

/-- MX_ENTRY_GRANT (R265): the arbiter of the cluster of the cue's key grants its next entry; the grant is an acquire (R266). The cue's numbers name a
cell of a partner pane that has been upset, if any (R273). -/
def execMxEntryGrant (s : State) : Host.Outcome State Fault Refusal :=
  let cluster := s.cue.key
  let s := s.mxNote
  .next (match s.mxNext cluster with
    | none => s
    | some e =>
      let g := { e with granted := some s.planeCycle, waitcyc := s.cycle - e.arrived }
      let s := (s.onMxEntry e.key fun _ => g).engineAcquire (engineUnit e.cluster) (s.mxPasid e) (s.mxView e) e.scope
      let s := s.mxStatus g 1 0
      { s.mxAct g with free := s.free + 1 }).wake

/-- A granule of a drain lies in a segment in transit, or waits for staging space: its write waits (R179, R446). -/
def State.mxOutHeld (s : State) (e : MxEntry) (o : MxOut) : Bool :=
  match s.localVia e.slots e.block (BitVec.ofNat 64 o.addr) 16 with
  | .error _ => false
  | .ok (b, off) => s.localTransit b off || s.segmentWaits b off

/-- A granule of a drain is written and set Full in one act (R269, R275). -/
def State.mxOut (s : State) (e : MxEntry) (o : MxOut) : State :=
  match s.localVia e.slots e.block (BitVec.ofNat 64 o.addr) 16 with
  | .error _ => s
  | .ok (b, off) =>
    let g := granOf off
    let was := s.isFull b g
    let s := s.vaultMask b off o.data o.mask
    let full := o.mask == BitVec.allOnes 16
    let s := if o.bad then s.poisonVault b g true else if full then s.poisonVault b g false else s
    ((if full then s.fed b g else s).setFull b g true).served b g was

/-- Frees the allocations of blocks that are gone and have no entry left (R252, R278). -/
def State.mxSweep (s : State) : State :=
  { s with mxAllocs := s.mxAllocs.filter fun a =>
      (s.block? a.block).isSome || s.mxEntries.any fun e => e.cluster == a.cluster && e.block == a.block }

/-- An entry that is over leaves the table once its status record has been written, and its issuer's counter falls (R266). -/
def State.mxLeave (s : State) (key : Nat) : State :=
  match s.mxEntries.find? (·.key == key) with
  | none => s
  | some e =>
    if e.ended = 0 ∨ s.owed.any (·.by_ == key) then s
    else ((({ s with mxEntries := s.mxEntries.filter (·.key != key) } : State).observe e.block e.gidx).land ⟨e.block, e.gidx, e.flight⟩ []).mxSweep

/-- Entries whose status records have been written since they ended leave their tables. -/
def State.mxLeaves (s : State) : State := ((s.mxEntries.filter (·.ended != 0)).map (·.key)).foldl State.mxLeave s

/-- An entry ends under a final STATE: its release, then its status record (R266, R279). -/
def State.mxEnd (s : State) (e : MxEntry) (st : Nat) : State :=
  if e.void then ({ s with mxEntries := s.mxEntries.filter (·.key != e.key) } : State).mxSweep
  else if e.ended ≠ 0 then s
  else (((s.mxRelease e).mxStatus e st s.hbeat).onMxEntry e.key fun x => { x with ended := st, outs := [] }).mxLeave e.key

/-- MX_ENTRY_COMPLETION (R266) of the entry of the cue's key: where the cue lists numbers, only those of the granules it still has to
write are written; otherwise the rest, and the entry completes where none waits. A pass completes once its last row has left its last cell (R261). -/
def execMxEntryCompletion (s : State) : Host.Outcome State Fault Refusal :=
  .next (match s.mxEntries.find? fun (x : MxEntry) => x.key == s.cue.key with
    | none => s
    | some e =>
      if e.granted.isNone || e.ended != 0 || decide (s.planeCycle < e.streamDone) || (e.emu && s.updating) || s.releaseStuck (s.mxView e) e.scope then s
      else
        let go (o : MxOut × Nat) : Bool := e.void || ((s.cue.nums == [] || s.cue.nums.contains o.2) && !s.mxOutHeld e o.1)
        let now := (e.outs.zipIdx).filter go
        let left := ((e.outs.zipIdx).filter fun (o : MxOut × Nat) => !go o).map fun (o : MxOut × Nat) => o.1
        let t := if e.void then s else now.foldl (fun (s : State) (o : MxOut × Nat) => s.mxOut e o.1) s
        if s.cue.nums = [] ∧ left = [] then (t.mxEnd e 2).mxNote
        else t.onMxEntry e.key fun x => { x with outs := left }).wake

/-- MX_ALLOC_GRANT (R251): the request at the head of the queue of the cluster of the cue's key, where its cells and tiles are free. -/
def execMxAllocGrant (s : State) : Host.Outcome State Fault Refusal :=
  .next (match s.mxReqs.find? fun (x : MxReq) => x.cluster == s.cue.key with
    | none => s
    | some r =>
      let busy := (s.mxAllocs.filter fun (x : MxAlloc) => x.cluster == r.cluster).flatMap fun (a : MxAlloc) => panesOf a.mode a.pane
      if (panesOf r.mode r.pane).any busy.contains then s
      else
        let first := if r.mode = 1 then 0 else 8 * r.pane
        let a : MxAlloc := match r.image with
          | some i => MxAlloc.mirrored { i with cluster := r.cluster, block := r.block }
          | none => MxAlloc.mirrored ⟨r.cluster, r.block, r.mode, r.pane, (List.range r.n).map fun k => .clean (first + k), [], [], []⟩
        let s : State := { s with
          mxReqs := s.mxReqs.filter (· != r)
          mxAllocs := s.mxAllocs ++ [a] }
        match r.image with
        | some _ => s
        | none => match (s.group? r.block r.gidx).bind fun g => g.flight? r.flight with
          | none => s
          | some f => match f.op with
            | .mxalloc _ _ dst => s.land ⟨r.block, r.gidx, r.flight⟩ [.sca dst a.mask]
            | _ => s).wake

/-! ## The instructions -/

/-- The parameter block that an instruction reads at issue (R253, steps 1 and 2 of R281); its poison is taken as DATA_POISON. -/
def mxParmFault (c : Cx) (a : DWord) : Option Trap := rangeFault c.s c.g.block a 128 128

/-- The bytes of the parameter block. -/
def mxParmBytes (c : Cx) (a : DWord) : List Byte :=
  match c.s.localAt c.g.block a 128 with
  | .ok (b, off) => c.s.vaultRead b off 128
  | .error _ => []

/-- Local bytes that the group reads at issue cannot be read yet: their segment is in transit, or an earlier store of the group to them, by a local or a
mapped address, has yet to be performed (R166, R180, R191, R287). -/
def localOpen (c : Cx) (a : DWord) (n : Nat) : Bool :=
  match c.s.localAt c.g.block a n with
  | .error _ => false
  | .ok (b, off) =>
    let x : Access := ⟨.load, true, 0, 16, 0, false, 0, .plain, .none, false, [], []⟩
    (List.range ((n + 15) / 16)).any fun k =>
      c.s.localTransit b (off + 16 * k) || c.g.flights.any fun f => match f.op with
        | .access y => y.kind != .load && y.lanes.any fun m => m.st.open (c.s.fatalLog c.g f.key) &&
            c.s.lanesMeet c.g x ⟨0, a, b, off + 16 * k, 0, 0, .todo, 0⟩ y m
        | _ => false

/-- The address of the first poisoned granule of local bytes read at issue (R109, R384). -/
def localPoison (c : Cx) (a : DWord) (n : Nat) : Option DWord :=
  match c.s.localAt c.g.block a n with
  | .error _ => none
  | .ok (b, off) => ((List.range ((n + 15) / 16)).find? fun k => c.s.vaultPoisoned b (granOf off + k)).map fun k => a + BitVec.ofNat 64 (16 * k)

/-- A range of local addresses does not lie inside one allocation of the engine's cluster (R256 code 0x05). -/
def mxRangeBad (c : Cx) (cluster : Nat) (r : Int × Nat) : Bool :=
  decide (r.1 < 0) || decide (2 ^ 32 ≤ r.1) ||
    (match c.s.localAt c.g.block (BitVec.ofNat 64 r.1.toNat) r.2 with
      | .error _ => true
      | .ok (b, _) => match c.s.block? b with
        | some k => clusterOfCore k.vault.core != cluster
        | none => true)

/-- MX_RECORD of a command with a parameter block (R256). -/
def mxRecordFault (c : Cx) (p : MxParm) : Option Nat :=
  let cluster := c.s.mxCluster c.g
  match c.s.mxHolding? cluster c.g.block with
  | none => some 0x01
  | some a =>
    if p.tiles.any fun k => !a.owns k then some 0x02
    else if (p.reads ++ p.writes ++ if p.status = mxNone then [] else [((p.status : Int), 16)]).any (mxRangeBad c cluster) then some 0x05
    else none

/-- An entry of the block on a tile has yet to complete, or the tile has yet to be restored. -/
def mxTileBusy (c : Cx) (k : Nat) : Bool :=
  (c.s.mxAlloc? (c.s.mxCluster c.g) c.g.block).isNone || c.s.mxEntries.any fun e => e.block == c.g.block && e.tiles.contains k

/-- A drain in redundant mode that is not raw (R274). -/
def mxRedundantDrain (c : Cx) (p : MxParm) : Bool :=
  p.op == 3 && p.out != 4 && ((c.s.mxHolding? (c.s.mxCluster c.g) c.g.block).map (·.mode)) == some 3

/-- What a drain in redundant mode finds wrong with a tile (R274): its mismatch record, or the first row in which it differs from its mirror; as
XINFO of MX_MISMATCH. -/
def mismatchInfo (a : MxAlloc) (k : Nat) : Option DWord :=
  let t := a.tile k
  let info (sg row : Nat) : DWord := BitVec.ofNat 64 (k + 32 * sg + 256 * row)
  if t.mism.getLsbD 63 then some (info (t.mism.toNat / 16 % 8) (t.mism.toNat / 128 % 128))
  else ((List.range 128).find? fun r => t.row r != (a.partner.tile k).row r).map (info 7)

/-- The checks of R281, the first fault. -/
def mxCommandFault (c : Cx) (op : Nat) (a : DWord) : Option Trap :=
  match mxParmFault c a with
  | some t => some t
  | none =>
    match localPoison c a 128 with
    | some x => some (.precise Cause.dataPoison x 0)
    | none =>
      let p := MxParm.parse (mxParmBytes c a)
      let al := c.s.mxHolding? (c.s.mxCluster c.g) c.g.block
      let lim := match al with | some x => if x.mode = 1 then 1024 else 512 | none => 1024
      match p.bad op c.s.mxemu lim with
      | some k => some (.precise Cause.mxFormat a (BitVec.ofNat 64 k))
      | none => match mxRecordFault c p with
        | some k => some (.precise Cause.mxRecord a (BitVec.ofNat 64 k))
        | none =>
          if !mxRedundantDrain c p || mxTileBusy c p.tile then none
          else (al.bind fun x => mismatchInfo x p.tile).map (.precise Cause.mxMismatch a)

/-- Entries that an engine holds. -/
def State.mxHeld (s : State) (cluster : Nat) : Nat := (s.mxEntries.filter (·.cluster == cluster)).length

/-- An entry arrives at the reservation table (R263, R279). -/
def mxArrive (c : Cx) (h : Hdr) (op : Nat) (parm : List Byte) (mask : Word) (s : State) : State :=
  let cluster := s.mxCluster s.cur
  let (k, s) := s.fresh
  let e : MxEntry :=
    { key := k, cluster := cluster, block := s.cur.block, gidx := s.cur.gidx, flight := s.nextKey, op := op, parm := parm, mask := mask
      slots := s.window s.cur.block, arrived := c.t, since := none, granted := none, flags := 0, poison := false, emu := false, waitcyc := 0
      outs := [], void := false, ended := 0, loose := s.unfenced.map fun (u : Unfenced) => (u.home, u.gran, u.past) }
  let s := c.launch h (.mxentry k) [] [] 0 { s with mxEntries := s.mxEntries ++ [e] }
  (s.mxStatus e 0 0).mxNote

/-- The checks, the stalls and the effect of what `mxCommand` issues. -/
def mxCommandPlan (min : BitVec 6) (op : Nat) (f : F64) : Plan :=
  let h := hdr64 0x15 min f
  let parm (c : Cx) : MxParm := MxParm.parse (mxParmBytes c (c.ssrc f.s1))
  { ops := fun _ => sregOk f.s1
    uses := [(f.s1, true)]
    mem := true
    acts := true
    reading := fun c => localOpen c (c.ssrc f.s1) 128
    own := fun c => mxCommandFault c op (c.ssrc f.s1)
    wait := fun c =>
      c.s.memoryHeld c.g false || decide (32 ≤ c.s.mxHeld (c.s.mxCluster c.g)) ||
        (mxRedundantDrain c (parm c) && mxTileBusy c (parm c).tile)
    eff := fun c s => mxArrive c h op (mxParmBytes c (c.ssrc f.s1)) 0 s.setWide }

/-- MXWLOAD, MXRUN, MXDRAIN and MXFILL (R253, R263, R281). -/
def mxCommand (min : BitVec 6) (op : Nat) (f : F64) (s : State) : Host.Outcome State Fault Refusal :=
  issue (hdr64 0x15 min f) (mxCommandPlan min op f) s

/-- MXWLOAD (R283). -/
def execMxwload (f : F64) (s : State) : Host.Outcome State Fault Refusal := mxCommand 0x02 1 f s
/-- MXRUN (R257). -/
def execMxrun (f : F64) (s : State) : Host.Outcome State Fault Refusal := mxCommand 0x03 2 f s
/-- MXDRAIN (R269). -/
def execMxdrain (f : F64) (s : State) : Host.Outcome State Fault Refusal := mxCommand 0x04 3 f s
/-- MXFILL (R271). -/
def execMxfill (f : F64) (s : State) : Host.Outcome State Fault Refusal := mxCommand 0x05 4 f s

/-- The checks, the stalls and the effect of what `execMxzero` issues. -/
def mxzeroPlan (f : F64) : Plan :=
  let h := hdr64 0x15 0x06 f
  let mask (c : Cx) : Word := (c.ssrc f.s1).setWidth 32
  { ops := fun _ => sregOk f.s1
    uses := [(f.s1, true)]
    mem := true
    acts := true
    own := fun c => match c.s.mxHolding? (c.s.mxCluster c.g) c.g.block with
      | none => some (.precise Cause.mxRecord 0 0x01)
      | some a => if (mask c).setWidth 64 &&& ~~~a.mask = 0 then none else some (.precise Cause.mxRecord 0 0x02)
    wait := fun c => c.s.memoryHeld c.g false || decide (32 ≤ c.s.mxHeld (c.s.mxCluster c.g))
    eff := fun c s => mxArrive c h 5 [] (mask c) s.setWide }

/-- MXZERO (R263, R283). -/
def execMxzero (f : F64) (s : State) : Host.Outcome State Fault Refusal :=
  issue (hdr64 0x15 0x06 f) (mxzeroPlan f) s

/-- The tile limit of a mode (R250). -/
def mxLimit (mode : Nat) : Nat := if mode = 1 then 32 else 8

/-- The checks, the stalls and the effect of what `execMxalloc` issues. -/
def mxallocPlan (f : F64) : Plan :=
  let h := hdr64 0x15 0x00 f
  let mode := f.modLow.toNat + 1
  { ops := fun _ => sregOk f.dst && sregOk f.s1
    uses := [(f.s1, true)]
    mem := true
    acts := true
    own := fun c =>
      let cl := c.s.mxCluster c.g
      if (c.s.mxAlloc? cl c.g.block).isSome || c.s.mxReqs.any (fun r => r.cluster == cl && r.block == c.g.block) then
        some (.precise Cause.mxRecord 0 0x03)
      else if (c.ssrc f.s1).toNat = 0 ∨ mxLimit mode < (c.ssrc f.s1).toNat then some (.precise Cause.mxRecord 0 0x04)
      else none
    wait := fun c => c.s.memoryHeld c.g false
    eff := fun c s =>
      let n := (c.ssrc f.s1).toNat
      let core := s.coreOfGroup s.cur
      let r : MxReq := ⟨clusterOfCore core, s.cur.block, s.cur.gidx, s.nextKey, n, mode, if mode = 1 then 0 else core % 4, none⟩
      c.launch h (.mxalloc n mode (f.dst.toNat - 0x80)) [] [.sca (f.dst.toNat - 0x80)] 0 { s.setWide with mxReqs := s.mxReqs ++ [r] } }

/-- MXALLOC (R282): mode 1 full, 2 pane, 3 redundant. -/
def execMxalloc (f : F64) (s : State) : Host.Outcome State Fault Refusal :=
  issue (hdr64 0x15 0x00 f) (mxallocPlan f) s

/-- The checks, the stalls and the effect of what `execMxfree` issues. -/
def mxfreePlan (f : F64) : Plan :=
  let h := hdr64 0x15 0x01 f
  { mem := true
    acts := true
    wait := fun c => c.s.memoryHeld c.g false
    eff := fun c s => c.launch h .mxfree [] [] 0 s.setWide }

/-- MXFREE (R252, R282). -/
def execMxfree (f : F64) (s : State) : Host.Outcome State Fault Refusal :=
  issue (hdr64 0x15 0x01 f) (mxfreePlan f) s

/-- The checks, the stalls and the effect of what `execMxfence` issues. -/
def mxfencePlan (f : F64) : Plan :=
  let h := hdr64 0x15 0x07 f
  { mem := true
    acts := true
    wait := fun c => c.s.memoryHeld c.g false
    eff := fun c s => c.launch h .mxfence [] [] 0 s.setWide }

/-- MXFENCE (R267). -/
def execMxfence (f : F64) (s : State) : Host.Outcome State Fault Refusal :=
  issue (hdr64 0x15 0x07 f) (mxfencePlan f) s

/-- The checks, the stalls and the effect of what `execMxstat` issues. -/
def mxstatPlan (f : F64) : Plan :=
  let h := hdr64 0x15 0x08 f
  { ops := fun _ => sregOk f.dst && (f.modLow != 0 || sregOk f.s1)
    uses := if f.modLow = 0 then [(f.s1, true)] else []
    mem := true
    wait := fun c => c.s.memoryHeld c.g true
    eff := fun c s =>
      c.launch h (.mxstat f.modLow (c.ssrc f.s1) (f.dst.toNat - 0x80)) [] [.sca (f.dst.toNat - 0x80)] 0 s.setWide }

/-- MXSTAT (R284). -/
def execMxstat (f : F64) (s : State) : Host.Outcome State Fault Refusal :=
  issue (hdr64 0x15 0x08 f) (mxstatPlan f) s

/-- The checks, the stalls and the effect of what `execMxcancel` issues. -/
def mxcancelPlan (f : F64) : Plan :=
  let h := hdr64 0x15 0x09 f
  let all := f.modBit 0
  { ops := fun _ => all || sregOk f.s1
    uses := if all then [] else [(f.s1, true)]
    mem := true
    acts := true
    wait := fun c => c.s.memoryHeld c.g false
    eff := fun c s =>
      let a := (c.ssrc f.s1).toNat % 2 ^ 32
      let mine := s.mxEntries.filter fun e => e.block == s.cur.block && e.granted.isNone && e.ended == 0 && (all || e.statusAt == a)
      c.launch h (.mxcancel (mine.map (·.key))) [] [] 0 s.setWide }

/-- MXCANCEL (R285). -/
def execMxcancel (f : F64) (s : State) : Host.Outcome State Fault Refusal :=
  issue (hdr64 0x15 0x09 f) (mxcancelPlan f) s

/-- What MXSTAT reads (R284). -/
def State.mxStat (s : State) (sel : BitVec 2) (addr : DWord) (cluster block : Nat) : DWord :=
  match sel.toNat with
  | 0 =>
    match s.mxEntries.find? fun e => e.cluster == cluster && e.block == block && e.statusAt == addr.toNat % 2 ^ 32 with
    | some e => BitVec.ofNat 64 (e.status e.state 0)
    | none => 0xF
  | 1 =>
    match s.mxHolding? cluster block with
    | some a => a.mask ||| BitVec.ofNat 64 (2 ^ 32 * a.mode + 2 ^ 34 * a.pane)
    | none => 0
  | _ =>
    let taken := ((s.mxAllocs.filter (·.cluster == cluster)).flatMap fun a => panesOf a.mode a.pane).length
    BitVec.ofNat 64 ((32 - s.mxHeld cluster) + 64 * ((s.mxReqs.filter (·.cluster == cluster)).length % 64) + 4096 * (4 - taken))

/-- A store, or a local atomic, of a flight that a later MXFENCE waits for (R267). -/
def Flight.feeds (f : Flight) : Bool :=
  match f.op with
  | .access a => a.kind == .store || (a.loc && a.kind == .atom)
  | _ => false

/-- What remains of MXFREE, MXFENCE, MXSTAT and MXCANCEL is done, and they complete where nothing is left to wait for. -/
def State.finishMx (s : State) (r : FRef) (op : FlightOp) : State :=
  match s.group? r.block r.gidx with
  | none => s
  | some g =>
    let cluster := s.mxCluster g
    match op with
    | .mxfree =>
      if (s.mxEntries.any fun e => e.cluster == cluster && e.block == r.block) ||
        (s.mxReqs.any fun q => q.cluster == cluster && q.block == r.block && q.image.isSome) then s
      else ({ s with mxAllocs := s.mxAllocs.filter fun a => !(a.cluster == cluster && a.block == r.block) } : State).land r []
    | .mxfence =>
      if !s.accessesClear g ((g.before r.flight).filter Flight.feeds) then s
      else
        let s : State := { s with unfenced := s.unfenced.filter fun u =>
          !(u.block == r.block && u.gidx == r.gidx && decide (u.flight < r.flight)) }
        (s.release (s.coreOfGroup g) (s.pasidOf g) (s.viewOf g) 2).land r []
    | .mxstat sel a dst => s.land r [.sca dst (s.mxStat sel a cluster r.block)]
    | .mxcancel keys =>
      let s := (s.mxEntries.filter fun e => keys.contains e.key && e.granted.isNone).foldl (fun (s : State) (e : MxEntry) => s.mxEnd e 3) s
      (s.land r []).mxNote
    | _ => s

end Sys2Proof.Machine
end

