-- ==== Sys2Proof/Machine/ScopeOps.lean ====
section
/-! DEFINITION. Location IDs and shapes (R17 to R20), the lowest enclosing scope (R27), the discovery page (R29 to R33) and the scope
instructions (R205 to R207). -/

namespace Sys2Proof.Machine

/-! ## Shapes -/

/-- Counts of a shape: packages, reticles a package, chiplets a reticle, layers a chiplet, clusters a layer (R20). -/
structure Shape where
  pkg  : Nat
  ret  : Nat
  chip : Nat
  lay  : Nat
  cl   : Nat
  deriving DecidableEq, Repr

/-- The counts of a PLSHAPE value. -/
def Shape.of (w : Word) : Shape :=
  let n := w.toNat
  ⟨n % 128 + 1, n / 128 % 2 + 1, n / 256 % 4 + 1, n / 1024 % 2 + 1, n / 2048 % 2 + 1⟩

/-- A value is a location ID inside a shape (R19, R20, R206). -/
def inShape (s : Shape) (a : DWord) : Bool :=
  let n := a.toNat
  decide (n < 2 ^ 22) && decide (n / 2 ^ 15 % 128 < s.pkg) && decide (n / 2 ^ 14 % 2 < s.ret) && decide (n / 2 ^ 12 % 4 < s.chip) &&
    decide (n / 2 ^ 11 % 2 < s.lay) && decide (n / 2 ^ 10 % 2 < s.cl)

/-- LowestEnclosingScope (R27). -/
def lowestScope (a b : Word) : Nat :=
  let x := a ^^^ b
  if x.extractLsb' 15 7 != 0 then 6
  else if x.extractLsb' 14 1 != 0 then 5
  else if x.extractLsb' 12 2 != 0 then 4
  else if x.extractLsb' 11 1 != 0 then 3
  else if x.extractLsb' 8 3 != 0 then 2
  else if x.extractLsb' 0 8 != 0 then 1
  else 0

/-! ## The discovery page -/

/-- FENCE_TYP to FLAGS of a scope (R33). -/
def scopeCosts (k : Nat) : List Nat :=
  match k with
  | 0 => [2, 4, 0, 0, 20, 40, 204800, 0, 1]
  | 1 => [8, 24, 0, 0, 20, 40, 6553600, 0, 1]
  | 2 => [60, 180, 120, 400, 60, 120, 3276800, 1, 1]
  | 3 => [80, 240, 160, 500, 70, 140, 3276800, 1, 1]
  | 4 => [200, 600, 400, 1400, 200, 400, 500000, 2, 1]
  | 5 => [320, 1000, 700, 2500, 300, 600, 125000, 2, 1]
  | _ => [2000, 8000, 4000, 16000, 1600, 6000, 100000, 3, 0]

/-- Cores of a placement that one instance of a scope encloses (R30); 1 for a group. -/
def Shape.members (s : Shape) (k : Nat) : Nat :=
  let lay := 4 * s.cl
  match k with
  | 0 => 1
  | 1 => 1
  | 2 => lay
  | 3 => lay * s.lay
  | 4 => lay * s.lay * s.chip
  | 5 => lay * s.lay * s.chip * s.ret
  | _ => lay * s.lay * s.chip * s.ret * s.pkg

/-- Instances of a scope in a placement; a core holds 256 group slots. -/
def Shape.instances (s : Shape) (k : Nat) : Nat :=
  let all := s.members 6
  if k = 0 then all * 256 else all / s.members k

/-- The words of the level entry of a scope (R30). -/
def levelEntry (s : Shape) (k : Nat) : List Nat := [k, s.members k, s.instances k] ++ scopeCosts k

/-- Bytes 0 to 0x1FF of the discovery page of a shape and generation (R29); the bytes above are reserved. -/
def discoveryPage (shape : Word) (gen : DWord) : List Byte :=
  let w (n : Nat) : List Byte := natBytes 4 n
  w 1 ++ w 7 ++ w shape.toNat ++ w Config.tick ++ natBytes 8 gen.toNat ++ List.replicate 40 0 ++
    (List.range 7).flatMap fun k => ((levelEntry (Shape.of shape) k).flatMap w) ++ List.replicate 16 0

/-- Word `i` of the level entry of scope code `k` on the page (R207); a code of 7 gives all ones. -/
def costWord (shape : Word) (k i : Nat) : DWord :=
  if k = 7 then allOnes else BitVec.ofNat 64 (((levelEntry (Shape.of shape) k)[i]?).getD 0 % 2 ^ 32)

/-! ## The instructions -/

/-- LOCID (R206). -/
def execLocid (f : F64) (s : State) : Host.Outcome State Fault Refusal :=
  scalarResult (hdr64 0x11 0x00 f) f.dst [] (fun c => c.g.locid.setWidth 64) s

/-- SCOPEOF (R206). -/
def execScopeof (f : F64) (s : State) : Host.Outcome State Fault Refusal :=
  let h := hdr64 0x11 0x01 f
  issue h
    { ops := fun _ => sregOk f.dst && sregOk f.s1 && sregOk f.s2
      uses := [(f.s1, true), (f.s2, true)]
      eff := fun c s =>
        let shape := Shape.of (((c.s.ctxOf c.g).map (·.shape)).getD 0)
        let a := c.ssrc f.s1
        let b := c.ssrc f.s2
        let v := if inShape shape a && inShape shape b then lowestScope (a.setWidth 32) (b.setWidth 32) else 7
        c.finish h [.sca (f.dst.toNat - 0x80) (BitVec.ofNat 64 v)] 0 s } s

/-- SCOPECOST (R207): the page that firmware placed for the context holds the same words throughout a run (R32). -/
def execScopecost (f : F64) (s : State) : Host.Outcome State Fault Refusal :=
  let h := hdr64 0x11 0x02 f
  issue h
    { ops := fun _ => sregOk f.dst && sregOk f.s1
      uses := [(f.s1, true)]
      eff := fun c s =>
        let shape := ((c.s.ctxOf c.g).map (·.shape)).getD 0
        c.finish h [.sca (f.dst.toNat - 0x80) (costWord shape ((c.ssrc f.s1).toNat % 8) f.mod.toNat)] 0 s } s

end Sys2Proof.Machine
end

