-- ==== Sys2Proof/Machine/Fabric.lean ====
section
/-! DEFINITION. The Rosvy fabric and the host link (R308 to R329): windows and their counters, PUT and GET by chunks, near-memory
operations, combining, collectives, and the events that carry them. Other packages, the pool nodes and the host answer through the cue. -/

namespace Sys2Proof.Machine

/-! ## Ports and packages -/

/-- A colour's log of a port is full: what comes there is held back (R444). -/
def State.logStops (s : State) (port : Nat) : Bool := s.colours.any fun c => c.logFull (s.ownPackage c.pasid) port

/-- This package's stop bit of a port: set while fewer than 64 of its request buffers are free, and cleared once 256 are (R309); set besides while a log of
the port is full (R444). -/
def State.setStop (s : State) (port : Nat) : State :=
  let free := Config.requestBuffers - (s.inbox.filter fun a => a.port == port).length
  if free < 64 || s.logStops port then { s with stopping := insertNat port s.stopping }
  else if 256 ≤ free then { s with stopping := s.stopping.filter (· != port) }
  else s

/-- The stop bits follow the buffers and the logs. -/
def State.setStops (s : State) : State :=
  if s.stopping == [] && s.colours.all fun c => c.st == .free then s else (List.range 32).foldl State.setStop s

/-- What leaves the package. -/
def State.send (s : State) (x : Sent) : State := { s with sent := s.sent ++ [x] }

/-- Numbers and data, from flits. -/
def unflits (bs : List Byte) : List Nat × List Byte :=
  let n := field bs 0 8
  ((List.range n).map fun k => field bs (16 + 8 * k) 8, (bs.drop (16 + 8 * n)).take (field bs 8 8))

/-- A request-class packet of a context that arrives on a port before the marker of a colour is logged for it (R442). -/
def State.logPacket (s : State) (pasid port : Nat) (bytes : List Byte) : State :=
  { s with colours := s.colours.map fun c =>
      if c.pasid == pasid && c.cut && (c.st == .cutting || c.st == .recording) && !c.markers.contains port then
        c.log (s.ownPackage pasid) port bytes
      else c }

/-- A response of the request of a key that was outstanding at a colour's cut is logged as it arrives on a port, with the key (R443, R451, log 62); the log
is closed once the request is over. -/
def State.logResponse (s : State) (key port : Nat) (xs : List Nat) (bytes : List Byte) : State :=
  { s with colours := s.colours.map fun c => if c.awaits.contains key then c.logAs 8 (s.ownPackage c.pasid) port (flits (key :: xs) bytes) else c }

/-! ## Windows (R313 to R315) -/

/-- An entry of a window table. -/
structure Window where
  base   : Nat
  size   : Nat
  flags  : Nat
  vector : Nat

/-- FLAGS bits of an entry: valid, PUT permitted, GET permitted, HOST, IRQ. -/
def Window.flag (w : Window) (k : Nat) : Bool := w.flags / 2 ^ k % 2 == 1
/-- The entry permits a PUT or a GET. -/
def Window.permits (w : Window) (put : Bool) : Bool := w.flag 0 && w.flag (if put then 1 else 2)
/-- The entry lies in host memory. -/
def Window.host (w : Window) : Bool := w.flag 3

/-- Bytes that a unit of the device without caches reads at the home slices, 16 at a time. -/
def State.unitRead (s : State) (pasid va n : Nat) : Except Xlated (List Byte) × State :=
  readVirt deviceUnit pasid .engineRead (fun s pa _ =>
    let (bs, s') := s.rootRead pasid pa 16
    (s', if s.unreachable pa 16 false then .error (.fault 0x0C 0 false)
      else if s.readsPoison deviceUnit pasid 0 pa 16 then .error (.fault 0x0B 0 false) else .ok bs)) 16 (n / 16) (BitVec.ofNat 64 va) s

/-- The address of entry w of the context's table. -/
def State.winAt (s : State) (pasid w : Nat) : Nat := (((s.ctx? pasid).map (·.winbase.toNat)).getD 0) + 32 * w

/-- Entry w of the context's table, read with an acquire at .package, and what the read leaves: the bits of the walk, and a request to the host (R118,
R123, R314). -/
def State.winFind (s : State) (pasid w : Nat) : Except Xlated Window × State :=
  match s.unitRead pasid (s.winAt pasid w) 32 with
  | (.ok bs, s) => (.ok ⟨field bs 0 8, field bs 8 8, field bs 0x10 2, field bs 0x12 2⟩, s)
  | (.error x, s) => (.error x, s)

/-- The entry alone. -/
def State.winRead (s : State) (pasid w : Nat) : Except Xlated Window := (s.winFind pasid w).1

/-- An entry that is not valid. -/
def Window.invalid : Window := ⟨0, 0, 0, 0⟩

/-- An entry as a check or a delivery finds it: none while its page waits for the host or for system software, not valid where it cannot be read. -/
def State.window? (s : State) (pasid w : Nat) (refused : List Nat) : Option Window × State :=
  if ((s.ctx? pasid).map (·.winbase)).getD 0 = 0 then (some .invalid, s)
  else match s.winFind pasid w with
    | (.ok e, s) => (some e, s)
    | (.error (.host _), s) => (none, s)
    | (.error (.fault r _ fw), s) => (if answerable r fw && !refused.contains (pageOf (s.winAt pasid w)) then none else some .invalid, s)
    | (.error _, s) => (some .invalid, s)

/-- The window lies in host memory, by the issuing package's own entry (R318). -/
def State.winHost (s : State) (pasid w : Nat) : Bool := match s.winRead pasid w with | .ok e => e.host | .error _ => false

/-- The counters of a window. -/
def State.counts (s : State) (pasid w : Nat) : WinCount :=
  (s.windows.find? fun x => x.pasid == pasid && x.win == w).getD ⟨pasid, w, 0, 0, 0⟩
/-- Changes them; counters of zero are not listed. -/
def State.onCounts (s : State) (pasid w : Nat) (f : WinCount → WinCount) : State :=
  let x := f (s.counts pasid w)
  { s with windows := s.windows.filter (fun y => !(y.pasid == pasid && y.win == w)) ++
      if x.tgt = 0 ∧ x.src = 0 ∧ x.err = 0 then [] else [x] }

/-! ## Pieces -/

/-- A range cut at the multiples of m: each piece with its length. -/
def pieces (m off n : Nat) : List (Nat × Nat) :=
  (List.range (n / m + 2)).filterMap fun k =>
    let p := if k = 0 then off else (off / m + k) * m
    if p < off + n then some (p, min (m - p % m) (off + n - p)) else none

/-- The offsets at which the chunks of a transfer start (R310). -/
def chunksOf (off n : Nat) : List Nat := (pieces 4096 off n).map (·.1)

/-- Where a transfer reads or writes: local addresses of a block through a window, or virtual ones under a view; the pages answered fatal;
and whether only host memory will do (R318). -/
structure Side where
  loc     : Bool
  slots   : List ShSlot
  block   : Nat
  pasid   : Nat
  view    : Nat
  refused : List Nat
  host    : Bool

/-- What a read or write of a piece finds. -/
inductive Moved where
  | ok (bytes : List Byte) (bad : Bool)
  | wait
  /-- The view pool is full (R416). -/
  | full
  /-- With its reason, 0 where the page lies in another tier than the host's. -/
  | fatal (reason : Nat)
  deriving DecidableEq, Repr

/-- A physical place for bytes of a side. -/
def State.sidePlace (s : State) (d : Side) (va : Nat) (w : Way) : Except Moved Nat × State :=
  match s.translate deviceUnit d.pasid (BitVec.ofNat 64 va) w with
  | (.ok pa _ _ _, s) =>
    if d.host && s.tierOf pa != .host then (.error (.fatal 0), s)
    else if s.inTransit pa then (.error .wait, s)
    else (.ok pa, s)
  | (.host e, s) => (.error .wait, s.askHost e)
  | (.fault r _ fw, s) => (.error (if answerable r fw && !d.refused.contains (pageOf va) then .wait else .fatal r), s)

/-- n bytes, 4 at a time, each word with its poison; those of a pool node out of reach read as poisoned free values (R312). -/
def State.sideRead (d : Side) : Nat → Nat → State → Moved × State
  | 0, _, s => (.ok [] false, s)
  | n + 1, a, s =>
    let word : Moved × State :=
      if d.loc then
        match s.localVia d.slots d.block (BitVec.ofNat 64 a) 4 with
        | .error _ => (.ok (natBytes 4 (s.freeWord (70000 + a % 4096)).toNat) true, s)
        | .ok (b, off) =>
          if s.localTransit b off then (.wait, s) else (.ok (s.vaultRead b off 4) (s.vaultPoisoned b (granOf off)), s)
      else
        match s.sidePlace d a .engineRead with
        | (.error x, s) => (x, s)
        | (.ok pa, s) =>
          if s.unreachable pa 4 false then (.ok (natBytes 4 (s.freeWord (70000 + a % 4096)).toNat) true, s)
          else if s.portStopped pa 4 false then (.wait, s)
          else
            let bad := s.readsPoison deviceUnit d.pasid d.view pa 4
            let (root, s) := s.rootRead d.pasid pa 4
            (.ok (s.moved d.pasid d.view a pa (s.overView d.pasid d.view pa root)) bad, s)
    match word with
    | (.ok bs bad, s) =>
      match State.sideRead d n (a + 4) s with
      | (.ok l more, s) => (.ok (bs ++ l) (bad || more), s)
      | x => x
    | x => x

/-- Bytes within one granule are written (R144, R317). -/
def State.sideWrite (s : State) (d : Side) (a : Nat) (bs : List Byte) (bad : Bool) : Moved × State :=
  let whole := bs.length == 16
  if d.loc then
    match s.localVia d.slots d.block (BitVec.ofNat 64 a) bs.length with
    | .error _ => (.ok [] false, s)
    | .ok (b, off) =>
      if s.localTransit b off || s.segmentWaits b off then (.wait, s)
      else
        let s := s.vaultWrite b off bs
        let s := if whole then s.fed b (granOf off) else s
        (.ok [] false, if bad then s.poisonVault b (granOf off) true else if whole then s.poisonVault b (granOf off) false else s)
  else
    match s.sidePlace d a .engineWrite with
    | (.error x, s) => (x, s)
    | (.ok pa, s) =>
      if s.pageWaits pa then (.wait, s)
      else if s.unreachable pa bs.length (d.view == 0) then (.fatal 0x0C, s)
      else if d.view == 0 && s.portStopped pa bs.length false then (.wait, s)
      else if s.viewFull d.pasid d.view pa then (.full, s)
      else
        let s := s.diverge d.pasid d.view a pa
        let s := if d.view = 0 then s.rootWrite d.pasid pa bs else s.viewWrite d.pasid d.view pa bs
        (.ok [] false, if bad then s.poisonIn d.pasid d.view pa true else if whole then s.poisonIn d.pasid d.view pa false else s)

/-- The pieces of a chunk are read from an address that stands for the window offset `off`; the first piece that cannot be, otherwise. -/
def readPieces (d : Side) (base off : Nat) : List (Nat × Nat) → State → Except (Moved × Nat) (List (Nat × List Byte × Bool)) × State
  | [], s => (.ok [], s)
  | (p, n) :: l, s =>
    match State.sideRead d (n / 4) (base + p - off) s with
    | (.ok bs bad, s) =>
      match readPieces d base off l s with
      | (.ok r, s) => (.ok ((p, bs, bad) :: r), s)
      | x => x
    | (x, s) => (.error (x, p), s)

/-- Pieces are written at their offsets from an address; the first that cannot be, otherwise. -/
def writePieces (d : Side) (base off : Nat) : List (Nat × List Byte × Bool) → State → Option (Moved × Nat) × State
  | [], s => (none, s)
  | (p, bs, bad) :: l, s =>
    match s.sideWrite d (base + p - off) bs bad with
    | (.ok _ _, s) => writePieces d base off l s
    | (x, s) => (some (x, p), s)

/-! ## Requests -/

/-- The request of a key. -/
def State.fabReq? (s : State) (key : Nat) : Option FabReq := s.fabric.find? (·.key == key)
/-- Changes one request. -/
def State.onReq (s : State) (key : Nat) (f : FabReq → FabReq) : State :=
  { s with fabric := s.fabric.map fun r => if r.key == key then f r else r }

/-- The issuer's own side of a request, and the window's side of it. -/
def FabReq.own (r : FabReq) : Side := ⟨r.loc, r.slots, r.block, r.pasid, r.view, r.refused, false⟩
def FabReq.far (r : FabReq) : Side := ⟨false, [], 0, r.pasid, 0, r.refused, r.host⟩
/-- The pieces of the chunk at an offset. -/
def FabReq.chunk (r : FabReq) (o : Nat) : List (Nat × Nat) := pieces 16 o (min (4096 - o % 4096) (r.off + r.n - o))

/-- A request as it is issued. -/
def FabReq.new (key : Nat) (kind : FabKind) (pasid view block gidx : Nat) (flight : Option Nat) : FabReq where
  key := key
  kind := kind
  pasid := pasid
  view := view
  block := block
  gidx := gidx
  flight := flight
  loc := false
  slots := []
  addr := 0
  win := 0
  off := 0
  n := 0
  target := 0
  host := false
  parm := []
  ord := 0
  nores := false
  pa := 0
  arena := 0
  asize := 0
  todo := []
  data := []
  result := none
  counted := false
  code := 0
  codeAt := 0
  refused := []
  left := []
  held := []

/-- A request fails with a code of R323: what it has still to move is not moved. -/
def State.fabFail (s : State) (key code at_ : Nat) : State :=
  s.onReq key fun r => if r.code = 0 then { r with code := code, codeAt := at_, todo := [], data := [], left := [] } else r

/-- A request is over: its instruction completes, with WINDOW for a failure (R323), and the group observes what was written (R317). -/
def State.endReq (s : State) (r : FabReq) (code at_ : Nat) (ws : List RegWrite) : State :=
  let s : State := { s with fabric := s.fabric.filter (·.key != r.key) }
  let s := if code = 0 ∨ r.kind = FabKind.nmo then s
    else s.onCounts r.pasid r.win fun w => { w with err := w.err ||| BitVec.ofNat 8 (2 ^ (code - 0x10)) }
  match r.flight with
  | none => s
  | some k =>
    let ref : FRef := ⟨r.block, r.gidx, k⟩
    let s := match (s.group? r.block r.gidx).bind fun g => g.flight? k with
      | some f => if code = 0 then s
        else s.defer ref ⟨Cause.window, BitVec.ofNat 64 at_, BitVec.ofNat 64 code, 0, true, some f.pc, none⟩ f.cnt f.dests 0 false false
      | none => s
    let s := match r.kind, s.group? r.block r.gidx with
      | .get, some g => s.acquire (s.coreOfGroup g) r.pasid r.view 5
      | _, _ => s
    s.land ref ws

/-- VIEW_POOL is recorded once for each line for which a write of a request is held (R416). -/
def State.reqHeld (s : State) (r : FabReq) (va : Nat) : State :=
  if r.held.contains (lineOf va) then s
  else
    let s := s.onReq r.key fun r => { r with held := lineOf va :: r.held }
    match r.flight with
    | none => s
    | some k => match (s.group? r.block r.gidx).bind fun g => g.flight? k with
      | none => s
      | some f =>
        let size := ((s.ctx? r.pasid).map fun c => c.vpsize.setWidth 64).getD 0
        s.defer ⟨r.block, r.gidx, k⟩ ⟨Cause.viewPool, BitVec.ofNat 64 (lineOf va), size, 0, true, some f.pc, none⟩ f.cnt f.dests 0 false false

/-- What a failed piece of a request does: it waits, or the request fails with a code at the granule's window offset. -/
def State.pieceFails (s : State) (r : FabReq) (code : Nat) (x : Moved) (p : Nat) : State :=
  match x with
  | .fatal _ => s.fabFail r.key code (p / 16 * 16)
  | .full => s.reqHeld r (r.addr + (p - r.off))
  | _ => s

/-- The entry of a window refuses a transfer: the code of R323. -/
def Window.refuses (w : Window) (put : Bool) (off n : Nat) : Option Nat :=
  if !w.permits put then some 0x10 else if w.size < off + n then some 0x11 else none

/-! ## PUT (R316) -/

/-- A PUT is issued: SRC rises (step 1). Its release has been made. -/
def State.issuePut (s : State) (view block gidx : Nat) (flight : Option Nat) (pasid : Nat) (loc : Bool) (src desc off : DWord) : State :=
  let (key, s) := s.fresh
  let w := desc.toNat % 4096
  let n := desc.toNat / 2 ^ 32
  let r := { FabReq.new key .put pasid view block gidx flight with
    loc := loc, slots := s.window block, addr := src.toNat, win := w, off := off.toNat, n := n
    target := natBits desc.toNat 16 7, host := s.winHost pasid w, todo := chunksOf off.toNat n }
  ({ s with fabric := s.fabric ++ [r] } : State).onCounts pasid w fun c => { c with src := c.src + 1 }

/-- One chunk of a PUT on a port: the source is read (step 2), and it is written at the target of this package or of the host (step 3), or
leaves for another package. -/
def State.moveChunk (s : State) (r : FabReq) (o port : Nat) : State :=
  match readPieces r.own r.addr r.off (r.chunk o) s with
  | (.error (x, p), s) => s.pieceFails r 0x12 x p
  | (.ok ps, s) =>
    let bytes : List Byte := ps.flatMap fun (p : Nat × List Byte × Bool) => p.2.1
    let done (left : Bool) (s : State) : State :=
      s.onReq r.key fun r => { r with todo := r.todo.filter (· != o), left := if left then r.left ++ [o] else r.left }
    if r.host || s.isOwn r.pasid r.target then
      match s.window? r.pasid r.win r.refused with
      | (none, s) => s
      | (some w, s) =>
        match w.refuses true r.off r.n with
        | some code => s.fabFail r.key code (o / 16 * 16)
        | none =>
          match writePieces r.far w.base 0 ps s with
          | (none, s) => done false s
          | (some (x, p), s) => s.pieceFails r 0x13 x p
    else
      done true (s.send ⟨0, port, r.pasid, r.target, r.win, o, flits [r.key, r.off, r.n] bytes,
        (ps.filter fun (p : Nat × List Byte × Bool) => p.2.2).map fun (p : Nat × List Byte × Bool) => p.1 / 16 - o / 16⟩)

/-- The chunk at an offset of a PUT is moved, where its request still stands and a port is in use; for another package it may wait at the port. -/
def State.putChunk (key : Nat) (s : State) (o : Nat) : State :=
  match s.fabReq? key with
  | none => s
  | some r =>
    if r.code ≠ 0 ∨ ¬r.todo.contains o then s
    else match s.route o with
      | none => if r.host then s.moveChunk r o 0 else s.fabFail key 0x14 (o / 16 * 16)
      | some port => if r.host || s.isOwn r.pasid r.target || !s.portWaits port 1 then s.moveChunk r o port else s

/-- The release of a delivery: at .package, and for host memory at .pod (R316 step 4, R318). -/
def State.deliverRelease (s : State) (pasid : Nat) (w : Window) : State :=
  let s := s.flushShared pasid
  if w.host then s.cleanHomes else s
/-- The vector of an IRQ window. -/
def State.raiseVector (s : State) (pasid : Nat) (w : Window) : State :=
  if w.flag 4 then s.send ⟨6, ((s.ctx? pasid).map (·.vf)).getD 0, pasid, w.vector, 0, 0, [], []⟩ else s
/-- The release of a delivery, then TGT and the vector (step 4). -/
def State.countPut (s : State) (pasid win : Nat) (w : Window) : State :=
  ((s.deliverRelease pasid w).onCounts pasid win fun c => { c with tgt := c.tgt + 1 }).raiseVector pasid w

/-- Once every chunk has been moved, the PUT is counted at its target, or is left to the other package; one of no bytes goes there as a chunk of
none. -/
def State.putWhole (s : State) (key : Nat) : State :=
  match s.fabReq? key with
  | none => s
  | some r =>
    if r.code ≠ 0 ∨ r.counted ∨ r.todo ≠ [] then s
    else if r.host || s.isOwn r.pasid r.target then
      match s.window? r.pasid r.win r.refused with
      | (none, s) => s
      | (some w, s) =>
        match w.refuses true r.off r.n with
        | some code => s.fabFail key code (r.off / 16 * 16)
        | none => if w.host && s.homesStuck then s else (s.countPut r.pasid r.win w).onReq key fun r => { r with counted := true }
    else if r.n ≠ 0 then s.onReq key fun r => { r with counted := true }
    else match s.route r.off with
      | none => s.fabFail key 0x14 (r.off / 16 * 16)
      | some port =>
        if s.portWaits port 1 then s
        else (s.send ⟨0, port, r.pasid, r.target, r.win, r.off, flits [r.key, r.off, 0] [], []⟩).onReq key fun r =>
          { r with counted := true, left := [r.off] }

/-! ## PUTs and GETs of other packages (R316, R317, R323) -/

/-- The port on which the answer to an arrival leaves: its own, or the next in use (R311). -/
def State.portBack (s : State) (a : Arrival) : Nat := (s.portFrom a.port).getD a.port

/-- What this package keeps of a PUT of another one. -/
def State.inPut (s : State) (a : Arrival) : InPut :=
  (s.inPuts.find? fun p => p.pasid == a.pasid && p.sender == a.sender && p.tag == a.tag).getD ⟨a.pasid, a.sender, a.tag, [], 0, 0, false⟩

/-- The chunk of an arrival has been written, or has failed with a code at an offset. Once every chunk of its PUT has been, the PUT is counted, where none
has failed, and it is acknowledged (R316 steps 4 and 5, R323; log 62). -/
def State.putGot (s : State) (a : Arrival) (w : Window) (code at_ : Nat) : State :=
  let p := s.inPut a
  let p := { p with got := a.at_ :: p.got.filter (· != a.at_), code := if p.code = 0 then code else p.code, codeAt := if p.code = 0 then at_ else p.codeAt }
  let whole := (if a.n = 0 then [a.off] else chunksOf a.off a.n).all p.got.contains
  let s : State := { s with inPuts := s.inPuts.filter (fun x => !(x.pasid == p.pasid && x.sender == p.sender && x.tag == p.tag)) ++ [{ p with done := p.done || whole }] }
  if !whole then s
  else
    let s := if p.done || p.code != 0 then s else s.countPut a.pasid a.win w
    s.send ⟨3, s.portBack a, a.pasid, a.sender, p.code, p.codeAt, flits [a.tag] [], []⟩

/-- An arrival is delivered, and whether it leaves its buffer: a PUT's chunk is written (step 3), or the data of a GET's goes back. -/
def State.deliverIn (s : State) (a : Arrival) : Bool × State :=
  let side (w : Window) : Side := ⟨false, [], 0, a.pasid, 0, a.refused, w.host⟩
  let reply (code at_ : Nat) (bytes : List Byte) (bad : List Nat) (s : State) : State :=
    s.send ⟨2, s.portBack a, a.pasid, a.sender, code, at_, flits [a.tag] bytes, bad⟩
  if (s.ctx? a.pasid).isNone then
    (true, if a.put then s.send ⟨3, s.portBack a, a.pasid, a.sender, 0x14, a.at_, flits [a.tag] [], []⟩ else reply 0x14 a.at_ [] [] s)
  else
    match s.window? a.pasid a.win a.refused with
    | (none, s) => (false, s)
    | (some w, s) =>
      let failed (code p : Nat) (s : State) : State := if a.put then s.putGot a w code (p / 16 * 16) else reply code (p / 16 * 16) [] [] s
      match w.refuses a.put a.off a.n with
      | some code => (true, failed code a.at_ s)
      | none =>
        if a.put then
          let ps := (pieces 16 a.at_ a.bytes.length).map fun (p : Nat × Nat) =>
            (p.1, (a.bytes.drop (p.1 - a.at_)).take p.2, a.bad.contains (p.1 / 16 - a.at_ / 16))
          if w.host && s.homesStuck then (false, s)
          else match writePieces (side w) w.base 0 ps s with
            | (none, s) => (true, s.putGot a w 0 0)
            | (some (.fatal _, p), s) => (true, failed 0x13 p s)
            | (some _, s) => (false, s)
        else
          match readPieces (side w) w.base 0 (pieces 16 a.at_ (min (4096 - a.at_ % 4096) (a.off + a.n - a.at_))) s with
          | (.ok ps, s) => (true, reply 0 a.at_ (ps.flatMap fun p => p.2.1) ((ps.filter fun p => p.2.2).map fun p => p.1 / 16 - a.at_ / 16) s)
          | (.error (.fatal _, p), s) => (true, failed 0x13 p s)
          | (.error _, s) => (false, s)

/-- Requests in the buffers are delivered in order of arrival; those that must wait stay there. -/
def State.deliverAll (s : State) : State :=
  let s := s.inbox.foldl (fun (s : State) a => match s.deliverIn a with
    | (true, s) => s
    | (false, s) => { s with inbox := s.inbox ++ [a] }) { s with inbox := [] }
  s.setStops

/-- A request of another package comes into a buffer of its port, where one is free, and into the logs of colours, where
they have room (R309, R442, R444). -/
def State.arrive (s : State) (a : Arrival) : State :=
  if Config.requestBuffers ≤ (s.inbox.filter fun x => x.port == a.port).length || s.logStops a.port then s
  else
    let s := s.logPacket a.pasid a.port (flits ([if a.put then 0 else 1, a.sender, a.tag, a.win, a.off, a.n, a.at_, a.port] ++ a.bad) a.bytes)
    (({ s with inbox := s.inbox ++ [a] } : State).setStop a.port).deliverAll

/-- The arrival that a cue describes: context, sender, tag, window, offset, length, offset of the chunk, port, then the poisoned granules. -/
def Cue.arrival (put : Bool) (c : Cue) : Option Arrival :=
  match c.nums with
  | pasid :: sender :: tag :: win :: off :: n :: at_ :: port :: bad =>
    some ⟨put, port, pasid, sender, tag, win, off, n, at_, c.bytes, bad, []⟩
  | _ => Option.none

/-- What waits in the buffers for a page learns that the page has been answered fatal. -/
def State.refuseIn (s : State) (pasid page : Nat) : State :=
  { s with inbox := s.inbox.map fun a => if a.pasid == pasid then { a with refused := page :: a.refused } else a }

/-- PUT_DELIVERY (R316 steps 2 to 4): of the PUT of the cue's key, the chunks that the cue lists, or all; with `yes`, a chunk from another
package, or without one those that wait in the buffers. -/
def execPutDelivery (s : State) : Host.Outcome State Fault Refusal :=
  let q := s.cue
  .next (if q.yes then
      match q.arrival true with
      | some a => s.arrive a
      | none => s.deliverAll
    else match (s.fabReq? q.key : Option FabReq) with
      | none => s
      | some r =>
        if r.kind ≠ FabKind.put then s
        else (((if q.nums = [] then r.todo else q.nums).foldl (State.putChunk q.key) s)).putWhole q.key).wake

/-- PUT_ACKNOWLEDGEMENT (R316 step 5): of the PUT of the cue's key, once it is over; another package gives a code and an offset. -/
def execPutAcknowledgement (s : State) : Host.Outcome State Fault Refusal :=
  .next (match (s.fabReq? s.cue.key : Option FabReq) with
    | none => s
    | some r =>
      if r.kind ≠ FabKind.put ∨ (r.code = 0 ∧ ¬r.counted) then s
      else
        let told := !(r.host || s.isOwn r.pasid r.target)
        let code := if r.code ≠ 0 then r.code else if told then (s.cue.nums[0]?).getD 0 else 0
        let off := if r.code ≠ 0 then r.codeAt else (s.cue.nums[1]?).getD 0
        let s := (s.logResponse r.key ((s.route off).getD 0) [0, code, off] []).onCounts r.pasid r.win fun c => { c with src := c.src - 1 }
        s.endReq r code off []).wake

/-! ## GET (R317) -/

/-- One chunk of a GET is read at the window of this package or of the host, or asked of another package. -/
def State.getChunk (key : Nat) (s : State) (o : Nat) : State :=
  match s.fabReq? key with
  | none => s
  | some r =>
    if r.code ≠ 0 ∨ ¬r.todo.contains o then s
    else
      let asked (data : List FabChunk) (s : State) : State :=
        s.onReq key fun r => { r with todo := r.todo.filter (· != o), left := r.left ++ [o], data := r.data ++ data }
      if !r.host && (s.route o).isNone then s.fabFail key 0x14 (o / 16 * 16)
      else if r.host || s.isOwn r.pasid r.target then
        match s.window? r.pasid r.win r.refused with
        | (none, s) => s
        | (some w, s) =>
          match w.refuses false r.off r.n with
          | some code => s.fabFail key code (o / 16 * 16)
          | none =>
            let s : State := if r.host then { s with homes := s.homes.filter (·.dirty) } else s
            match readPieces r.far w.base 0 (r.chunk o) s with
            | (.error (x, p), s) => s.pieceFails r 0x13 x p
            | (.ok ps, s) =>
              asked [⟨o, ps.flatMap fun p => p.2.1, (ps.filter fun p => p.2.2).map fun p => p.1 / 16 - o / 16⟩] s
      else
        let port := (s.route o).getD 0
        if s.portWaits port ((min (4096 - o % 4096) (r.off + r.n - o) + 63) / 64) then s
        else asked [] (s.send ⟨1, port, r.pasid, r.target, r.win, o, flits [r.key, r.off, r.n] [], []⟩)

/-- GET_REQUEST (R317): of the GET of the cue's key, the chunks that the cue lists, or all; with `yes`, one of another package. -/
def execGetRequest (s : State) : Host.Outcome State Fault Refusal :=
  let q := s.cue
  .next (if q.yes then
      match q.arrival false with
      | some a => s.arrive a
      | none => s.deliverAll
    else match (s.fabReq? q.key : Option FabReq) with
      | none => s
      | some r => if r.kind ≠ FabKind.get then s else (if q.nums = [] then r.todo else q.nums).foldl (State.getChunk q.key) s).wake

/-- A chunk of a GET is written at its destination (R317, R325). -/
def State.getWrite (key : Nat) (s : State) (d : FabChunk) : State :=
  match s.fabReq? key with
  | none => s
  | some r =>
    if r.code ≠ 0 ∨ ¬r.left.contains d.off then s
    else
      let ps := (pieces 16 (r.addr + (d.off - r.off)) d.bytes.length).map fun (p : Nat × Nat) =>
        let o := p.1 - r.addr + r.off
        let bs := (d.bytes.drop (o - d.off)).take p.2
        (o, bs, d.bad.any fun g => decide (o / 16 - d.off / 16 ≤ g) && decide (g ≤ (o + p.2 - 1) / 16 - d.off / 16))
      match writePieces r.own r.addr r.off ps s with
      | (none, s) => s.onReq key fun r => { r with left := r.left.filter (· != d.off), data := r.data.filter (·.off != d.off) }
      | (some (x, p), s) => s.pieceFails r 0x12 x p

/-- GET_RESPONSE (R317): of the GET of the cue's key, the chunks that have been read, or the one at the offset that heads the cue, from another
package; with `yes`, that package's code and offset. The GET completes once every chunk has been written. -/
def execGetResponse (s : State) : Host.Outcome State Fault Refusal :=
  let q := s.cue
  .next (match (s.fabReq? q.key : Option FabReq) with
    | none => s
    | some r =>
      if r.kind ≠ FabKind.get then s
      else
        let far := !(r.host || s.isOwn r.pasid r.target)
        let s := if far && (q.bytes != [] || q.yes) then s.logResponse r.key ((s.route ((q.nums[if q.yes then 1 else 0]?).getD 0)).getD 0) (1 :: (if q.yes then 1 else 0) :: q.nums) q.bytes else s
        let s := match far, q.yes, q.nums with
          | true, true, [code, off] => s.fabFail q.key code off
          | true, false, off :: bad => s.getWrite q.key ⟨off, q.bytes, bad⟩
          | _, _, _ => r.data.foldl (State.getWrite q.key) s
        match (s.fabReq? q.key : Option FabReq) with
        | none => s
        | some r => if r.code ≠ 0 ∨ (r.todo = [] ∧ r.left = []) then s.endReq r r.code r.codeAt [] else s).wake

/-! ## PUT and GET at issue (R324, R325) -/

/-- WINDOW at issue. -/
def windowTrap (at_ : DWord) (code : Nat) : Sync := .trap (.precise Cause.window at_ (BitVec.ofNat 64 code))

/-- The group's own entry of a window, or what the issue does without one (R325 check 2, R326). -/
def ownWindow (c : Cx) (w : Nat) (at_ : DWord) : Sync × Window :=
  let none_ : Window := .invalid
  let pasid := c.s.pasidOf c.g
  if ((c.s.ctx? pasid).map (·.winbase)).getD 0 = 0 then (windowTrap at_ 0x03, none_)
  else match c.s.winRead pasid w with
    | .error x => ((match syncOf c.g at_ false x with | .wait => .wait | _ => windowTrap at_ 0x03), none_)
    | .ok e => (if e.flag 0 then .go else windowTrap at_ 0x03, e)

/-- What reading the group's own entry of a window leaves (R118, R123). -/
def State.winAsked (s : State) (w : Nat) : State :=
  if ((s.ctxOf s.cur).map (·.winbase)).getD 0 = 0 then s else (s.winFind (s.pasidOf s.cur) w).2

/-- Entries that a world's outbox holds. -/
def State.outboxLen (s : State) (pasid view : Nat) : Nat :=
  ((s.views.find? fun v => v.pasid == pasid && v.num == view).map (·.outbox.length)).getD 0

/-- The checks of R325 in order. -/
def fabricCheck (c : Cx) (h : Hdr) (put loc irrev : Bool) (a k o : DWord) : Sync :=
  let n := k.toNat / 2 ^ 32
  if natBits k.toNat 12 4 ≠ 0 ∨ natBits k.toNat 23 9 ≠ 0 ∨ 2 ^ 24 < n then windowTrap o 0x01
  else match ownWindow c (k.toNat % 4096) o with
    | (.go, w) =>
      let shape := Shape.of (((c.s.ctxOf c.g).map (·.shape)).getD 0)
      let world := c.s.viewOf c.g
      if !w.permits put then windowTrap o 0x03
      else if !w.host && decide (shape.pkg ≤ natBits k.toNat 16 7) then windowTrap o 0x02
      else if a.toNat % 4 ≠ 0 then .trap (.precise Cause.misalign a 0)
      else if o.toNat % 4 ≠ 0 then .trap (.precise Cause.misalign o 0)
      else if n % 4 ≠ 0 then .trap (.precise Cause.misalign (BitVec.ofNat 64 n) 0)
      else if w.size < o.toNat + n then windowTrap o 0x04
      else match (if loc && n != 0 then rangeFault c.s c.g.block a n 1 else none) with
        | some t => .trap t
        | none =>
          if put && !irrev && world != 0 && (w.flag 4 || decide (256 ≤ c.s.outboxLen (c.s.pasidOf c.g) world)) then
            .trap (.precise Cause.worldEscape 0 h.word)
          else .go
    | (x, _) => x

/-- An entry joins the outbox of the issuing group's world (R426). -/
def State.outboxAdd (s : State) (e : OutEntry) : State :=
  let p := s.pasidOf s.cur
  let v := s.viewOf s.cur
  { s with views := s.views.map fun w => if w.pasid == p && w.num == v then { w with outbox := w.outbox ++ [e] } else w }

/-- The checks, the stalls and the effect of what `transfer` issues. -/
def transferPlan (min : BitVec 6) (put : Bool) (f : F64) : Plan :=
  let h := hdr64 0x13 min f
  let loc := f.modBit 0
  let irrev := put && f.modBit 1
  let check (c : Cx) : Sync := fabricCheck c h put loc irrev (c.ssrc f.s1) (c.ssrc f.s2) (c.ssrc f.s3)
  { ops := fun _ => sregOk f.s1 && sregOk f.s2 && sregOk f.s3
    uses := [(f.s1, true), (f.s2, true), (f.s3, true)]
    mem := true
    acts := true
    own := fun c => (check c).fault
    table := fun c => c.pins irrev
    wait := fun c => c.s.memoryHeld c.g false || (put && c.s.releaseWaits 5) || check c == .wait
    ask := fun c s => if check c == .wait then s.winAsked ((c.ssrc f.s2).toNat % 4096) else s
    eff := fun c s =>
      let s := (s.winAsked ((c.ssrc f.s2).toNat % 4096)).goesOn
      let view := s.viewOf s.cur
      let pasid := s.pasidOf s.cur
      if put && !irrev && view != 0 then
        c.launch h .result [] [] 0 (s.outboxAdd (.put loc (c.ssrc f.s1) (c.ssrc f.s2) (c.ssrc f.s3)))
      else if put then
        let s := (if irrev then s.pin else s).release (s.coreOfGroup s.cur) pasid view 5
        let key := s.nextKey
        let s := s.issuePut view s.cur.block s.cur.gidx (some (s.nextKey + 1)) pasid loc (c.ssrc f.s1) (c.ssrc f.s2) (c.ssrc f.s3)
        c.launch h (.fabric key) [] [] 0 s
      else
        let (key, s) := s.fresh
        let k := (c.ssrc f.s2).toNat
        let o := (c.ssrc f.s3).toNat
        let r := { FabReq.new key .get pasid view s.cur.block s.cur.gidx (some s.nextKey) with
          loc := loc, slots := s.window s.cur.block, addr := (c.ssrc f.s1).toNat, win := k % 4096, off := o, n := k / 2 ^ 32
          target := natBits k 16 7, host := s.winHost pasid (k % 4096), todo := chunksOf o (k / 2 ^ 32) }
        c.launch h (.fabric key) [] [] 0 { s with fabric := s.fabric ++ [r] } }

/-- PUT and GET (R324, R325). -/
def transfer (min : BitVec 6) (put : Bool) (f : F64) (s : State) : Host.Outcome State Fault Refusal :=
  issue (hdr64 0x13 min f) (transferPlan min put f) s

/-- PUT (R316, R325). -/
def execPut (f : F64) (s : State) : Host.Outcome State Fault Refusal := transfer 0x00 true f s
/-- GET (R317, R325). -/
def execGet (f : F64) (s : State) : Host.Outcome State Fault Refusal := transfer 0x01 false f s

/-- The checks, the stalls and the effect of what `execWcnt` issues. -/
def wcntPlan (f : F64) : Plan :=
  let h := hdr64 0x13 0x02 f
  let ge := f.modLow == 1
  let win (c : Cx) : Nat := (c.ssrc f.s1).toNat % 4096
  { ops := fun _ => sregOk f.dst && sregOk f.s1 && (!ge || sregOk f.s2)
    uses := [(f.s1, true)] ++ if ge then [(f.s2, true)] else []
    mem := true
    acts := true
    own := fun c => (ownWindow c (win c) (BitVec.ofNat 64 (win c))).1.fault
    wait := fun c => c.s.memoryHeld c.g true || (ownWindow c (win c) (BitVec.ofNat 64 (win c))).1 == .wait
    ask := fun c s => if (ownWindow c (win c) (BitVec.ofNat 64 (win c))).1 == .wait then s.winAsked (win c) else s
    eff := fun c s =>
      let s := (s.winAsked (win c)).goesOn
      c.launch h (.wcnt f.modLow (win c) (if ge then c.ssrc f.s2 else 0) (f.dst.toNat - 0x80)) [] [.sca (f.dst.toNat - 0x80)] 0 s }

/-- WCNT (R326). -/
def execWcnt (f : F64) (s : State) : Host.Outcome State Fault Refusal :=
  issue (hdr64 0x13 0x02 f) (wcntPlan f) s

/-- What remains of a WCNT: its condition, its value, its acquire (R326). -/
def State.finishFabric (s : State) (r : FRef) : FlightOp → State
  | .wcnt sel w v dst =>
    match s.group? r.block r.gidx with
    | none => s
    | some g =>
      let pasid := s.pasidOf g
      let n := s.counts pasid w
      let observed (s : State) : State := (s.acquire (s.coreOfGroup g) pasid (s.viewOf g) 5).land r [.sca dst n.tgt]
      match sel.toNat with
      | 0 => observed s
      | 1 => if v ≤ n.tgt then observed s else s
      | 2 => if n.src = 0 then s.land r [.sca dst 0] else s
      | _ => (s.onCounts pasid w fun x => { x with err := 0 }).land r [.sca dst (n.err.setWidth 64)]
  | _ => s

/-! ## Near-memory operations (R319, R320, R327) -/

/-- Bytes of a range return to the pool node from this package's home slices, and leave them. -/
def State.podSync (s : State) (pa n : Nat) : State :=
  let hit (c : CByte) : Bool := decide (pa ≤ c.pa) && decide (c.pa < pa + n)
  let s := s.returnHomes hit
  { s with homes := s.homes.filter fun c => c.dirty || !hit c }

/-- A word of a pool node, read and written there. -/
def State.nodeRead (s : State) (pa : Nat) : Nat × State :=
  let s := s.podSync pa 8
  (leNat (s.mem.read pa 8), s)
def State.nodeWrite (s : State) (pa v : Nat) : State :=
  let s := (s.podSync pa 8).preserve pa
  { s with mem := s.mem.write pa (natBytes 8 v) }

/-- A word of a record. -/
def recWord (parm : List Byte) (off k : Nat) : Nat := field parm (off + 8 * k) 8

/-- CHASE from the list's p on, with n hops left of h taken (R320): the results and the status. -/
def chase (inside : Nat → Bool) (rd : Nat → Nat) (link key want : Nat) : Nat → Nat → Nat → Option Nat → Option Nat × Option Nat × Nat
  | 0, h, _, r0 => (r0, some h, 2)
  | n + 1, h, p, r0 =>
    if p = 0 then (r0, some (h + 1), 3)
    else if !inside (p + key) then (some p, none, 4)
    else if rd (p + key) = want then (some p, some (h + 1), 1)
    else if !inside (p + link) then (some p, none, 4)
    else chase inside rd link key want n (h + 1) (rd (p + link)) (some p)

/-- The unit of a pool node performs an operation on an arena (R320): the four results, an open one a free value, and STATUS. -/
def State.nodeAct (s : State) (pa arena asize : Nat) (parm : List Byte) : (List DWord × Nat) × State :=
  let inside (x : Nat) : Bool := decide (x + 8 ≤ asize)
  let head := pa - arena
  let rd (s : State) (x : Nat) : Nat := (s.nodeRead (arena + x)).1
  let wr (s : State) (x v : Nat) : State := s.nodeWrite (arena + x) v
  let free (k : Nat) : DWord := s.freeWord (80000 + k)
  let res (l : List (Option Nat)) : List DWord := (l.zipIdx).map fun (p : Option Nat × Nat) => match p.1 with
    | some v => BitVec.ofNat 64 v
    | none => free p.2
  let a (k : Nat) : Nat := recWord parm 0x10 k
  let b (k : Nat) : Nat := recWord parm 0x30 k
  let n := field parm 1 1
  match field parm 0 1 with
  | 0 =>
    let old := (List.range n).map fun k => rd s (head + 8 * k)
    let same := (List.range n).all fun k => (old[k]?).getD 0 == a k
    let s' := if same then (List.range n).foldl (fun s k => wr s (head + 8 * k) (b k)) s else s
    ((res ((List.range 4).map fun k => old[k]?), if same then 1 else 2), s')
  | 1 =>
    if !inside (head + 8) || !inside (a 0 + a 1) then ((res [none, none, none, none], 4), s)
    else
      let t := rd s (head + 8)
      if t ≠ 0 ∧ ¬inside (t + a 1) then ((res [none, none, none, none], 4), s)
      else
        let s' := wr s (a 0 + a 1) 0
        let s' := if t = 0 then wr s' head (a 0) else wr s' (t + a 1) (a 0)
        ((res [some t, none, none, none], 1), wr s' (head + 8) (a 0))
  | _ =>
    let (r0, r1, st) := chase inside (rd s) (a 0) (a 1) (a 2) n 0 (rd s head) none
    ((res [r0, r1, none, none], st), s)

/-- Where an NMO's ADDR translates to, with the bits that the walk has set in its leaf (R118). -/
def nmoPlace (s : State) (core pasid : Nat) (parm : List Byte) : Xlated × State :=
  s.translate core pasid (BitVec.ofNat 64 (field parm 8 8)) (if field parm 0 1 = 2 then .load else .store)

/-- An NMO's ADDR is translated, which gives its place and its arena, the leaf page (R319); none where it must wait, and a fatal fault after issue gives
code 0x13 (R323). -/
def State.placeNmo (s : State) (r : FabReq) : Option FabReq × State :=
  if r.asize ≠ 0 then (some r, s)
  else
    let unit := match s.group? r.block r.gidx with
      | some g => s.coreOfGroup g
      | none => deviceUnit
    match nmoPlace s unit r.pasid r.parm with
    | (.ok pa _ leaf size, s) =>
      let r := { r with pa := pa, arena := leaf, asize := size }
      (some r, s.onReq r.key fun _ => r)
    | (.host e, s) => (none, s.askHost e)
    | (.fault k _ fw, s) => (none, if answerable k fw && !r.refused.contains (pageOf r.addr) then s else s.fabFail r.key 0x13 r.addr)

/-- NMO_REQUEST (R320): the request of the cue's key; with `yes`, one of another package: port, tag, context, physical address, arena, its size,
then the record. A tag that the node has kept is answered from what it has kept (R311). -/
def execNmoRequest (s : State) : Host.Outcome State Fault Refusal :=
  let q := s.cue
  .next (if q.yes then
      match q.nums with
      | [port, tag, pasid, pa, arena, asize] =>
        let reply (r : List DWord × Nat) (s : State) : State :=
          s.send ⟨2, port, pasid, tag, r.2, 0, r.1.flatMap fun (w : DWord) => natBytes 8 w.toNat, []⟩
        if s.nodeFull (nodeOf pa) port then s
        else
        let s := s.nodeTakes pasid pa port false [4, port, tag, pa, arena, asize] q.bytes
        match s.kept? (nodeOf pa) port tag with
        | some r => reply r s
        | none =>
          let (r, s) := s.nodeAct pa arena asize q.bytes
          reply r (s.keepResult ⟨nodeOf pa, port, tag, r⟩)
      | _ => s
    else match (s.fabReq? q.key : Option FabReq) with
      | none => s
      | some r =>
        if r.kind ≠ FabKind.nmo ∨ r.result.isSome ∨ r.code ≠ 0 then s
        else match s.placeNmo r with
          | (none, s) => s
          | (some r, s) =>
            if s.lostNode r.pa then s.fabFail r.key 0x14 r.addr
            else if s.portWaits (nodeOf r.pa) 1 then s
            else
              let tag := reqTag r.key r.pa
              let (x, s) := (s.nodeTakes r.pasid r.pa s.slot true [4, s.slot, tag, r.pa, r.arena, r.asize] r.parm).nodeAct r.pa r.arena r.asize r.parm
              (s.keepResult ⟨nodeOf r.pa, s.slot, tag, x⟩).onReq r.key fun r => { r with result := some x }).wake

/-- NMO_RESPONSE (R320): RES and STATUS are written in one act, the acquire is made, and the counter falls. -/
def execNmoResponse (s : State) : Host.Outcome State Fault Refusal :=
  .next (match (s.fabReq? s.cue.key : Option FabReq) with
    | none => s
    | some r =>
      if r.kind ≠ FabKind.nmo then s
      else if r.code ≠ 0 then s.endReq r r.code r.codeAt []
      else match r.result with
        | none => s
        | some (res, st) =>
          let place := s.localVia r.slots r.block (BitVec.ofNat 64 (r.win + 0x50)) 40
          let waits := match place with
            | .ok (b, off) => s.localTransit b off || s.segmentWaits b off
            | .error _ => false
          if !r.nores && waits then s
          else
            let s := s.logResponse r.key (nodeOf r.pa) (2 :: st :: res.map fun (w : DWord) => w.toNat) []
            let s := match r.nores, place with
              | false, .ok (b, off) =>
                let s := s.vaultWrite b off ((res ++ [BitVec.ofNat 64 st]).flatMap fun (w : DWord) => natBytes 8 w.toNat)
                [granOf off, granOf off + 1].foldl (fun (s : State) (g : Nat) => (s.poisonVault b g false).fed b g) s
              | _, _ => s
            let s := match r.ord.getLsbD 0, s.group? r.block r.gidx with
              | true, some g => s.acquire (s.coreOfGroup g) r.pasid r.view 6
              | _, _ => s
            s.endReq r 0 0 []).wake

/-- WINDOW 0x05 of an NMO record (R327 check 3). -/
def nmoBad (parm : List Byte) : Bool :=
  let op := field parm 0 1
  let n := field parm 1 1
  let a := field parm 8 8
  decide (2 < op) || (if op = 1 then n != 0 else n == 0 || decide ((if op = 0 then 4 else 16) < n)) || field parm 2 6 != 0 ||
    (op != 0 && field parm 0x30 32 != 0) || field parm 0x78 8 != 0 || (op == 0 && a / 64 != (a + 8 * n - 1) / 64)

/-- What translating an NMO's ADDR leaves (R118, R123). -/
def nmoAsked (s : State) (core pasid : Nat) (parm : List Byte) : State :=
  match nmoPlace s core pasid parm with
  | (.host e, s) => s.askHost e
  | (_, s) => s

/-- The checks of R327 in order. -/
def nmoCheck (c : Cx) (h : Hdr) (nores irrev : Bool) (a : DWord) : Sync :=
  match rangeFault c.s c.g.block a 128 128 with
  | some t => .trap t
  | none =>
    let parm := mxParmBytes c a
    let addr := BitVec.ofNat 64 (field parm 8 8)
    let world := c.s.viewOf c.g
    match localPoison c a 128 with
    | some x => .trap (.precise Cause.dataPoison x 0)
    | none =>
    if nmoBad parm then windowTrap addr 0x05
    else if addr.toNat % 8 ≠ 0 then .trap (.precise Cause.misalign addr 0)
    else match (nmoPlace c.s (c.s.coreOfGroup c.g) (c.s.pasidOf c.g) parm).1 with
      | .ok pa _ _ _ =>
        if c.s.tierOf pa ≠ .pool then windowTrap addr 0x06
        else if world != 0 && !irrev && (!nores || decide (256 ≤ c.s.outboxLen (c.s.pasidOf c.g) world)) then
          .trap (.precise Cause.worldEscape 0 h.word)
        else .go
      | x => syncOf c.g addr (field parm 0 1 != 2) x

/-- An NMO goes out. -/
def State.issueNmo (s : State) (view block gidx : Nat) (flight : Option Nat) (pasid : Nat) (at_ : Nat) (parm : List Byte) (ord : BitVec 2)
    (nores : Bool) : State :=
  let (key, s) := s.fresh
  let r := { FabReq.new key .nmo pasid view block gidx flight with
    slots := s.window block, addr := field parm 8 8, win := at_, parm := parm, ord := ord, nores := nores }
  (({ s with fabric := s.fabric ++ [r] } : State).placeNmo r).2

/-- The checks, the stalls and the effect of what `execNmo` issues. -/
def nmoPlan (f : F64) : Plan :=
  let h := hdr64 0x13 0x03 f
  let nores := f.modBit 0
  let irrev := f.modBit 1
  let ord := f.modHigh
  { ops := fun _ => sregOk f.s1
    uses := [(f.s1, true)]
    mem := true
    acts := true
    reading := fun c => localOpen c (c.ssrc f.s1) 128
    own := fun c => (nmoCheck c h nores irrev (c.ssrc f.s1)).fault
    table := fun c => c.pins irrev
    wait := fun c =>
      c.s.memoryHeld c.g false ||
        (ord.getLsbD 1 && !c.s.releaseUnder c.s.cur c.s.cur.flights (if irrev then 0 else c.s.viewOf c.s.cur) 6) ||
        nmoCheck c h nores irrev (c.ssrc f.s1) == .wait
    ask := fun c s =>
      if nmoCheck c h nores irrev (c.ssrc f.s1) == .wait then
        nmoAsked s (s.coreOfGroup s.cur) (s.pasidOf s.cur) (mxParmBytes c (c.ssrc f.s1)) else s
    eff := fun c s =>
      let view := s.viewOf s.cur
      let pasid := s.pasidOf s.cur
      let core := s.coreOfGroup s.cur
      let parm := mxParmBytes c (c.ssrc f.s1)
      let s := (nmoAsked s core pasid parm).goesOn
      if view != 0 && !irrev then c.launch h .result [] [] 0 (s.outboxAdd (.nmo parm ord))
      else
        let s := if view != 0 then s.pin else s
        let s := if ord.getLsbD 1 then s.release core pasid 0 6 else s
        let key := s.nextKey
        let s := s.issueNmo 0 s.cur.block s.cur.gidx (some (s.nextKey + 1)) pasid (c.ssrc f.s1).toNat parm ord nores
        c.launch h (.fabric key) [] [] 0 s }

/-- NMO (R320, R327). -/
def execNmo (f : F64) (s : State) : Host.Outcome State Fault Refusal :=
  issue (hdr64 0x13 0x03 f) (nmoPlan f) s

/-! ## Combining (R321) -/

/-- An operation of another package on a pool word: the old value goes back and is kept (R311). -/
def State.outsideAtomic (s : State) (port tag pasid pa op : Nat) (wide : Bool) (data expect : DWord) : State :=
  let reply (old : DWord) (s : State) : State := s.send ⟨2, port, pasid, tag, old.toNat, 0, [], []⟩
  match s.kept? (nodeOf pa) port tag with
  | some r => reply (r.1.headD 0) s
  | none =>
    let n := if wide then 8 else 4
    let s := s.podSync pa n
    let old := leNat (s.mem.read pa n)
    let s := match atomNew op wide (BitVec.ofNat 64 old) data expect with
      | some v => { (s.preserve pa) with mem := s.mem.write pa (natBytes n v.toNat) }
      | none => s
    reply (BitVec.ofNat 64 old) (s.keepResult ⟨nodeOf pa, port, tag, ([BitVec.ofNat 64 old], 0)⟩)

/-- A request joins the window of arrival of its address, or opens one (R321). -/
def State.joinWindow (s : State) (pa : Nat) (wide : Bool) (r : AddReq) : State :=
  let fresh (c : Combine) : Bool := c.pa == pa && c.wide == wide && c.reqs.all fun x => decide (s.cycle < x.since + 64)
  if s.combine.any fresh then { s with combine := s.combine.map fun c => if fresh c then { c with reqs := c.reqs ++ [r] } else c }
  else { s with combine := s.combine ++ [⟨pa, wide, [r]⟩] }

/-- An add that a crossbar combines: an integer add at .pod on pool memory. -/
def Access.combines (a : Access) : Bool := a.kind == .atom && !a.loc && a.scope == 6 && a.type == 0

/-- POOL_ATOMIC_REQUEST (R321): the lanes that the cue lists of a group's flight, of the key, or all; with `yes`, a request of another
package: port, tag, context, physical address, OP, width, operand and expected value. Adds join a window of arrival. -/
def execPoolAtomicRequest (s : State) : Host.Outcome State Fault Refusal :=
  let q := s.cue
  .next (if q.yes then
      match q.nums with
      | [port, tag, pasid, pa, op, wide, data, expect] =>
        if s.nodeFull (nodeOf pa) port then s
        else
        let s := s.nodeTakes pasid pa port false [5, port, tag, pa, op, wide, data, expect] []
        if op = 0 then s.joinWindow pa (wide == 1) ⟨port, s.cycle, pasid, 0, tag, BitVec.ofNat 64 pa, BitVec.ofNat 64 data⟩
        else s.outsideAtomic port tag pasid pa op (wide == 1) (BitVec.ofNat 64 data) (BitVec.ofNat 64 expect)
      | _ => s
    else
      let r : FRef := ⟨q.block, q.gidx, q.key⟩
      match s.access? r with
      | none => s
      | some (g, f, a) =>
        let ready (l : LaneAcc) : Bool := l.st == LaneState.todo && (q.nums == [] || q.nums.contains l.lane) && !s.laneHeld g f a l
        let pas : List (Nat × LaneAcc) := (a.lanes.filter ready).filterMap fun (l : LaneAcc) =>
          match (s.translate (s.coreOfGroup g) (s.pasidOf g) l.addr .store).1 with
          | .ok pa _ _ _ => if s.tierOf pa == Tier.pool && !s.lostNode pa && !s.portWaits (nodeOf pa) 1 then some (pa, l) else none
          | _ => none
        if !a.combines || (a.ord.getLsbD 1 && !s.accessesClear g (g.before f.key)) then s.perform r q.nums
        else (pas.map fun (p : Nat × LaneAcc) => p.1).eraseDups.foldl (fun (s : State) (pa : Nat) =>
          let ls := (pas.filter fun (p : Nat × LaneAcc) => p.1 == pa).map fun (p : Nat × LaneAcc) => p.2
          let s := ls.foldl (fun (s : State) (l : LaneAcc) => s.onLane r l.lane fun l => { l with st := .queued }) s
          s.joinWindow pa (a.size == 8) ⟨s.slot, s.cycle, r.block, r.gidx, r.flight, BitVec.ofNat 64 pa,
            ls.foldl (fun (t : DWord) (l : LaneAcc) => t + l.data.setWidth 64) 0⟩) s).wake

/-- One request of a window is performed in its turn. -/
def State.performAdd (pa : Nat) (wide : Bool) (s : State) (r : AddReq) : State :=
  if r.port ≠ s.slot then s.outsideAtomic r.port r.flight r.block pa 0 wide r.total 0
  else
    let ref : FRef := ⟨r.block, r.gidx, r.flight⟩
    match s.access? ref with
    | none => s
    | some (g, _, a) =>
      let mine := (a.lanes.filter fun l => l.st == .queued && (match (s.translate (s.coreOfGroup g) (s.pasidOf g) l.addr .store).1 with
        | .ok p _ _ _ => p == pa
        | _ => true)).map (·.lane)
      let s := mine.foldl (fun (s : State) i => s.onLane ref i fun l => { l with st := .todo }) s
      if mine = [] then s else s.perform ref mine

/-- WINDOW_OF_ARRIVAL_END (R321): the requests of the oldest window at the pool address of the cue's key are performed in order of arrival,
ties by ascending port, which is what one add of the sum with a split reply gives. -/
def execWindowOfArrivalEnd (s : State) : Host.Outcome State Fault Refusal :=
  .next (match s.combine.find? fun (c : Combine) => c.pa == s.cue.key with
    | none => s
    | some c =>
      if (match c.reqs with | r :: _ => decide (s.cycle < r.since + 64) | [] => false) then s
      else
        let rs := c.reqs.mergeSort fun (a b : AddReq) => decide (a.since < b.since) || (a.since == b.since && decide (a.port ≤ b.port))
        rs.foldl (State.performAdd c.pa c.wide) { s with combine := s.combine.filter (· != c) }).wake

/-! ## Collectives (R157, R158, R322) -/

/-- The members of a descriptor in ascending logical package order. -/
def collMembers (d : List Byte) : List Nat := (List.range 128).filter fun p => field d 8 16 / 2 ^ p % 2 == 1

/-- The digest of a descriptor by which the nodes tell members' descriptors apart (R322). -/
def collDigest (d : List Byte) : Nat := (Config.digest d).toNat

/-- Members that send. -/
def collSenders (d : List Byte) : List Nat :=
  let op := field d 0 1
  if op = 3 ∨ op = 4 then [field d 3 1] else collMembers d

/-- The bytes of one element on the wire; packed I4 takes one byte each. -/
def wireSize (t : BitVec 4) : Nat := max 1 (typeBits t / 8)

/-- A stream of this many elements and scales ends here; scales begin at a multiple of 16. -/
def scalesAt (t : BitVec 4) (n : Nat) : Nat := (n * wireSize t + 15) / 16 * 16

/-- A member's own stream: its elements in walk order in the wire type, then its scales unchanged where it has them and nothing is reduced;
and the poisoned granules of the stream. -/
def collStream (it : CopyItem) (c : Contents) : List Byte × List Nat :=
  let wire : BitVec 4 := BitVec.ofNat 4 (field it.coll 2 1)
  let reducing := decide (field it.coll 0 1 ≤ 1)
  let wt : Tensor := { Tensor.zero with type := wire }
  let one (e : Nat) : Nat × Bool :=
    let i := coordsIn it.src.counts e
    let scl := if reducing ∧ it.src.skind ≠ 0 then some (it.src.scaleAt (it.src.unit i)) else none
    let m : Move := .of e [] (it.src.places i) scl
    (m.value wt it.src c, m.bad c)
  let es := (List.range it.src.total).map one
  let ss : List (Nat × Bool) := if reducing ∨ it.src.skind = 0 then []
    else (List.range it.src.units).map fun u => (gather c [it.src.scaleAt u], (c.of (it.src.scaleAt u).loc (it.src.scaleAt u).gran).1)
  let w := wireSize wire
  let body := es.flatMap fun (p : Nat × Bool) => natBytes w p.1
  let pad := if ss = [] then [] else List.replicate (scalesAt wire it.src.total - body.length) 0
  let badE := ((es.zipIdx).filter fun (p : (Nat × Bool) × Nat) => p.1.2).map fun (p : (Nat × Bool) × Nat) => p.2 * w / 16
  let badS := ((ss.zipIdx).filter fun (p : (Nat × Bool) × Nat) => p.1.2).map fun (p : (Nat × Bool) × Nat) =>
    (scalesAt wire it.src.total + 4 * p.2) / 16
  (body ++ pad ++ ss.flatMap (fun (p : Nat × Bool) => natBytes 4 p.1), (badE ++ badS).eraseDups)

/-- The stream of a member as the nodes hold it, none where a chunk is missing. -/
def State.memberStream (s : State) (pasid seq member : Nat) : List Byte × List Nat :=
  let cs := (s.chunks.filter fun c => c.pasid == pasid && c.seq == seq && c.member == member).mergeSort fun a b => decide (a.chunk ≤ b.chunk)
  (cs.flatMap (·.bytes), cs.flatMap fun c => c.bad.map fun g => 256 * c.chunk + g)

/-- The reduction of two wire values (R158). -/
def collReduce (wire : BitVec 4) (red a b : Nat) : Nat :=
  match typeFmt wire with
  | none => 0
  | some f =>
    let x : DWord := BitVec.ofNat 64 a
    let y : DWord := BitVec.ofNat 64 b
    (match red with
      | 0 => (fpAdd f Rnd.plain x y).1
      | 1 => (fpMinMax f Rnd.plain true x y).1
      | _ => (fpMinMax f Rnd.plain false x y).1).toNat % 2 ^ typeBits wire

/-- The member, and the element of its stream, from which this member receives element e of its destination, all shapes being equal (R141); itself for a
reduction, which every member feeds. None where it receives nothing: the element range is cut into one part for each member, in rising order (log 42). -/
def collFrom (it : CopyItem) (me e : Nat) : Option (Nat × Nat) :=
  let d := it.coll
  let ms := collMembers d
  let rank := ms.findIdx (· == me)
  let root := field d 3 1
  let n := it.src.total
  let slice := (n + ms.length - 1) / ms.length
  let part := (ms[e / slice]?).getD 0
  match field d 0 1 with
  | 0 => some (me, e)
  | 1 => if e / slice = rank then some (me, e) else none
  | 2 => some (part, e)
  | 3 => some (root, e)
  | 4 => if e / slice = rank then some (root, e) else none
  | 5 => if me = root then some (part, e) else none
  | _ => let k := rank * slice + e % slice; if k < n then some (part, k) else none

/-- What this member receives as an element: the wire value and its poison. -/
def collElem (it : CopyItem) (streams : List (Nat × List Byte × List Nat)) (p : Nat × Nat) : Nat × Bool :=
  let d := it.coll
  let wire : BitVec 4 := BitVec.ofNat 4 (field d 2 1)
  let w := wireSize wire
  let from_ (m : Nat) : Nat × Bool := match streams.find? fun (x : Nat × List Byte × List Nat) => x.1 == m with
    | some (_, bs, bad) => (field bs (p.2 * w) w, bad.contains (p.2 * w / 16))
    | none => (0, true)
  if 1 < field d 0 1 then from_ p.1
  else match (collMembers d).map from_ with
    | [] => (0, false)
    | x :: xs => xs.foldl (fun (a : Nat × Bool) (y : Nat × Bool) => (collReduce wire (field d 1 1) a.1 y.1, a.2 || y.2)) x

/-- What this member receives, as bytes of an image at address 0: its elements, and for each unit of scales that of the member from which the first of the
unit's elements comes, unchanged (R142); each with its place and its poison. -/
def collParts (it : CopyItem) (me : Nat) (streams : List (Nat × List Byte × List Nat)) : List (Nat × List Byte × Bool) :=
  let w := wireSize (BitVec.ofNat 4 (field it.coll 2 1))
  let at_ := scalesAt (BitVec.ofNat 4 (field it.coll 2 1)) it.src.total
  let es : List (Nat × Nat × Nat) := (List.range it.src.total).filterMap fun e => (collFrom it me e).map fun p => (e, p)
  let unitOf (e : Nat) : Nat := it.src.unit (coordsIn it.src.counts e)
  let scales : List (Nat × List Byte × Bool) :=
    if field it.coll 0 1 ≤ 1 ∨ it.src.skind = 0 then []
    else (List.range it.src.units).filterMap fun u => (es.find? fun (x : Nat × Nat × Nat) => unitOf x.1 == u).map fun (x : Nat × Nat × Nat) =>
      let k := at_ + 4 * unitOf x.2.2
      match streams.find? fun (y : Nat × List Byte × List Nat) => y.1 == x.2.1 with
      | some (_, bs, bad) => (at_ + 4 * u, (bs.drop k).take 4, bad.contains (k / 16))
      | none => (at_ + 4 * u, List.replicate 4 0, true)
  es.map (fun (x : Nat × Nat × Nat) =>
    let v := collElem it streams x.2
    (x.1 * w, natBytes w v.1, v.2)) ++ scales

/-- Parts as the contents of granules. -/
def partsImage (ps : List (Nat × List Byte × Bool)) : Contents :=
  let put (c : Contents) (p : Nat × List Byte × Bool) : Contents :=
    let g := p.1 / 16
    let old := c.of false g
    ((false, g), (old.1 || p.2.2, old.2 + leNat p.2.1 * 2 ^ (8 * (p.1 % 16)))) :: c.filter fun (x : (Bool × Nat) × (Bool × Nat)) => x.1.2 != g
  ps.foldl put []

/-- Parts that adjoin within a granule go together. -/
def joinParts (ps : List (Nat × List Byte × Bool)) : List (Nat × List Byte × Bool) :=
  (ps.foldl (fun (l : List (Nat × List Byte × Bool)) (p : Nat × List Byte × Bool) => match l with
    | q :: t => if q.1 + q.2.1.length = p.1 ∧ p.1 % 16 ≠ 0 then (q.1, q.2.1 ++ p.2.1, q.2.2 || p.2.2) :: t else p :: q :: t
    | [] => [p]) []).reverse

/-- The image as a tensor record, of the destination's counts. -/
def collSource (it : CopyItem) : Tensor :=
  let wire : BitVec 4 := BitVec.ofNat 4 (field it.coll 2 1)
  let w : Int := (wireSize wire : Nat)
  let c := it.dst
  { c with
    base := 0, type := wire, space := 0, plane := false, feset := false, fewait := false, fetake := false
    skind := if field it.coll 0 1 ≤ 1 then 0 else it.src.skind
    strides := [w, w * c.count 0, w * c.count 0 * c.count 1, w * c.count 0 * c.count 1 * c.count 2]
    scale := scalesAt wire c.total, status := 0 }

/-- The moves of a collective's result into the destination: those of the elements that this member receives. -/
def collMoves (it : CopyItem) (me : Nat) : List Move := (copyMoves it.dst (collSource it)).filter fun (m : Move) => (collFrom it me m.elem).isSome

/-- Granules of a collective's destination are written in turn until the item must wait; those of `skip` stay as they are. -/
def State.collWrite (key : Nat) (ms : List Move) (src : Tensor) (c : Contents) (skip : Nat → Bool) : List (Nat × Bool × Nat) → State → State
  | [], s => s
  | p :: l, s =>
    match s.item? key with
    | none => s
    | some it =>
      if skip p.1 then State.collWrite key ms src c skip l s
      else
        let here := ms.filter fun (m : Move) => m.into p.2
        let (bs, mask) := granuleData here it.dst src c p.2.1 p.2.2 it.picks
        match s.itemWrite it ⟨p.1, p.2.1, p.2.2, bs, mask, here.any (·.bad c), [], true⟩ with
        | (true, s) => State.collWrite key ms src c skip l s
        | (false, s) => s

/-- Chunks of a stream. -/
def chunkCount (n : Nat) : Nat := max 1 ((n + 4095) / 4096)

/-- Source granules that a member takes under FETAKE are all Full: it takes them together, since it may hold no more than four that it has not sent
(R146, log 85). -/
def State.collFull (s : State) (it : CopyItem) (ps : List Place) : Bool :=
  !it.src.fetake || ps.all fun p => !p.loc ||
    (match s.localVia it.slots it.blk (BitVec.ofNat 64 (16 * p.gran)) 1 with
      | .ok (b, off) => s.isFull b (granOf off)
      | .error _ => true)

/-- The member's own source goes out in chunks (R322): it is read once, in the wire type. -/
def State.collSend (s : State) (it : CopyItem) (me : Nat) : State :=
  let seq := field it.coll 0x18 8
  let mine := s.chunks.any fun c => c.pasid == it.pasid && c.seq == seq && c.member == me
  if mine || !(collSenders it.coll).contains me then s
  else
    let s := if it.state = 0 then (s.itemState it.key 1).engineAcquire it.unit it.pasid it.rview (max 2 it.src.scope) else s.itemState it.key 1
    let ps := (List.range it.src.total).flatMap (fun e => it.src.places (coordsIn it.src.counts e)) ++ (List.range it.src.units).map it.src.scaleAt
    if !s.collFull it ps then s.itemState it.key 3
    else match State.itemReads it ((ps.map fun p => (it.src.fetake && p.loc, p.loc, p.gran)).eraseDups) [] s with
    | (none, s) => s
    | (some c, s) =>
      let (bs, bad) := collStream it c
      let digest := collDigest it.coll
      let chunks := (List.range (chunkCount bs.length)).map fun k =>
        (⟨it.pasid, seq, k, me, digest, (bs.drop (4096 * k)).take 4096, (bad.filter fun g => g / 256 == k).map (· % 256)⟩ : CollChunk)
      let others := (collMembers it.coll).filter fun m => !s.isOwn it.pasid m
      let kept : State := { s with chunks := s.chunks ++ chunks }.onItem it.key fun i => { i with taken := [] }
      if others = [] then kept
      else if (s.portFrom 0).isNone then s.endItem ((s.item? it.key).getD it) 7
      else if chunks.any fun (c : CollChunk) => s.portWaits ((s.portFrom (c.chunk % 32)).getD 0) 0 then s
      else chunks.foldl (fun (s : State) (c : CollChunk) =>
        s.send ⟨5, (s.portFrom (c.chunk % 32)).getD 0, c.pasid, 0, c.seq, c.chunk, flits [me, digest] c.bytes, c.bad⟩) kept

/-- Chunks of a collective's result are delivered into the window of a member that receives it, chunk k from offset 4096 × k on (R157, R322, log 42): PUT
deliveries, each with its release and vector, that leave TGT alone. A refused or fatal one sets its bit of ERR. True once each has been delivered or has
failed. -/
def State.collDeliver (key : Nat) (w : Window) (ps : List (Nat × List Byte × Bool)) : List Nat → State → Bool × State
  | [], s => (true, s)
  | k :: l, s =>
    match s.item? key with
    | none => (false, s)
    | some it =>
      let win := field it.coll 4 4
      let got (s : State) : State := s.onItem key fun i => { i with got := k :: i.got }
      let err (code : Nat) (s : State) : State := s.onCounts it.pasid win fun x => { x with err := x.err ||| BitVec.ofNat 8 (2 ^ (code - 0x10)) }
      let here := ps.filter fun (p : Nat × List Byte × Bool) => p.1 / 4096 == k
      if it.got.contains k || here.isEmpty then State.collDeliver key w ps l s
      else match w.refuses true 0 ((ps.map fun (p : Nat × List Byte × Bool) => p.1 + p.2.1.length).foldl max 0) with
        | some code => (false, (err code s).endItem it 7)
        | none =>
          if w.host && s.homesStuck then (false, s)
          else match writePieces ⟨false, [], 0, it.pasid, 0, it.refused, w.host⟩ w.base 0 here s with
            | (none, s) => State.collDeliver key w ps l (got ((s.deliverRelease it.pasid w).raiseVector it.pasid w))
            | (some (.fatal 0, _), s) => (false, (err 0x13 s).endItem it 7)
            | (some (.fatal reason, p), s) => State.collDeliver key w ps l (got (err 0x13 (s.itemFault key reason (w.base + p))))
            | (some (_, p), s) => (false, match (s.translate it.unit it.pasid (BitVec.ofNat 64 (w.base + p)) .engineWrite).1 with
              | .fault _ _ _ => s.itemWaits key (w.base + p)
              | _ => s)

/-- Granules of a window from number g on as a member reads its result back, as those of an image at address 0: one that cannot be read is poisoned, and
its fault recorded; none where the member must wait. -/
def State.collBack (key : Nat) (d : Side) (base : Nat) : List Nat → State → Option Contents × State
  | [], s => (some [], s)
  | g :: l, s =>
    let one (x : Bool × Nat) (s : State) : Option Contents × State :=
      match State.collBack key d base l s with
      | (some c, s) => (some (((false, g), x) :: c), s)
      | y => y
    match readPieces d base 0 [(16 * g, 16)] s with
    | (.ok [(_, bs, bad)], s) => one (bad, leNat bs) s
    | (.error (.fatal reason, _), s) => one (true, (s.freeWord (40000 + g % 1024)).toNat) (s.itemFault key reason (base + 16 * g))
    | (_, s) => (none, s)

/-- A collective whose chunks are all there goes on at this member: its result is delivered into the window, and converted from there into the
destination (R158); a member that receives nothing is over. -/
def State.collFinish (s : State) (it : CopyItem) (me : Nat) (streams : List (Nat × List Byte × List Nat)) : State :=
  let done (s : State) (i : CopyItem) : State := if s.itemStuck i then s else s.endItem i (if i.reason = 0 then 4 else 5)
  match joinParts (collParts it me streams) with
  | [] => done s it
  | ps =>
    match s.window? it.pasid (field it.coll 4 4) it.refused with
    | (none, s) => s
    | (some w, s) =>
      let last := (ps.map fun (p : Nat × List Byte × Bool) => p.1 / 4096).foldl max 0
      match State.collDeliver it.key w ps (List.range (last + 1)) (s.itemState it.key 1) with
      | (false, s) => s
      | (true, s) =>
        let it := (s.item? it.key).getD it
        let grans := (ps.map fun (p : Nat × List Byte × Bool) => p.1 / 16).eraseDups
        match State.collBack it.key ⟨false, [], 0, it.pasid, 0, it.refused, w.host⟩ w.base grans s with
        | (none, s) => s
        | (some back, s) =>
          let ms := collMoves it me
          let s := State.collWrite it.key ms (collSource it) back (fun _ => false) (it.left ms) s
          match s.item? it.key with
          | some i => if (i.left ms).isEmpty && i.pend.isNone then done s i else s
          | none => s

/-- Members' descriptors differ: the destination is unpredictable (R158): each granule keeps what it holds or takes what the collective would give as
this member describes it. -/
def State.collSpoil (s : State) (it : CopyItem) (me : Nat) (streams : List (Nat × List Byte × List Nat)) : State :=
  let ms := collMoves it me
  let it := (s.item? it.key).getD it
  State.collWrite it.key ms (collSource it) (partsImage (collParts it me streams)) (fun gi => s.freeBit (90000 + gi)) (it.left ms) s

/-- The collective of an item ends, or goes on, once every sending member's chunks are there (R322); a cancellation by another member ends it, whatever it
waits for (R159). -/
def State.collTurn (s : State) (key : Nat) (missing : Bool) : State :=
  match s.item? key with
  | none => s
  | some it =>
    let seq := field it.coll 0x18 8
    let chunks (s : State) : List CollChunk := s.chunks.filter fun (c : CollChunk) => c.pasid == it.pasid && c.seq == seq
    if it.ended then s
    else if (chunks s).any fun (c : CollChunk) => c.member == 128 then s.endItem it 6
    else if s.behind it || it.waitva != 0 || it.pend.isSome then s
    else
      let me := match s.group? it.blk it.gidx with
        | some g => packageOf g.locid
        | none => 0
      let s := s.collSend it me
      match s.item? key with
      | none => s
      | some it =>
        if it.ended then s
        else
        let wire : BitVec 4 := BitVec.ofNat 4 (field it.coll 2 1)
        let here := chunks s
        let streams := (collSenders it.coll).map fun m => (m, s.memberStream it.pasid seq m)
        let need := if field it.coll 0 1 ≤ 1 ∨ it.src.skind = 0 then it.src.total * wireSize wire else scalesAt wire it.src.total + 4 * it.src.units
        let whole := streams.all fun (x : Nat × List Byte × List Nat) =>
          decide (need ≤ x.2.1.length) && here.any fun (c : CollChunk) => c.member == x.1
        let sent := !(collSenders it.coll).contains me || here.any fun (c : CollChunk) => c.member == me
        if here.any fun (c : CollChunk) => c.digest != collDigest it.coll then
          let s := s.collSpoil it me streams
          s.endItem ((s.item? key).getD it) 7
        else if !whole then (if missing then s.endItem it 7 else if sent then s.itemState key 3 else s)
        else s.collFinish it me streams

/-- COLLECTIVE_CHUNK (R322): the collective of the item of the cue's key goes on, and a number in the cue says that a member will not send;
with `yes`, a chunk of another member: context, sequence number, chunk, member, digest, then its poisoned granules; or a context and a sequence
number alone, which another member has cancelled (R159). -/
def execCollectiveChunk (s : State) : Host.Outcome State Fault Refusal :=
  let q := s.cue
  .next (if q.yes then
      match q.nums with
      | pasid :: seq :: chunk :: member :: digest :: bad =>
        if s.logStops (chunk % 32) then s
        else
          let s := s.logPacket pasid (chunk % 32) (flits ([2, seq, chunk, member, digest] ++ bad) q.bytes)
          ({ s with chunks := s.chunks ++ [(⟨pasid, seq, chunk, member, digest, q.bytes, bad⟩ : CollChunk)] } : State)
      | [pasid, seq] =>
        let s := s.logPacket pasid 0 (flits [6, seq] [])
        ({ s with chunks := s.chunks ++ [(⟨pasid, seq, 0, 128, 0, [], []⟩ : CollChunk)] } : State)
      | _ => s
    else match (s.item? q.key : Option CopyItem) with
      | some it => if it.kind = CopyKind.coll then s.collTurn q.key (q.nums != []) else s
      | none => s).wake

/-! ## Links and the host -/

/-- LINK_REPLAY (R308): a flit comes back over the port of the cue's key. A bad one is sent again, which changes nothing that a program sees; each carries
the other side's stop bit for the request class, which `yes` gives (R309). -/
def execLinkReplay (s : State) : Host.Outcome State Fault Refusal :=
  let p := s.cue.key
  .next ({ s with stops := if s.cue.yes && decide (p < 32) then insertNat p s.stops else s.stops.filter (· != p) } : State).wake

/-- The host reaches bytes of stacked DRAM, or of its own memory (R304). -/
def State.hostReaches (s : State) (pa n : Nat) : Bool := decide (pa + n ≤ 2 ^ 39) || (s.tierOf pa == .host && s.tierOf (pa + n - 1) == .host)

/-- HOST_MEMORY_ACCESS (R304, R328): the host reads n bytes at a physical address, or with `yes` writes the cue's bytes there: in stacked DRAM at the
home slices, and in its own memory past the copies that the home slices hold, which an acquire at .pod drops. -/
def execHostMemoryAccess (s : State) : Host.Outcome State Fault Refusal :=
  let q := s.cue
  .next (match q.yes, q.nums with
    | true, [pa] =>
      if !s.hostReaches pa q.bytes.length then s
      else if 2 ^ 39 ≤ pa then { s with
        mem := s.mem.write pa q.bytes, poison := s.poison.filter fun g => !(coveredGranules [(pa, q.bytes.length)]).contains g }
      else (pieces 16 pa q.bytes.length).foldl (fun (s : State) (p : Nat × Nat) =>
        let s := s.rootWrite 0 p.1 ((q.bytes.drop (p.1 - pa)).take p.2)
        if p.2 = 16 then s.setPoison p.1 false else s) s
    | false, [pa, n] =>
      if !s.hostReaches pa n then s
      else if 2 ^ 39 ≤ pa then s.send ⟨7, 0, 0, 0, pa, n, s.mem.read pa n, []⟩
      else
        let ps := pieces 16 pa n
        s.send ⟨7, 0, 0, 0, pa, n, ps.flatMap fun (p : Nat × Nat) => (s.rootRead 0 p.1 p.2).1,
          (ps.filter fun (p : Nat × Nat) => s.poisonedAt p.1).map fun (p : Nat × Nat) => p.1 / 16 - pa / 16⟩
    | _, _ => s).wake

/-- The decoders in force, where no context is resident (R101). -/
def State.readDecoders (s : State) : State := if s.ctxs = [] then { s with hdm := s.hdmNext } else s

/-- Pairs of a list of numbers. -/
def pairsOf : List Nat → List (Nat × Nat)
  | a :: b :: l => (a, b) :: pairsOf l
  | _ => []

/-- HDM_DECODER_COMMIT (R101): the host's decoders are now the bases and sizes that the cue lists. -/
def execHdmDecoderCommit (s : State) : Host.Outcome State Fault Refusal :=
  .next (({ s with hdmNext := pairsOf s.cue.nums } : State).readDecoders).wake

end Sys2Proof.Machine
end

