-- ==== Sys2Proof/Machine/Place.lean ====
section
/-! DEFINITION. Placement of blocks (R163, R335, R341 to R343, R376, R377), and the ends of blocks and launches (R339, R355, R360, R361,
R386, R397, R422). -/

namespace Sys2Proof.Machine

/-! ## What cores hold -/

/-- What is taken on the cores: group slots (the core, partition × 8 + slot, and register rows), and runs of vault bytes (the core, the first
byte and the length). -/
structure Occ where
  seats : List (Nat × Nat × Nat)
  runs  : List (Nat × Nat × Nat)

/-- Nothing is taken. -/
def Occ.empty : Occ := ⟨[], []⟩

/-- The number under which a segment of a core's vault is quarantined, beside the physical addresses of pages (R467). -/
def vaultPage (core off : Nat) : Nat := 2 ^ 60 + 2 ^ 24 * core + off / 4096 * 4096

/-- What the resident blocks hold, and the quarantined segments; a shadow has a slot and rows of its own (R464). -/
def State.held (s : State) : Occ where
  seats := (s.groups.filter fun g => !g.front && ((s.blockOf g).map (·.resident)).getD false).flatMap fun g =>
    let c := s.coreOfGroup g
    let p := g.locid.toNat % 256
    (c, p, g.alloc) :: if g.shadow then [(c, p / 8 * 8 + g.shSlot, g.alloc)] else []
  runs := (s.blocks.filter fun b => b.resident && b.vault.size != 0).map (fun b => (b.vault.core, b.vault.base, b.vault.size)) ++
    (s.mgmt.quarantine ++ s.mgmt.failed).filterMap fun q =>
      if q < vaultPage 0 0 then none else some ((q - vaultPage 0 0) / 2 ^ 24, (q - vaultPage 0 0) % 2 ^ 24, 4096)

/-- What is not free in this cycle: what is held, and what has been freed in it, which serves placements from the next on (R380). -/
def State.occ (s : State) : Occ :=
  let o := s.held
  if s.freed.1 = s.cycle then ⟨o.seats ++ s.freed.2.1, o.runs ++ s.freed.2.2⟩ else o

/-- What a step has freed is kept for the cycle (R380). -/
def State.noteFreed (old s : State) : State :=
  if old.blocks = [] then s
  else
    let was := old.held
    let now := s.held
    let kept := if s.freed.1 = s.cycle then s.freed.2 else ([], [])
    { s with freed := (s.cycle, kept.1 ++ was.seats.filter (fun x => !now.seats.contains x), kept.2 ++ was.runs.filter fun x => !now.runs.contains x) }

/-- A place for a group on a core: the partition with the fewest groups, the lower number on a tie, and its lowest free slot (R377), with the
next one for a shadow; none where slots or rows run out. Retired partitions take none (R465). -/
def Occ.seat (o : Occ) (retired : List Nat) (core rows : Nat) (shadow : Bool) : Option (Nat × Nat × Occ) :=
  let here := o.seats.filter fun x => x.1 == core
  let n := if shadow then 2 else 1
  let taken (p : Nat) : List Nat := (here.filter fun x => x.2.1 / 8 == p).map fun x => x.2.1 % 8
  let free (p : Nat) : List Nat := (List.range 8).filter fun k => !(taken p).contains k
  if Config.rows < (here.map fun x => x.2.2).sum + n * rows then none
  else match least (((List.range 32).filter fun p => !retired.contains (core * 32 + p)).map fun p => (taken p).length * 32 + p) with
    | none => none
    | some k =>
      let p := k % 32
      match free p, shadow with
      | a :: _, false => some (8 * p + a, 0, { o with seats := (core, 8 * p + a, rows) :: o.seats })
      | a :: b :: _, true => some (8 * p + a, b, { o with seats := (core, 8 * p + a, rows) :: (core, 8 * p + b, rows) :: o.seats })
      | _, _ => none

/-- The lowest free run of a size in a core's vault (R163). -/
def Occ.run (o : Occ) (core size : Nat) : Option Nat :=
  let mine := o.runs.filter fun x => x.1 == core
  if size = 0 then some 0
  else least ((0 :: mine.map fun x => x.2.1 + x.2.2).filter fun b =>
    decide (b + size ≤ Config.vaultBytes) && mine.all fun x => decide (x.2.1 + x.2.2 ≤ b) || decide (b + size ≤ x.2.1))

/-- What a block needs at once: the rows of each group, vault bytes, and whether shadows run beside its groups. -/
structure Need where
  rows   : List Nat
  vault  : Nat
  shadow : Bool

/-- Where a block goes: group 0's core and whether it is spread, as logical IDs; the vault; and each group's logical ID with its shadow's
slot. -/
structure Spot where
  home   : Word
  spread : Bool
  core   : Nat
  base   : Nat
  seats  : List (Word × Nat)

/-- A placement that is tried on: the retired partitions, and the physical core of a logical ID. -/
structure Site where
  retired : List Nat
  phys    : Word → Nat

/-- Core k of the cluster at a logical ID. -/
def coreWord (a : Word) (k : Nat) : Word := a + BitVec.ofNat 32 (256 * k)

/-- Groups are seated on the cores of a list, each on the first that has room. -/
def seatGroups (site : Site) (a : Word) (ks : List Nat) (shadow : Bool) : List Nat → Occ → Option (List (Word × Nat) × Occ)
  | [], o => some ([], o)
  | r :: rs, o =>
    match ks.findSome? fun k => (o.seat site.retired (site.phys (coreWord a k)) r shadow).map fun x => (k, x) with
    | none => none
    | some (k, p, sh, o) => (seatGroups site a ks shadow rs o).map fun x => ((coreWord a k + BitVec.ofNat 32 p, sh) :: x.1, x.2)

/-- A block on cores `ks` of a cluster; group 0's core has room for its allocation (R335). -/
def fitCores (site : Site) (a : Word) (need : Need) (ks : List Nat) (o : Occ) : Option (Spot × Occ) :=
  (ks.findSome? fun k => (o.run (site.phys (coreWord a k)) need.vault).bind fun base =>
    match need.rows with
    | [] => none
    | r :: rs =>
      (o.seat site.retired (site.phys (coreWord a k)) r need.shadow).bind fun x =>
        (seatGroups site a ks need.shadow rs x.2.2).map fun y => (k, base, (coreWord a k + BitVec.ofNat 32 x.1, x.2.1) :: y.1, y.2)).map
  fun (k, base, seats, o) =>
    let core := site.phys (coreWord a k)
    (⟨coreWord a k, ks.length != 1, core, base, seats⟩,
      if need.vault = 0 then o else { o with runs := (core, base, need.vault) :: o.runs })

/-- The places for a block on a cluster, in the order of R377: whole on one core, the lower number first, and last spread (R335) where it may be, on
cores that `ok` allows. -/
def clusterSpots (site : Site) (need : Need) (wide : Bool) (ok : Word → Bool) (o : Occ) (a : Word) : List (Spot × Occ) :=
  ((List.range 4).filter fun k => ok (coreWord a k)).filterMap (fun k => fitCores site a need [k] o) ++
    if wide && (List.range 4).all fun k => ok (coreWord a k) then (fitCores site a need [0, 1, 2, 3] o).toList else []

/-- A block on a cluster: the first of its places. -/
def fitCluster (site : Site) (need : Need) (wide : Bool) (ok : Word → Bool) (o : Occ) (a : Word) : Option (Spot × Occ) :=
  (clusterSpots site need wide ok o a).head?

/-- The instance of a scope that holds a core, as a number (R26). -/
def instanceOf (scope : Nat) (a : Word) : Nat :=
  a.toNat / 2 ^ (match scope with | 0 => 8 | 1 => 8 | 2 => 11 | 3 => 12 | 4 => 14 | _ => 15)

/-- A block to be placed with others: its index, and its sets with their PLACE and STRICT. -/
structure Want where
  lin  : Nat
  need : Need
  sets : List (Nat × Nat × Bool)

/-- The cores that a block's sets allow, given the instances that hold members already; of the sets those that are kept whole. An instance of .grp is
one group, which no two members share. -/
def allowed (keys : List (Nat × Nat)) (firm : List Nat) (w : Want) (a : Word) : Bool :=
  w.sets.all fun (j, scope, _) =>
    !firm.contains j || (match keys.find? fun k => k.1 == j with
      | some k => scope != 0 && instanceOf scope a == k.2
      | none => scope != 0 || w.need.rows.length == 1)

/-- A block may be spread: no set that is kept whole asks for one core. -/
def Want.wide (w : Want) (firm : List Nat) : Bool := w.sets.all fun x => !(firm.contains x.1 && decide (x.2.1 < 2))
/-- The instances of a block's sets once it has a place. -/
def Want.keysAt (w : Want) (keys : List (Nat × Nat)) (p : Spot) : List (Nat × Nat) :=
  keys ++ (w.sets.filter fun x => !(keys.any fun k => k.1 == x.1)).map fun x => (x.1, instanceOf x.2.1 p.home)

/-- One block after the other, each at the first of its places on the clusters in their order (R377); the first block on those from `first` on. -/
def placeSeq (site : Site) (all : List Word) (firm : List Nat) : List Word → List Want → List (Nat × Nat) → Occ → Option (List (Nat × Spot) × Occ)
  | _, [], _, o => some ([], o)
  | first, w :: ws, keys, o =>
    match first.findSome? (fitCluster site w.need (w.wide firm) (allowed keys firm w) o) with
    | none => none
    | some (p, o) => (placeSeq site all firm all ws (w.keysAt keys p) o).map fun r => ((w.lin, p) :: r.1, r.2)

/-- Every way of placing blocks that belong to sets is tried, and then the others are placed one after the other (R341). -/
def placeSearch (site : Site) (all : List Word) (firm : List Nat) : List Want → List (Nat × Nat) → Occ → Option (List (Nat × Spot) × Occ)
  | [], _, o => some ([], o)
  | w :: ws, keys, o =>
    let spots := all.flatMap (clusterSpots site w.need (w.wide firm) (allowed keys firm w) o)
    (if w.sets = [] then spots.take 1 else spots).findSome? fun (p, o) =>
      (placeSearch site all firm ws (w.keysAt keys p) o).map fun r => ((w.lin, p) :: r.1, r.2)

/-- The suffixes of a list. -/
def suffixes {α : Type} : List α → List (List α)
  | [] => []
  | a :: l => (a :: l) :: suffixes l

/-- Blocks placed at once, some sets kept whole: the first goes to the lowest cluster from which the others follow in turn, and where none does, they go
wherever they can. -/
def placeWhole (site : Site) (all : List Word) (ws : List Want) (keys : List (Nat × Nat)) (o : Occ) (firm : List Nat) : Option (List (Nat × Spot) × Occ) :=
  match (suffixes all).findSome? fun cs => placeSeq site all firm cs ws keys o with
  | some x => some x
  | none =>
    if ws.all (·.sets == []) then none
    else placeSearch site all firm (ws.filter (·.sets != []) ++ ws.filter (·.sets == [])) keys o

/-- Blocks that are placed at once or not at all (R341, R343): every set within one instance where it can be; otherwise all but one that is not STRICT,
and at last the STRICT ones alone. -/
def placeUnit (site : Site) (all : List Word) (ws : List Want) (keys : List (Nat × Nat)) (o : Occ) : Option (List (Nat × Spot) × Occ) :=
  let sets := (ws.flatMap (·.sets)).eraseDups
  let js := sets.map (·.1)
  let strict := (sets.filter (·.2.2)).map (·.1)
  let loose := js.filter fun j => !strict.contains j
  (([js] ++ loose.map (fun j => js.filter (· != j)) ++ [strict]).eraseDups).findSome? (placeWhole site all ws keys o)

/-- The logical clusters of a context's placement on this package, ascending (R377). -/
def State.clusters (s : State) (pasid : Nat) : List Word :=
  (clustersOf (((s.ctx? pasid).map (·.shape)).getD 0)).filter fun a => natBits (s.physId pasid a).toNat 15 7 == s.slot

/-- The site of a context. -/
def State.site (s : State) (pasid : Nat) : Site := ⟨s.mgmt.retired, fun a => coreOf (s.physId pasid a)⟩

/-- What a block of a launch needs. -/
def LaunchRec.need (r : LaunchRec) : Need := ⟨List.replicate r.groups r.regs, (r.vault + 4095) / 4096 * 4096, r.flags.getLsbD 1⟩

/-- A block of a launch as one to be placed. -/
def Launch.want (l : Launch) (lin : Nat) : Want :=
  ⟨lin, l.rc.need, (l.setsOf lin).filterMap fun j => (l.sets[j]?).map fun e => (j, e.place, e.strict)⟩

/-- The instances that hold, or have held, members of a launch's sets. -/
def State.setKeys (s : State) (l : Launch) : List (Nat × Nat) :=
  l.keys ++ (s.blocks.filter fun b => b.launch == l.key && b.res != .discarded).flatMap fun b =>
    (l.setsOf b.lin).filterMap fun j => (l.sets[j]?).map fun e => (j, instanceOf e.place b.home)

/-! ## Blocks come -/

/-- An allocation at its place: every byte zero, every granule Empty (R163). -/
def Spot.vault (p : Spot) (size : Nat) : Alloc := { Alloc.empty with core := p.core, base := p.base, size := size }

/-- The age of the next group placed (R379). -/
def State.nextAge (s : State) : Nat := (s.groups.map (·.age)).foldl max 0 + 1

/-- The cores of a spot. -/
def Spot.cores (s : State) (pasid : Nat) (p : Spot) : List Nat := (p.seats.map fun x => coreOf (s.physId pasid x.1)).eraseDups

/-- A block of a launch is placed (R334, R336); its groups start with an acquire at .package. -/
def State.installBlock (s : State) (l : Launch) (lin : Nat) (p : Spot) : State :=
  let (key, s) := s.fresh
  let (x, y, z) := l.rc.coords lin
  let b : Block :=
    { key := key, launch := l.key, pasid := l.pasid, lin := lin, bx := x, byy := y, bz := z, ngroups := l.rc.groups, home := p.home
      spread := p.spread, res := .running, vault := p.vault l.rc.need.vault, issued := 0, wide := false, children := 0, share := none
      bcells := [], xcells := [], view := 0, worldIdx := 0, why := 0 }
  let age := s.nextAge
  let groups := (p.seats.zipIdx).map fun ((locid, sh), i) =>
    { Group.start key i locid l.rc.regs (BitVec.ofNat 57 l.rc.entry) l.rc.args (BitVec.ofNat 64 l.addr) (age + i) with
      shadow := l.rc.flags.getLsbD 1, shSlot := sh }
  let s : State := { s with blocks := s.blocks ++ [b], others := s.others ++ groups }
  let s := (p.cores s l.pasid).foldl (fun (s : State) c => s.acquire c l.pasid 0 5) s
  s.onLaunch l.key fun l =>
    let new := (l.want lin).sets.filter fun (x : Nat × Nat × Bool) => !l.keys.any fun k => k.1 == x.1
    let l := { l with keys := l.keys ++ new.map fun (x : Nat × Nat × Bool) => (x.1, instanceOf x.2.1 p.home) }
    if l.again.contains lin then { l with again := l.again.filter (· != lin) }
    else if lin = l.nextBlk then { l with nextBlk := l.nextBlk + 1, ahead := l.ahead.filter (· != lin) }
    else { l with ahead := insertNat lin l.ahead }

/-- The lowest index from `k` on that is neither withdrawn nor placed ahead, within n steps. -/
def Launch.lowest (l : Launch) : Nat → Nat → Option Nat
  | 0, _ => none
  | n + 1, k => if l.total ≤ k then none else if l.withdrawn.contains k || l.ahead.contains k then l.lowest n (k + 1) else some k

/-- The unplaced block that goes first: a flushed one, otherwise that of lowest index (R376, R397). -/
def Launch.firstUnplaced (l : Launch) : Option Nat :=
  match l.again with
  | k :: _ => some k
  | [] => l.lowest (l.withdrawn.length + l.ahead.length + 1) l.nextBlk

/-- Every unplaced block, flushed ones first. -/
def Launch.unplacedAll (l : Launch) : List Nat := l.again ++ (List.range l.total).filter fun k => l.unplaced k && !l.again.contains k

/-- The blocks that go with one: all of a concurrent launch, those of its GANG sets and of the GANG sets of these, or it alone (R341 to R343). -/
def Launch.gangOf (l : Launch) : Nat → List Nat → List Nat
  | 0, ks => ks
  | n + 1, ks =>
    let js := (ks.flatMap l.setsOf).eraseDups.filter fun j => ((l.sets[j]?).map (·.gang)).getD false
    l.gangOf n ((List.range l.total).filter fun k => ks.contains k || (l.unplaced k && (l.setsOf k).any js.contains))

/-- The unit that goes next. -/
def Launch.unit (l : Launch) : List Nat :=
  if l.rc.cls = 2 then l.unplacedAll
  else match l.firstUnplaced with
    | none => []
    | some k => if l.sets.any (·.gang) then l.gangOf l.sets.length [k] else [k]

/-- A launch is stopped by a pre-emption request, or is ending, or its context does not run yet (R478). -/
def State.launchHeld (s : State) (l : Launch) : Bool :=
  l.torn || (s.ctxs.any fun c => c.pasid == l.pasid && !c.begun) ||
    s.preempts.any fun p => p.pasid == l.pasid && p.block.isNone && (p.queue.isNone || p.queue == l.queue)

/-- The next block of a launch waits for the resources of a GANG set or of concurrency (R376). -/
def Launch.waitsWhole (l : Launch) : Bool :=
  l.rc.cls == 2 || (l.firstUnplaced.any fun k => (l.setsOf k).any fun j => ((l.sets[j]?).map (·.gang)).getD false)

/-- The next unit of the launches in the order of their starting is placed: the first that fits (R376); a launch waits behind an earlier one of
its queue with an unplaced block. -/
def State.placeNext (s : State) : List Launch → List Launch → Option State
  | _, [] => none
  | earlier, l :: ls =>
    let behind := earlier.any fun e => e.pasid == l.pasid && e.queue == l.queue && e.queue.isSome && e.unit != [] && !e.waitsWhole
    let here :=
      if behind || s.launchHeld l || l.unit = [] then none
      else (placeUnit (s.site l.pasid) (s.clusters l.pasid) (l.unit.map l.want) (s.setKeys l) s.occ).map fun r =>
        r.1.foldl (fun (s : State) (x : Nat × Spot) => s.installBlock ((s.launch? l.key).getD l) x.1 x.2) s
    match here with
    | some s => some s
    | none => s.placeNext (earlier ++ [l]) ls

/-! ## Launches end -/

/-- Bytes that the device stores at a virtual address in one granule, released at .pod (log 16). -/
def State.deviceStore (s : State) (pasid va : Nat) (bs : List Byte) : State := s.store ⟨deviceUnit, pasid, 0, none, va, bs, 6, 0⟩

/-- A completion record is written (R339). -/
def State.putCompletion (s : State) (pasid done st reason noworld blocks : Nat) : State :=
  if done = 0 then s else s.deviceStore pasid done (natBytes 8 (st + 2 ^ 16 * reason + 2 ^ 32 * (noworld % 2 ^ 32)) ++ natBytes 8 blocks)

/-- A packet's launch has ended: the packet completes and leaves, or its prologue runs again (R369, R373). -/
def Queue.launchEnded (q : Queue) (key : Nat) : Queue :=
  { q with packets := q.packets.filterMap fun p =>
      if p.launch == some key then (if p.again then some { p with launch := none } else none) else some p }

/-- A launch leaves: its completion record takes a state, its packet and the block that spawned it go on (R339, R360). -/
def State.endLaunchAs (s : State) (l : Launch) (st : Nat) : State :=
  let s := s.putCompletion l.pasid l.rc.done st 0 l.noworld l.completed
  let s : State := { s with
    launches := s.launches.filter (·.key != l.key)
    queues := s.queues.map fun q => q.launchEnded l.key }
  let s := match l.queue with
    | some n => { s with queues := s.queues.map fun q => if q.pasid == l.pasid && q.num == n then { q with owed := q.owed + l.owed } else q }
    | none => s
  match l.parent with
  | some b => s.onBlock b fun b => { b with children := b.children - 1 }
  | none => s

/-- Every launch whose blocks have all completed completes (R339). -/
def State.settleLaunches (s : State) : State :=
  (s.launches.filter fun l => !l.torn && decide (l.total ≤ l.completed)).foldl (fun (s : State) l => s.endLaunchAs l 1) s

/-- Withdrawn blocks that a block fetched are counted when it ends (R361). -/
def State.countFetched (s : State) (block : Nat) : State :=
  { s with launches := s.launches.map fun l =>
      { l with
        completed := l.completed + (l.fetched.filter fun x => x.2 == block).length
        fetched := l.fetched.filter fun x => x.2 != block } }

/-! ## Blocks go -/

/-- Mapped segments of a block return to Invalid (R180). -/
def State.unmapAll (s : State) (block : Nat) : State :=
  (s.segs.filter fun g => g.block == block).foldl (fun (s : State) g =>
    let s := if g.transit && !g.leaving then { s with segs := s.segs.filter (·.pa != g.pa) } else s.unmap g.pa
    s.endTransit g.pa) s

/-- What a block has left behind goes with it. What it has asked the distributor for is served all the same (R361), and is written where the vault of
another block holds the mailbox (R362). -/
def State.forget (s : State) (key : Nat) : State :=
  (({ s with
    blocks := s.blocks.filter (·.key != key)
    mails := s.mails.filter fun m => (m.here || m.by_ != key) && (m.block != key || (m.here && m.bytes == []))
    olog := s.olog.filter (·.block != key)
    mxReqs := s.mxReqs.filter (·.block != key)
    unfenced := s.unfenced.filter fun u => u.block != key && u.home != key
    preempts := s.preempts.filter fun p => p.block != some key
    parked := s.parked.filter (·.block != key) } : State).dropGroups (·.block == key)).mxSweep

/-- The cores of a block: one, or the four of its cluster (R335). -/
def State.coresOf (s : State) (b : Block) : List Nat :=
  (if b.spread then (List.range 4).map (coreWord (b.home &&& ~~~0x300#32)) else [b.home]).map fun a => coreOf (s.physId b.pasid a)

/-- A block completes (R355): its release, its sharing slot, its segments, its matrix allocation and its allocation. `noworld` marks the status
"no world chosen" (R419). -/
def State.completeBlock (s : State) (key : Nat) (noworld : Bool) : State :=
  match s.block? key with
  | none => s
  | some b =>
    let s := (s.coresOf b).foldl (fun (s : State) c => s.release c b.pasid b.view 5) s
    let s := (((s.revoke key).leave key).unmapAll key).dropTiers key
    let s := (s.forget key).countFetched key
    let s := s.onLaunch b.launch fun l =>
      { l with
        completed := l.completed + 1
        noworld := if noworld then l.noworld + 1 else l.noworld
        issuedSum := l.issuedSum + b.issued
        ran := l.ran + 1 }
    s.settleBars.settleLaunches

/-- The engine work of a block is cancelled: copy items report 6, queued matrix entries 3; granted ones complete without effect; its requests
that leave nothing behind are dropped, and the others lose their issuer (R386, R422, R466). -/
def State.cancelWork (s : State) (key : Nat) : State :=
  let s := (s.items.filter fun i => i.block == some key).foldl (fun (s : State) it => match it.kind with
    | .tier k => s.endTier it k 4
    | _ => s.endItem it 6) s
  let s := (s.mxEntries.filter fun e => e.block == key && e.granted.isNone).foldl (fun (s : State) e => s.mxEnd e 3) s
  { s with
    mxEntries := s.mxEntries.map fun e => if e.block == key then { e with void := true } else e
    fabric := (s.fabric.filter fun r => !(r.block == key && r.kind == .get)).map fun r => if r.block == key then { r with flight := none } else r }

/-- Accesses that groups of other blocks have issued to a block's allocation are performed before it goes (step 2 of R171). -/
def State.flushSlot (s : State) (key : Nat) : State :=
  (s.groups.filter fun g => g.block != key).foldl (fun (s : State) g => g.flights.foldl (fun (s : State) f => match f.op with
    | .access a => (a.lanes.filter fun l => a.loc && l.blk == key && l.st == .todo).foldl (fun (s : State) l =>
        State.runLane ⟨g.block, g.gidx, f.key⟩ s l.lane) s
    | _ => s) s) s

/-- A block goes without completing: nothing of it in flight has an effect. Launches that thereby have every block completed complete (R339, R361). -/
def State.dropBlock (s : State) (key : Nat) : State :=
  let shared := ((s.block? key).map (·.share.isSome)).getD false
  let s := (s.cancelWork key).revoke key
  let s := if shared then s.flushSlot key else s
  ((((s.leave key).unmapAll key).forget key).countFetched key).settleLaunches

/-- A group leaves the package when it has completed: its slot and rows are free (R355). -/
def State.dropGroup (s : State) (block gidx : Nat) : State := s.dropGroups (·.is block gidx)

end Sys2Proof.Machine
end

