-- ==== Sys2Proof/Machine/Worlds.lean ====
section
/-! DEFINITION. Forked worlds (chapter 15): views and their tree (R410, R411), discards (R422), commits (R421, R426), decisions (R419, R420,
R423), FORKW and its copies (R412, R418, R429), CHOOSE, WORLD and ABANDON (R427 to R432). -/

namespace Sys2Proof.Machine

/-! ## The tree of views -/

/-- A live view of a context. -/
def State.world? (s : State) (pasid v : Nat) : Option View :=
  s.views.find? fun w => w.pasid == pasid && w.num == v && w.state != .abandoned
/-- Changes one. -/
def State.onWorld (s : State) (pasid v : Nat) (f : View → View) : State :=
  { s with views := s.views.map fun w => if w.pasid == pasid && w.num == v && w.state != .abandoned then f w else w }
/-- A sibling set. -/
def State.sib? (s : State) (k : Nat) : Option SibSet := s.sibs.find? (·.key == k)
/-- Changes one. -/
def State.onSib (s : State) (k : Nat) (f : SibSet → SibSet) : State :=
  { s with sibs := s.sibs.map fun x => if x.key == k then f x else x }
/-- The worlds of a set, abandoned ones among them. -/
def State.siblings (s : State) (k : Nat) : List View := s.views.filter fun w => w.set == k

/-- Views and those below them, so many levels down. -/
def State.below (s : State) (pasid : Nat) : Nat → List Nat → List Nat
  | 0, vs => vs
  | n + 1, vs => s.below pasid n (vs ++ (s.views.filter fun w =>
      w.pasid == pasid && w.state != .abandoned && vs.contains w.parent && !vs.contains w.num).map (·.num))
/-- A view with its descendants: a context has at most four levels of worlds (R410). -/
def State.subtree (s : State) (pasid v : Nat) : List Nat := s.below pasid 4 [v]

/-- A world's subtree holds a pinned one (R425). -/
def State.holdsPin (s : State) (pasid v : Nat) : Bool :=
  (s.subtree pasid v).any fun k => ((s.world? pasid k).map (·.pinned)).getD false

/-- Changes LIVE of a context (R417). -/
def State.countLive (s : State) (pasid : Nat) (f : Nat → Nat) : State :=
  s.onCtx pasid fun c => { c with live := BitVec.ofNat 8 (f c.live.toNat) }

/-! ## Discards: R422 -/

/-- A world and its descendants are discarded: their blocks with their engine work, their lines, slots and outboxes. -/
def State.discard (s : State) (pasid v : Nat) : State :=
  let vs := s.subtree pasid v
  let gone := (s.blocks.filter fun b => b.pasid == pasid && vs.contains b.view).map (·.key)
  let unsent := s.fabric.filter fun r => gone.contains r.block && ((r.kind == .put && r.todo != []) || (r.kind == .nmo && r.result.isNone))
  let s := gone.foldl State.dropBlock s
  let s := (unsent.filter fun r => r.kind == .put).foldl (fun (s : State) r => s.onCounts r.pasid r.win fun c => { c with src := c.src - 1 }) s
  let sets := (s.sibs.filter fun x => x.pasid == pasid && vs.contains x.parent).map (·.key)
  let n := (s.views.filter fun w => w.pasid == pasid && w.state != .abandoned && vs.contains w.num).length
  let mine (p view : Nat) : Bool := p == pasid && vs.contains view
  ({ s with
    fabric := s.fabric.filter fun r => !unsent.any fun u => u.key == r.key
    sibs := s.sibs.filter fun x => !sets.contains x.key
    views := s.views.filter fun w => !(w.state != .abandoned && mine w.pasid w.num) && !sets.contains w.set
    vlines := s.vlines.filter fun l => !mine l.pasid l.view
    owed := s.owed.filter fun o => !mine o.pasid o.view
    l1 := s.l1.filter fun c => !mine c.pasid c.view
    l2 := s.l2.filter fun c => !mine c.pasid c.view } : State).countLive pasid (· - n)

/-! ## Commits: R421 -/

/-- The bytes and the poison of a line of a view enter the root (R421 step 3). -/
def State.lineToRoot (s : State) (l : ViewLine) : State :=
  let on (k : Nat) : Bool := l.mask.getLsbD k
  let s := (l.data.zipIdx).foldl (fun (s : State) (p : Byte × Nat) => if on p.2 then s.rootWrite l.pasid (l.pa + p.2) [p.1] else s) s
  (List.range 8).foldl (fun (s : State) g =>
    let bs := (List.range 16).map fun k => on (16 * g + k)
    if bs.any id && l.bad.getLsbD g then s.setPoison (l.pa + 16 * g) true
    else if bs.all id then s.setPoison (l.pa + 16 * g) false else s) s

/-- A line of a view laid over one of its parent. -/
def ViewLine.over (w p : ViewLine) : ViewLine :=
  { p with
    mask := p.mask ||| w.mask
    data := (p.data.zipIdx).map fun (x : Byte × Nat) => if w.mask.getLsbD x.2 then (w.data[x.2]?).getD x.1 else x.1
    bad := BitVec.ofNat 8 (((List.range 8).filter fun g =>
      let bs := (List.range 16).map fun k => w.mask.getLsbD (16 * g + k)
      (bs.any id && w.bad.getLsbD g) || (!bs.all id && p.bad.getLsbD g)).map (2 ^ ·)).sum }

/-- The line of a view enters its parent view, which takes over the slot where it has none (R421 step 3). -/
def State.lineToParent (s : State) (parent : Nat) (l : ViewLine) : State :=
  let mine (v : Nat) (x : ViewLine) : Bool := x.pasid == l.pasid && x.view == v && x.pa == l.pa
  if s.vlines.any (mine parent) then
    { s with vlines := (s.vlines.filter fun x => !mine l.view x).map fun x => if mine parent x then l.over x else x }
  else { s with vlines := s.vlines.map fun x => if mine l.view x then { x with view := parent } else x }

/-- The lines of a view merge into its parent; clean copies of them in L1s and L2s go, so that the next access finds them merged. -/
def State.mergeLines (s : State) (pasid v parent : Nat) : State :=
  let ls := s.vlines.filter fun l => l.pasid == pasid && l.view == v
  let s := if parent = 0 then ls.foldl State.lineToRoot s else ls.foldl (fun (s : State) l => s.lineToParent parent l) s
  let stale (c : CByte) : Bool :=
    (c.pasid == pasid && c.view == v) || (!c.dirty && (c.pasid == pasid || c.view == 0) && ls.any fun l => l.pa == lineOf c.pa)
  { s with
    vlines := s.vlines.filter fun l => !(l.pasid == pasid && l.view == v)
    l1 := s.l1.filter fun c => !stale c
    l2 := s.l2.filter fun c => !stale c }

/-- Outbox entries are issued in their order, and the source of each PUT is read at that moment (R426). -/
def State.issueOutbox (s : State) (pasid block : Nat) (es : List OutEntry) : State :=
  es.foldl (fun (s : State) e => match e with
    | .put loc src desc off =>
      let key := s.nextKey
      let s := s.issuePut 0 block 0 none pasid loc src desc off
      ((chunksOf off.toNat (desc.toNat / 2 ^ 32)).foldl (State.putChunk key) s).putWhole key
    | .nmo parm ord => s.issueNmo 0 block 0 none pasid 0 parm ord true) s

/-- Every write under a view has been performed: by the groups in it, by engines and by GETs (R306); and every line of it has its place (log 60). -/
def State.viewQuiet (s : State) (pasid v : Nat) : Bool :=
  s.items.all (fun i => !(i.pasid == pasid && i.view == v && !i.kind.isTier)) && s.owed.all (fun o => !(o.pasid == pasid && o.view == v)) &&
    s.fabric.all (fun r => !(r.kind == .get && r.pasid == pasid && r.view == v)) &&
    s.vlines.all (fun l => !(l.pasid == pasid && l.view == v) || decide (l.pa < 2 ^ 52)) &&
  (s.groups.filter fun g => s.pasidOf g == pasid && s.viewOf g == v && s.isResident g.block).all fun g => s.accessesClear g g.flights

/-- A block that has no groups left in any world completes without a block of its own (R419). -/
def State.completeGone (s : State) (launch : Nat) (noworld : Bool) : State :=
  (s.onLaunch launch fun l =>
    { l with completed := l.completed + 1, noworld := if noworld then l.noworld + 1 else l.noworld }).settleBars.settleLaunches

/-- The outbox of a world with that of a child that is merged into it would hold more than 256 entries (R426). -/
def State.outboxOver (s : State) (w : View) : Bool :=
  match s.world? w.pasid w.parent with
  | some p => decide (256 < p.outbox.length + w.outbox.length)
  | none => false

/-- What a view's number stood for in an item, a request or a saved block is its parent's, once it has been merged (R154, R421). -/
def CopyItem.merged (it : CopyItem) (pasid v parent : Nat) : CopyItem :=
  if it.pasid = pasid then { it with view := if it.view = v then parent else it.view, rview := if it.rview = v then parent else it.rview } else it

/-- The winner of a decided set is merged into its parent (R421 steps 2 to 5), once its writes have been performed; `up` settles a set of
the parent that has become Done. A set that settles by an exit or by ABANDON, whose winner's outbox its parent's has no room for, is not merged (DESIGN
CHOICE, log 101). -/
def State.commitWith (up : Nat → State → State) (k : Nat) (s : State) : State :=
  match s.sib? k with
  | none => s
  | some set =>
    match s.world? set.pasid set.view with
    | none => s
    | some w =>
      let p := set.pasid
      if set.merged || set.decision == .openSet || !s.viewQuiet p w.num || s.outboxOver w || s.releaseStuck set.parent 6 then s
      else
        let pin := s.holdsPin p w.num
        let kids := s.subtree p w.num
        let holders := (List.range 128).filter fun c => s.l1.any fun x => x.unit == c && x.pasid == p && x.view == w.num
        let s := holders.foldl (fun (s : State) c => s.release c p 0 5) s
        let s := s.mergeLines p w.num set.parent
        let idx := ((s.world? p set.parent).map (·.index)).getD 0
        let (name, s) := s.fresh
        let here (pasid view : Nat) : Bool := pasid == p && view == w.num
        let s : State :=
          { s with
            aliases := s.aliases ++ [(p, name)]
            sibs := s.sibs.map fun x =>
              if x.key == k then { x with merged := true } else if here x.pasid x.parent then { x with parent := set.parent } else x
            views := (s.views.filter fun x => !(here x.pasid x.num && x.state != .abandoned) && !(x.set == k && x.state == .abandoned)).map fun x =>
              if x.pasid == p && kids.contains (if x.state == .abandoned then x.parent else x.num) then
                { x with depth := x.depth - 1, parent := if x.parent == w.num then set.parent else x.parent }
              else x
            items := s.items.map (·.merged p w.num set.parent)
            parked := s.parked.map fun x => { x with items := x.items.map (·.merged p w.num set.parent) }
            fabric := s.fabric.map fun r => if here r.pasid r.view then { r with view := set.parent } else r
            blocks := s.blocks.map fun b =>
              if here b.pasid b.view then { b with view := set.parent, worldIdx := idx } else b }
        let s := s.countLive p (· - 1)
        if set.parent = 0 then
          let s := (s.issueOutbox p w.block w.outbox).cleanHomes
          if w.state == .done then
            if (s.block? w.block).isSome then s.completeBlock w.block false else s.completeGone set.launch false
          else s
        else
          let s := s.onWorld p set.parent fun x =>
            { x with state := w.state, block := w.block, outbox := x.outbox ++ w.outbox, pinned := x.pinned || pin }
          if w.state == .done then up (((s.world? p set.parent).map (·.set)).getD 0) s else s

/-! ## Decisions: R420, R423 -/

/-- A decision is made for a view of a set, or for none: every other sibling is discarded. Abandoned ones are forgotten with the set's merge. -/
def State.decideSet (s : State) (set : SibSet) (winner : Option View) : State :=
  let v := (winner.map (·.num)).getD 0
  let losers := (s.siblings set.key).filter fun w => w.state != .abandoned && w.num != v
  let s := s.onSib set.key fun x =>
    { x with view := v, decision := match winner with | some w => .winner w.index | none => .noWinner }
  let s := losers.foldl (fun (s : State) w => s.discard set.pasid w.num) s
  if winner.isSome then s
  else { s with views := s.views.filter (fun w => !(w.set == set.key && w.state == .abandoned)), sibs := s.sibs.filter (·.key != set.key) }

/-- The winner of a set that settles, none for no winner (R420). -/
def State.settled (s : State) (set : SibSet) : Option View :=
  let live := (s.siblings set.key).filter (·.state != .abandoned)
  match live.filter fun w => s.holdsPin set.pasid w.num with
  | [w] => some w
  | _ :: _ :: _ => none
  | [] => (live.filter (·.bid.isSome)).foldl (fun (best : Option View) w => match best with
      | none => some w
      | some b =>
        let x := w.bid.getD 0
        let y := b.bid.getD 0
        if y < x ∨ (x = y ∧ w.index < b.index) then some w else best) none

/-- A set settles where every sibling is Abandoned, Done or has bid: its decision is made, by the CHOOSE.bid of `maker` where it is one, and
committed (R420). A parent without a winner is Done (R419). -/
def State.settle : Nat → Nat → Option FRef → State → State
  | 0, _, _, s => s
  | n + 1, k, maker, s =>
    match s.sib? k with
    | none => s
    | some set =>
      if set.decision != .openSet || !(s.siblings k).all (fun w => w.state == .abandoned || w.state == .done || w.bid.isSome) then s
      else
        let s := match maker with
          | some r => s.onFlight r fun f => match f.op with
              | .choose x _ d => { f with op := .choose x true d }
              | _ => f
          | none => s
        match s.settled set with
        | some w => (s.decideSet set (some w)).commitWith (fun j s => State.settle n j none s) k
        | none =>
          let s := s.decideSet set none
          if set.parent = 0 then s.completeGone set.launch true
          else
            let s := s.onWorld set.pasid set.parent fun w => { w with state := .done, block := 0 }
            State.settle n (((s.world? set.pasid set.parent).map (·.set)).getD 0) none s

/-- A decided set is committed where its winner's writes have been performed. -/
def State.tryCommit (s : State) (k : Nat) : State := s.commitWith (fun j s => State.settle 5 j none s) k

/-- The last group of a world's block has exited (R419). -/
def State.worldDone (s : State) (pasid v : Nat) : State :=
  let s := s.onWorld pasid v fun w => { w with state := .done }
  State.settle 5 (((s.world? pasid v).map (·.set)).getD 0) none s

/-! ## CHOOSE, WORLD and ABANDON -/

/-- The innermost world of the executing group (R430). -/
def Cx.world (c : Cx) : Option View :=
  let v := c.s.viewOf c.g
  if v = 0 then none else c.s.world? (c.s.pasidOf c.g) v

/-- WORLD_STATE with its code (R428). -/
def Trap.world (k : Nat) : Trap := .precise Cause.worldState 0 (BitVec.ofNat 64 k)

/-- The set of a world settles with a bid of it, and its winner's outbox is more than its parent's has room for: check 4 of R430 for CHOOSE.bid. -/
def bidFault (c : Cx) (w : View) (x : DWord) : Option Trap :=
  match c.s.sib? w.set with
  | none => none
  | some set =>
    let t := c.s.onWorld w.pasid w.num fun y => { y with bid := some x }
    if set.decision != .openSet || !(t.siblings w.set).all (fun y => y.state == .abandoned || y.state == .done || y.bid.isSome) then none
    else (t.settled set).bind fun y => if t.outboxOver y then some (.world 0x09) else none

/-- The faults of a named CHOOSE, in the order of R430; of the siblings of a decided set it refuses an Abandoned one alone. -/
def chooseFault (c : Cx) (w : View) (x : DWord) : Option Trap :=
  let n := x.toNat
  let named := (c.s.siblings w.set).find? fun y => y.index == n && y.state != .abandoned
  if 8 ≤ n ∨ w.nsib ≤ n then some (.world 0x08)
  else match ((c.s.sib? w.set).map fun x => x.decision : Option Decision) with
    | some .openSet =>
      match named with
      | none => some (.world 0x08)
      | some u =>
        match least (((c.s.siblings w.set).filter fun y =>
            y.state != .abandoned && y.index != n && c.s.holdsPin w.pasid y.num).map (·.index)) with
        | some j => some (.precise Cause.worldPinned 0 (BitVec.ofNat 64 (j + 256 * n)))
        | none =>
          match c.s.world? w.pasid w.parent with
          | some p => if 256 < p.outbox.length + u.outbox.length then some (.world 0x09) else none
          | none => none
    | _ => if (c.s.siblings w.set).any fun y => y.index == n && y.state == .abandoned then some (.world 0x08) else none

/-- The checks, the stalls and the effect of what `execChoose` issues. -/
def choosePlan (f : F64) : Plan :=
  let h := hdr64 0x1B 0x01 f
  let bid := f.modBit 0
  { ops := fun _ => sregOk f.dst && sregOk f.s1
    uses := [(f.s1, true)]
    own := fun c => match c.world with
      | none => some (.world 0x07)
      | some w => if bid then bidFault c w (c.ssrc f.s1) else chooseFault c w (c.ssrc f.s1)
    acts := true
    table := fun _ => true
    eff := fun c s =>
      match c.world.bind fun w => (s.sib? w.set).map fun set => (w, set) with
      | none => s
      | some (w, set) =>
        let d := f.dst.toNat - 0x80
        let x := c.ssrc f.s1
        let ref : FRef := ⟨s.cur.block, s.cur.gidx, s.nextKey⟩
        let isOpen := set.decision == .openSet
        let s := (c.launch h (.choose w.set (isOpen && !bid) d) [] [.sca d] 0 s.setWide).serveTable
        if !isOpen then s
        else if bid then State.settle 5 w.set (some ref) (s.onWorld w.pasid w.num fun y => { y with bid := some x })
        else
          let s := s.decideSet set ((s.siblings w.set).find? fun y => y.index == x.toNat && y.state != .abandoned)
          if s.cur.live then s else s.tryCommit w.set }

/-- CHOOSE (R430): the decision is made when the view table serves it, at its issue; it is committed before CHOOSE completes. -/
def execChoose (f : F64) (s : State) : Host.Outcome State Fault Refusal :=
  issue (hdr64 0x1B 0x01 f) (choosePlan f) s

/-- What remains of a CHOOSE: its set's commit, and its result (R430). -/
def State.finishWorld (s : State) (r : FRef) : FlightOp → State
  | .choose k made dst =>
    let s := s.tryCommit k
    match s.sib? k with
    | none => s
    | some set =>
      match set.merged, set.decision with
      | true, .winner w => s.land r [.sca dst (BitVec.ofNat 64 (w + if made then 0 else 0x100))]
      | _, _ => s
  | _ => s

/-- What WORLD reads: the world's index, its place, or the views left of the context's budget (R431). -/
def worldValue (f : F64) (c : Cx) : DWord :=
  let ctx := c.s.ctxOf c.g
  match f.modLow.toNat with
  | 0 => BitVec.ofNat 64 ((c.world.map (·.index)).getD 0)
  | 1 => match c.world with
    | none => 0
    | some w => BitVec.ofNat 64 (w.index + 2 ^ 4 * w.depth + 2 ^ 8 * w.nsib +
        (if c.s.holdsPin w.pasid w.num then 2 ^ 12 else 0) + 2 ^ 16 * w.num + 2 ^ 24 * w.parent)
  | _ => BitVec.ofNat 64 ((ctx.map fun x => x.budget.toNat - x.live.toNat).getD 0)

/-- The checks and the effect of what `execWorld` issues; a world instruction sets WIDE (R395). -/
def worldPlan (f : F64) : Plan :=
  { ops := fun _ => sregOk f.dst
    acts := true
    eff := fun c s => c.finish (hdr64 0x1B 0x02 f) [.sca (f.dst.toNat - 0x80) (worldValue f c)] 0 s.setWide }

/-- WORLD (R431). -/
def execWorld (f : F64) (s : State) : Host.Outcome State Fault Refusal :=
  issue (hdr64 0x1B 0x02 f) (worldPlan f) s

/-- The checks, the stalls and the effect of what `execAbandon` issues. -/
def abandonPlan : Plan :=
  { acts := true
    table := fun _ => true
    own := fun c => match c.world with
      | none => some (.world 0x07)
      | some w =>
        if c.s.holdsPin w.pasid w.num then some (.precise Cause.worldPinned 0 (BitVec.ofNat 64 w.index)) else none
    wait := fun c => match c.world.bind fun w => c.s.sib? w.set with
      | some set => set.decision != .openSet
      | none => false
    eff := fun c s => match c.world with
      | none => s
      | some w =>
        let s := s.serveTable.discard w.pasid w.num
        let s : State := { s with views := s.views ++
          [{ w with num := 0, state := .abandoned, block := 0, outbox := [], bid := none }] }
        State.settle 5 w.set none s }

/-- ABANDON (R432): the world gives itself up; one that has won waits for its merge. -/
def execAbandon (f : F64) (s : State) : Host.Outcome State Fault Refusal :=
  issue (hdr64 0x1B 0x03 f) abandonPlan s

/-! ## FORKW -/

/-- The codes 0x01 to 0x05 of WORLD_STATE for a block (R428); 0x03 and 0x04 are not checked again (R429). -/
def State.forkCode (s : State) (b : Block) (again : Bool) : Option Nat :=
  let fabric (f : Flight) : Bool := match f.op with | .fabric _ => true | _ => false
  let depth := ((s.world? b.pasid b.view).map (·.depth)).getD 0
  if (s.mxAllocs.any (·.block == b.key)) || s.mxReqs.any (fun r => r.block == b.key && r.image.isSome) || s.mxEntries.any (·.block == b.key) then some 0x01
  else if (s.items.any fun i => i.block == some b.key && !(match i.kind with | .tier _ => true | _ => false)) ||
      s.groups.any (fun g => g.block == b.key && g.flights.any fabric) then some 0x02
  else if !again && 4 ≤ depth then some 0x03
  else if !again && (b.share.isSome || s.segs.any fun g => g.block == b.key) then some 0x04
  else if s.olog.any fun e => e.block == b.key && e.state == .fatal then some 0x05
  else none

/-- What a block needs with the groups' present allocations. -/
def State.needOf (s : State) (b : Block) : Need :=
  let gs := s.groups.filter (·.block == b.key)
  ⟨(List.range b.ngroups).filterMap fun i => (gs.find? (·.gidx == i)).map (·.alloc), b.vault.size, gs.any (·.shadow)⟩

/-- n of a FORKW. -/
def forkCount (c : Cx) (f : F64) : DWord := (if f.s1 = 0xE4 then 0 else c.ssrc f.s1) + f.imm16.setWidth 64

/-- The faults of FORKW, in the order of R429. -/
def forkFault (c : Cx) (h : Hdr) (f : F64) : Option Trap :=
  let n := forkCount c f
  match c.s.blockOf c.g, c.s.ctxOf c.g with
  | some b, some x =>
    if n < 2 ∨ 8 < n then some (.precise Cause.illegalOperand 0 h.word)
    else match c.s.forkCode b false with
      | some k => some (.world k)
      | none =>
        let free : Int := (x.budget.toNat : Int) - (x.live.toNat : Int)
        if free < (n.toNat : Int) then
          some (.precise Cause.viewExhaust 0 (BitVec.ofNat 64 (n.toNat + 256 * (free % 256).toNat)))
        else
          let want : Want := ⟨0, c.s.needOf b, []⟩
          let all := c.s.clusters b.pasid
          if (placeSeq (c.s.site b.pasid) all [] all (List.replicate n.toNat want) [] Occ.empty).isNone then some (.world 0x06) else none
  | _, _ => none

/-- The checks, the stalls and the effect of what `execForkw` issues. -/
def forkwPlan (f : F64) : Plan :=
  let h := hdr64 0x1B 0x00 f
  { ops := fun _ => sregOk f.dst && (sregOk f.s1 || f.s1 == 0xE4)
    uses := [(f.s1, true)]
    acts := true
    own := fun c => forkFault c h f
    eff := fun c s =>
      { s.setWide with cur := { s.setWide.cur with hold := .fork (forkCount c f).toNat (f.dst.toNat - 0x80) } } }

/-- FORKW (R429): the group waits for the copies. -/
def execForkw (f : F64) (s : State) : Host.Outcome State Fault Refusal :=
  issue (hdr64 0x1B 0x00 f) (forkwPlan f) s

/-- A flight holds a fork back no longer: engine and fabric work is refused (R428), and waiting full-empty accesses and WCNTs are withdrawn
(R429 step 2). -/
def Flight.rests (f : Flight) : Bool :=
  match f.op with
  | .access a => a.lanes.any (fun l => l.st != .done && l.st != .failed) && a.lanes.all fun l => l.st != .todo
  | .wcnt _ _ _ _ => true
  | .copy _ => true
  | .mxentry _ => true
  | .fabric _ => true
  | _ => false

/-- Every group of a block has stopped and what it has issued has completed (R429 steps 1 and 2). -/
def State.forkReady (s : State) (key : Nat) : Bool :=
  ((s.groups.filter (·.block == key)).all fun g =>
    g.run.pos == 0 && g.flights.all Flight.rests && (match g.hold with | .fence _ _ _ _ => false | .spawn => false | _ => true)) &&
  s.olog.all fun e => e.block != key || e.state == .fatal

/-- The run that issued last goes back to the instruction that it issued, which runs again. -/
def Group.rewind (g : Group) : Group :=
  { g.setPcs (fun _ => g.lastPc) (fun i => g.depths.get i) g.lastRun with hold := .free }

/-- A group of a copy: the forking group's FORKW has completed, and another's runs again (R429 step 5). -/
def Group.afterFork (g : Group) (forker dst idx : Nat) : Group :=
  match g.hold with
  | .fork _ _ => if g.gidx = forker then { g.writeReg (.sca dst (BitVec.ofNat 64 idx)) with hold := .free } else g.rewind
  | _ => g

/-- A group of the original as a copy's, at its place (R412). -/
def Group.copyTo (g : Group) (old new : Nat) (seat : Word × Nat) (age : Nat) : Group :=
  { g with
    block := new
    locid := seat.1
    shSlot := seat.2
    age := age
    unpres := Vector.replicate 2 0
    flights := g.flights.map fun f => match f.op with
      | .access a => { f with op := .access { a with lanes := a.lanes.map fun l => if l.blk == old then { l with blk := new } else l } }
      | _ => f }

/-- The waiting requests of an allocation as its copy has them: those of the block's own lanes. -/
def Alloc.copyTo (a : Alloc) (old new : Nat) (p : Spot) : Alloc :=
  { a with
    core := p.core
    base := p.base
    unpres0 := []
    unpres1 := []
    waiters := a.waiters.filterMap fun w => match w.2 with
      | .lane b g f l q => if b = old then some (w.1, .lane new g f l q) else none
      | _ => none }

/-- Copy i of a fork at its place, under its view (R410 to R412). -/
def State.addCopy (b : Block) (gs : List Group) (forker dst : Nat) (s : State) (x : Spot × Nat × Nat) : State :=
  let (p, i, v) := x
  let (key, s) := s.fresh
  let age := s.nextAge
  let nb : Block :=
    { b with key := key, home := p.home, spread := p.spread, vault := b.vault.copyTo b.key key p, view := v, worldIdx := i, issued := 0
             children := 0, wide := true }
  let ngs := (gs.zip p.seats).map fun (y : Group × (Word × Nat)) => (y.1.copyTo b.key key y.2 (age + y.1.gidx)).afterFork forker dst i
  let s : State := { s with blocks := s.blocks ++ [nb], others := s.others ++ ngs }
  let s := (p.cores s b.pasid).foldl (fun (s : State) c => s.acquire c b.pasid 0 5) s
  { s with views := s.views.map fun w => if w.pasid == b.pasid && w.num == v && w.state != .abandoned then { w with block := key } else w }

/-- The lowest free view numbers of a context (R411). -/
def State.freeViews (s : State) (pasid n : Nat) : List Nat :=
  ((List.range 256).filter fun v => v != 0 && (s.world? pasid v).isNone).take n

/-- The fork of a block by one of its groups (R429 steps 4 and 5), the copies 1 to n − 1 at their places: the view table registers the set,
and copy 0 goes on under the first view. What the block has written before is performed at .package, so that every copy reads it. -/
def State.fork (s : State) (b : Block) (forker n dst : Nat) (spots : List Spot) : State :=
  let gs := s.groups.filter (·.block == b.key) |>.mergeSort fun x y => decide (x.gidx ≤ y.gidx)
  let cores := (gs.map s.coreOfGroup).eraseDups
  let s := cores.foldl (fun (s : State) c => s.release c b.pasid b.view 5) s
  let (k, s) := s.fresh
  let vs := s.freeViews b.pasid n
  let depth := ((s.world? b.pasid b.view).map (·.depth)).getD 0
  let s := s.onWorld b.pasid b.view fun w => { w with state := .forked, block := 0 }
  let s : State := { s with
    sibs := s.sibs ++ [⟨k, b.pasid, b.launch, b.view, n, .openSet, 0, false, b.lin⟩]
    views := s.views ++ (vs.zipIdx).map fun (x : Nat × Nat) =>
      (⟨b.pasid, x.1, b.view, k, .running, depth + 1, x.2, n, false, none, if x.2 = 0 then b.key else 0, []⟩ : View) }
  let s := s.countLive b.pasid (· + n)
  let s := ((spots.zipIdx).map fun (x : Spot × Nat) => (x.1, x.2 + 1, (vs[x.2 + 1]?).getD 0)).foldl (State.addCopy b gs forker dst) s
  let s := s.onBlock b.key fun x => { x with view := (vs[0]?).getD 0, worldIdx := 0 }
  s.mapGroups (·.block == b.key) (·.afterFork forker dst 0)

/-- FORKW_COPY_PLACEMENT (R418, R429) of the cue's block and group: once the block has stopped, the checks are made again, and the fork takes
place where there are tags and room for the copies. -/
def execForkwCopyPlacement (s : State) : Host.Outcome State Fault Refusal :=
  .next (match (s.block? s.cue.block : Option Block), (s.group? s.cue.block s.cue.gidx : Option Group) with
    | some b, some g =>
      match g.hold with
      | .fork n dst =>
        if !s.forkReady b.key || s.tableBusy g s.cycle then s
        else match s.forkCode b true with
          | some k =>
            let depth := (((lanesOf g.lastRun).head?).map fun i => g.depths.get i).getD 0
            (s.choose b.key g.gidx).takeTrap (.world k) ⟨g.lastRun, g.lastPc, depth⟩ s.cycle
          | none =>
            let live := (s.views.filter fun (w : View) => w.state != WorldState.abandoned).length
            let want : Want :=
              { lin := b.lin, need := s.needOf b, sets := ((s.launch? b.launch).map fun (l : Launch) => (l.want b.lin).sets).getD [] }
            let keys := ((s.launch? b.launch).map s.setKeys).getD []
            match (placeUnit (s.site b.pasid) (s.clusters b.pasid) (List.replicate (n - 1) want) keys s.occ : Option (List (Nat × Spot) × Occ)) with
            | some (ps, _) => if live + s.aliases.length + n ≤ 255 then
                { s.fork b g.gidx n dst (ps.map fun (p : Nat × Spot) => p.2) with tabled := (s.cycle, b.pasid, g.locid.toNat) } else s
            | none => s
      | _ => s
    | _, _ => s).wake

/-- VIEW_RETAG (R418): the L2 slices have retagged the lines of the alias of the cue's key, whose tag is free again; with the key of a decided
set, its winner is merged. -/
def execViewRetag (s : State) : Host.Outcome State Fault Refusal :=
  .next (({ s with aliases := s.aliases.filter fun a => a.2 != s.cue.key } : State).tryCommit s.cue.key).wake

end Sys2Proof.Machine
end

