-- ==== Sys2Proof/Machine/Queues.lean ====
section
/-! DEFINITION. Launch records and their checks (R337 to R343), SPAWN's submission (R359, R360), FETCHW (R361 to R363), queues and packets
(R366 to R371), prologues (R372, R373) and the arbiter (R374, R375). -/

namespace Sys2Proof.Machine

/-! ## What the dispatcher and the scanner read -/

/-- The answer to a read by a unit of the device: bytes, a wait for system software or the host, or a fatal fault. -/
inductive Answer where
  | bytes (bs : List Byte)
  | wait
  | lost
  deriving DecidableEq, Repr

/-- Bytes that the device reads at a virtual address under a view, eight at a time; `yes` where system software has answered fatal. -/
def State.deviceReadIn (s : State) (pasid view va n : Nat) (yes : Bool) : Answer × State :=
  match readVirt deviceUnit pasid .engineRead (fun s pa _ =>
      let (bs, s') := s.rootRead pasid pa 8
      (s', if s.unreachable pa 8 false then .error (.fault 0x0C 0 false)
        else if s.readsPoison deviceUnit pasid view pa 8 then .error (.fault 0x0B 0 false) else .ok (s.overView pasid view pa bs))) 8 (n / 8)
      (BitVec.ofNat 64 va) s with
  | (.ok bs, s) => (.bytes bs, s)
  | (.error (.host e), s) => (.wait, s.askHost e)
  | (.error (.fault r _ fw), s) => (if answerable r fw && !yes then .wait else .lost, s)
  | (.error _, s) => (.lost, s)

/-- The same in the root view. -/
def State.deviceRead (s : State) (pasid va n : Nat) (yes : Bool) : Answer × State := s.deviceReadIn pasid 0 va n yes

/-- An acquire at .pod of a unit without caches: clean home copies go (R176). -/
def State.podAcquire (s : State) : State := { s with homes := s.homes.filter (·.dirty) }

/-! ## Launch records -/

/-- A launch record (R337). -/
def LaunchRec.parse (bs : List Byte) : LaunchRec where
  entry := field bs 0 8
  launchId := field bs 8 4
  groups := field bs 0xC 2
  regs := field bs 0xE 1
  sregs := field bs 0xF 1
  vault := field bs 0x10 4
  gridx := field bs 0x14 4
  gridy := field bs 0x18 4
  gridz := field bs 0x1C 4
  cls := field bs 0x20 1
  lbars := BitVec.ofNat 8 (field bs 0x21 1)
  mxpri := field bs 0x22 1
  flags := BitVec.ofNat 8 (field bs 0x23 1)
  drain := field bs 0x24 4
  args := BitVec.ofNat 64 (field bs 0x28 8)
  done := field bs 0x30 8
  setsVa := field bs 0x38 8
  nsets := field bs 0x40 2

/-- REASON 0x01: a field out of its range, a reserved bit, or a misaligned address. -/
def LaunchRec.bad (r : LaunchRec) (bs : List Byte) : Bool :=
  let grid := r.gridx * r.gridy * r.gridz
  r.entry % 2 != 0 || r.groups == 0 || decide (96 < r.groups) || r.regs % 4 != 0 || decide (r.regs < 4) || decide (128 < r.regs) ||
    r.sregs == 0 || decide (96 < r.sregs) || decide (Config.vaultBytes < r.vault) || grid == 0 || decide (2 ^ 32 ≤ grid) ||
    decide (2 < r.cls) || decide (15 < r.lbars.toNat) || decide (3 < r.mxpri) || decide (7 < r.flags.toNat) || r.done % 16 != 0 ||
    r.setsVa % 32 != 0 || decide (256 < r.nsets) || field bs 0x42 62 != 0

/-- Blocks of a grid. -/
def LaunchRec.total (r : LaunchRec) : Nat := r.gridx * r.gridy * r.gridz

/-- A set entry, with the bytes of its bitmap where it has one (R340). -/
def SetEntry.parse (bs bitmap : List Byte) (total : Nat) : SetEntry where
  kind := field bs 0 1
  place := field bs 1 1
  gang := field bs 2 1 % 2 == 1
  strict := field bs 2 1 / 2 % 2 == 1
  lo := [field bs 4 4, field bs 8 4, field bs 0xC 4]
  hi := [field bs 0x10 4, field bs 0x14 4, field bs 0x18 4]
  bits := if field bs 0 1 = 1 then (List.range total).filter fun k => field bitmap (k / 8) 1 / 2 ^ (k % 8) % 2 == 1 else []
  inTable := false

/-- An entry is ill-formed (R340). -/
def SetEntry.bad (e : SetEntry) (bs : List Byte) (r : LaunchRec) : Bool :=
  decide (1 < e.kind) || decide (5 < e.place) || decide (3 < field bs 2 1) || field bs 3 1 != 0 || field bs 0x1C 4 != 0 ||
    (if e.kind = 0 then
      (List.range 3).any fun k =>
        let hi := (e.hi[k]?).getD 0
        decide (hi ≤ (e.lo[k]?).getD 0) || decide (([r.gridx, r.gridy, r.gridz][k]?).getD 0 < hi)
    else field bs 4 12 != 0 || field bs 0x18 4 != 0 || e.bits == [])

/-- An entry whose bitmap could not be read: what its header says counts, and it has no member (R338). -/
def SetEntry.headBad (e : SetEntry) (bs : List Byte) (r : LaunchRec) : Bool := ({ e with bits := [0] } : SetEntry).bad bs r

/-- The set list of a launch: its entries, with whether each is ill-formed, and whether one of them or its bitmap could not be read. -/
inductive SetList where
  | list (es : List (SetEntry × Bool)) (lost : Bool)
  | wait

/-- An entry that could not be read: a box of no blocks. -/
def SetEntry.lost : SetEntry := ⟨0, 0, false, false, [0, 0, 0], [0, 0, 0], [], false⟩

/-- Reads entries of a set list and their bitmaps under a view. -/
def State.readSets (pasid view : Nat) (r : LaunchRec) (yes : Bool) : List Nat → State → SetList × State
  | [], s => (.list [] false, s)
  | j :: js, s =>
    let more (e : SetEntry) (bad gone : Bool) (s : State) : SetList × State :=
      match State.readSets pasid view r yes js s with
      | (.list es lost, s) => (.list ((e, bad) :: es) (lost || gone), s)
      | x => x
    match s.deviceReadIn pasid view (r.setsVa + 32 * j) 32 yes with
    | (.wait, s) => (.wait, s)
    | (.lost, s) => more .lost false true s
    | (.bytes bs, s) =>
      let n := (r.total + 63) / 64 * 8
      match (if field bs 0 1 = 1 then s.deviceReadIn pasid view (field bs 0x10 8) n yes else (.bytes [], s) : Answer × State) with
      | (.wait, s) => (.wait, s)
      | (.lost, s) =>
        let e := SetEntry.parse bs [] r.total
        more e (e.headBad bs r) true s
      | (.bytes map, s) =>
        let e := SetEntry.parse bs map r.total
        more e (e.bad bs r) false s

/-! ## Acceptance: R338, R342, R343, R349 -/

/-- A launch as it would be accepted, without cells and set-table entries. -/
def Launch.of (key pasid addr : Nat) (r : LaunchRec) (sets : List SetEntry) (nest : Nat) (parent queue : Option Nat) : Launch where
  key := key
  pasid := pasid
  addr := addr
  rc := r
  sets := sets
  lcells := []
  nest := nest
  parent := parent
  queue := queue
  nextBlk := 0
  ahead := []
  again := []
  withdrawn := []
  fetched := []
  completed := 0
  noworld := 0
  contribs := []
  keys := []
  issuedSum := 0
  ran := 0
  owed := 0
  torn := false

/-- Members of STRICT sets can be placed in turn on the empty placement, each within the instances of those before it (R341). -/
def strictSearch (site : Site) (all : List Word) (firm : List Nat) : List Want → List (Nat × Nat) → Bool
  | [], _ => true
  | w :: ws, keys =>
    let spots := all.flatMap (clusterSpots site w.need (w.wide firm) (allowed keys firm w) Occ.empty)
    let known := w.sets.all fun x => !firm.contains x.1 || keys.any fun k => k.1 == x.1
    (if known then spots.take 1 else spots).any fun p => strictSearch site all firm ws (w.keysAt keys p.1)

/-- REASON 0x05: the empty placement cannot hold at once what the class and the GANG sets ask for, or the members of STRICT sets in turn. -/
def State.cannotHonour (s : State) (l : Launch) : Bool :=
  let all := s.clusters l.pasid
  let fits (ks : List Nat) : Bool := (placeUnit (s.site l.pasid) all (ks.map l.want) [] Occ.empty).isSome
  let units := (l.sets.zipIdx).filterMap fun (x : SetEntry × Nat) =>
    if x.1.gang then some (l.gangOf l.sets.length ((List.range l.total).filter fun k => (l.setsOf k).contains x.2)) else none
  let strict := ((l.sets.zipIdx).filter fun (x : SetEntry × Nat) => x.1.strict).map fun (x : SetEntry × Nat) => x.2
  let members := (List.range l.total).filter fun k => (l.setsOf k).any strict.contains
  (l.rc.cls == 2 && !fits (List.range l.total)) || units.any (fun ks => !fits ks) ||
    !strictSearch (s.site l.pasid) all strict (members.map l.want) []

/-- The first condition of R338 that a record meets, with the entries of its set list that have been read, and whether one could not be. -/
def State.refusal (s : State) (l : Launch) (bs : List Byte) (sets : List (SetEntry × Bool)) (lost : Bool) : Option Nat :=
  let rights := ((s.ctx? l.pasid).map (·.rights)).getD 0
  let all := s.clusters l.pasid
  if l.rc.bad bs then some 0x01
  else if s.launches.any fun x => x.pasid == l.pasid && x.rc.launchId == l.rc.launchId then some 0x02
  else if sets.any (·.2) || (List.range l.total).any (fun k => decide (4 < (l.setsOf k).length)) then some 0x03
  else if (all.findSome? (fitCluster (s.site l.pasid) l.rc.need true (fun _ => true) Occ.empty)).isNone then some 0x04
  else if s.cannotHonour l then some 0x05
  else if (l.rc.flags.getLsbD 2 && !rights.getLsbD 0) || (l.rc.flags.getLsbD 1 && decide (48 < l.rc.groups)) then some 0x06
  else if 8 < l.nest then some 0x07
  else if lost then some 0x08
  else none

/-- A set of a launch still has a member (R363). -/
def State.setLive (s : State) (l : Launch) (j : Nat) : Bool :=
  (List.range l.total).any fun k => (l.setsOf k).contains j && (l.unplaced k || s.blocks.any fun b => b.launch == l.key && b.lin == k)

/-- Set-table entries and launch-barrier cells in use (R349). -/
def State.tableUsed (s : State) : Nat :=
  (s.launches.map fun l => ((l.sets.zipIdx).filter fun (x : SetEntry × Nat) => x.1.inTable && s.setLive l x.2).length).sum
def State.lcellsUsed (s : State) : Nat := (s.launches.map fun l => l.lcells.length).sum

/-- A launch starts with the cells and the set-table entries that are free (R349). -/
def State.enter (s : State) (l : Launch) : State :=
  let room := Config.setEntries - s.tableUsed
  let cells := Config.launchCells - s.lcellsUsed
  { s with launches := s.launches ++ [{ l with
      sets := (l.sets.zipIdx).map fun (x : SetEntry × Nat) => { x.1 with inTable := decide (x.2 < room) }
      lcells := ((List.range 4).filter fun b => l.rc.lbars.getLsbD b).take cells }] }

/-- What becomes of a record: it waits for a translation, it is rejected, or it is a live launch. -/
inductive Verdict where
  | wait
  | rejected
  | accepted (key : Nat)
  deriving DecidableEq, Repr

/-- A launch record is checked, its set list read under a view, and accepted or rejected (R338); a rejected one has its completion record written (R339). -/
def State.accept (s : State) (pasid addr : Nat) (bs : List Byte) (nest view : Nat) (parent queue : Option Nat) (yes : Bool) : Verdict × State :=
  let r := LaunchRec.parse bs
  let finish (sets : List (SetEntry × Bool)) (lost : Bool) (s : State) : Verdict × State :=
    let (key, s) := s.fresh
    let l := Launch.of key pasid addr r (sets.map (·.1)) nest parent queue
    match s.refusal l bs sets lost with
    | some code => (.rejected, s.putCompletion pasid r.done 2 code 0 0)
    | none => (.accepted key, s.enter l)
  if r.bad bs then finish [] false s
  else match State.readSets pasid view r yes (List.range r.nsets) s with
    | (.wait, s) => (.wait, s)
    | (.list es lost, s) => finish es lost s

/-! ## SPAWN -/

/-- The faults of SPAWN from its records on, or a wait: each record is read by the core, and its set list must not wait for system software. -/
def spawnSync (c : Cx) (a : DWord) (n : Nat) : Sync :=
  let recs := (List.range n).map fun i => a + BitVec.ofNat 64 (128 * i)
  match recordsSync c (recs.map fun r => (r, 128)) with
  | .go =>
    let waits := recs.any fun r =>
      let rc := LaunchRec.parse (c.record r 128)
      !rc.bad (c.record r 128) && (match (State.readSets (c.s.pasidOf c.g) (c.s.viewOf c.g) rc c.g.refused (List.range rc.nsets) c.s).1 with
        | .wait => true
        | _ => false)
    if waits then .wait else .go
  | x => x

/-- The checks, the stalls and the effect of what `execSpawn` issues. -/
def spawnPlan (f : F64) : Plan :=
  let h := hdr64 0x19 0x04 f
  let irrev := f.modBit 0
  { ops := fun _ => sregOk f.dst && sregOk f.s1 && sregOk f.s2
    uses := [(f.s1, true), (f.s2, true)]
    mem := true
    acts := true
    table := fun c => c.pins irrev
    reading := fun c => c.s.storesTo c.g [(c.ssrc f.s1, 128 * min 16 (c.ssrc f.s2).toNat)]
    ask := fun c s => readRecords ((List.range (min 16 (c.ssrc f.s2).toNat)).map fun i => (c.ssrc f.s1 + BitVec.ofNat 64 (128 * i), 128)) s
    own := fun c =>
      let n := c.ssrc f.s2
      let a := c.ssrc f.s1
      if n = 0 ∨ 16 < n then some (.precise Cause.illegalOperand 0 h.word)
      else if a.toNat % 128 ≠ 0 then some (.precise Cause.misalign a 0)
      else match spawnSync c a n.toNat with
        | .trap t => some t
        | .wait => none
        | .go => escape c h irrev
    wait := fun c =>
      c.s.memoryHeld c.g true || c.s.releaseWaits 5 || spawnSync c (c.ssrc f.s1) (c.ssrc f.s2).toNat == .wait ||
        decide (Config.liveLaunches < (c.s.launches.filter fun l => l.pasid == c.s.pasidOf c.g).length + (c.ssrc f.s2).toNat)
    eff := fun c s =>
      let a := c.ssrc f.s1
      let recs := (List.range (c.ssrc f.s2).toNat).map fun i => a + BitVec.ofNat 64 (128 * i)
      let yes := s.cur.refused
      let s := s.goesOn
      let pasid := s.pasidOf s.cur
      let parent := s.launchOf s.cur
      let nest := ((parent.map (·.nest)).getD 0) + 1
      let s := readRecords (recs.map fun r => (r, 128)) s
      let s := (if irrev then s.pin else s).release (s.coreOfGroup s.cur) pasid (s.viewOf s.cur) 5
      let (bits, s) := (recs.zipIdx).foldl (fun (x : Nat × State) (r : DWord × Nat) =>
        match x.2.accept pasid r.1.toNat (c.record r.1 128) nest (s.viewOf s.cur) (some s.cur.block) (parent.bind (·.queue)) yes with
        | (.accepted _, s) => (x.1 + 2 ^ r.2, s)
        | (_, s) => (x.1, s)) (0, s)
      let s : State := { s with cur := s.cur.writeNow (.sca (f.dst.toNat - 0x80) (BitVec.ofNat 64 bits)) }
      if bits = 0 then s
      else
        ({ s with cur := { s.cur with hold := .spawn } } : State).onBlock s.cur.block fun b =>
          { b with
            children := b.children + ((List.range 16).filter fun i => bits / 2 ^ i % 2 == 1).length
            res := match b.res with | .running => .suspending | .draining _ _ => .suspending | r => r } }

/-- SPAWN (R359, R360): its release, and each record submitted as a child; where one is accepted the block suspends. It waits while its records would
make more than 256 live launches of the context (R376; DESIGN CHOICE, log 102). -/
def execSpawn (f : F64) (s : State) : Host.Outcome State Fault Refusal :=
  issue (hdr64 0x19 0x04 f) (spawnPlan f) s

/-! ## FETCHW -/

/-- The checks, the stalls and the effect of what `execFetchw` issues. -/
def fetchwPlan (f : F64) : Plan :=
  let h := hdr64 0x19 0x05 f
  let irrev := f.modBit 0
  { ops := fun _ => sregOk f.s1 && sregOk f.s2
    uses := [(f.s1, true), (f.s2, true)]
    mem := true
    acts := true
    table := fun c => c.pins irrev
    own := fun c => match rangeFault c.s c.g.block (c.ssrc f.s2) 16 16 with
      | some t => some t
      | none => escape c h irrev
    wait := fun c => c.s.memoryHeld c.g false
    eff := fun c s =>
      let s := (if irrev then s.pin else s).setWide
      let (key, s) := s.fresh
      let (b, off) := match s.localAt s.cur.block (c.ssrc f.s2) 16 with | .ok p => p | .error _ => (0, 0)
      let m : Mail := ⟨key, s.pasidOf s.cur, s.cur.block, (c.ssrc f.s1).toNat % 2 ^ 32, false, b, off, []⟩
      c.launch h (.fetchw key) [] [] 0 { s with mails := s.mails ++ [m] } }

/-- FETCHW (R361). -/
def execFetchw (f : F64) (s : State) : Host.Outcome State Fault Refusal :=
  issue (hdr64 0x19 0x05 f) (fetchwPlan f) s

/-- The distributor has queued a FETCHW's request (R361). -/
def State.finishFetch (s : State) (r : FRef) : FlightOp → State
  | .fetchw k =>
    ({ s with mails := (s.mails.filter (·.key != k)) ++
        ((s.mails.filter (·.key == k)).map fun (m : Mail) => { m with here := true }) } : State).land r []
  | _ => s

/-- The unplaced block of lowest index, a flushed one or one that has not been placed yet. -/
def Launch.lowestUnplaced (l : Launch) : Option Nat :=
  least (l.again ++ (l.lowest (l.withdrawn.length + l.ahead.length + 1) l.nextBlk).toList)

/-- A block is withdrawn from a launch: it leaves its barriers (R363), and is counted when the block that fetched it ends, or at once where that has
ended (R361). -/
def State.withdraw (s : State) (key lin by_ : Nat) : State :=
  let s := (s.onLaunch key fun l =>
    { l with
      withdrawn := insertNat lin l.withdrawn
      again := l.again.filter (· != lin)
      fetched := l.fetched ++ [(lin, by_)] }).settleBars
  if (s.block? by_).isSome then s else (s.countFetched by_).settleLaunches

/-- FETCHW_SERVICE (R361, R362): the distributor serves the oldest request of the context of the cue's key. -/
def execFetchwService (s : State) : Host.Outcome State Fault Refusal :=
  .next (match (s.mails.find? fun (m : Mail) => m.pasid == s.cue.key && m.here && m.bytes == [] : Option Mail) with
    | none => s
    | some m =>
      let answer (ws : List Nat) (s : State) : State :=
        if (s.block? m.block).isNone then { s with mails := s.mails.filter fun (x : Mail) => x.key != m.key }
        else { s with mails := s.mails.map fun (x : Mail) => if x.key == m.key then { x with bytes := ws.flatMap (natBytes 4) } else x }
      match (s.launches.find? fun (l : Launch) => l.pasid == m.pasid && !l.torn && l.rc.launchId == m.id : Option Launch) with
      | none => answer [0, 0, 0, 2] s
      | some l => match l.lowestUnplaced with
        | none => answer [0, 0, 0, 1] s
        | some lin =>
          let (x, y, z) := l.rc.coords lin
          answer [x, y, z, 0] (s.withdraw l.key lin m.by_)).wake

/-- MAILBOX_WRITE (R362) of the served request of the cue's key: written and set Full once Empty; otherwise it joins its granule's queue. -/
def execMailboxWrite (s : State) : Host.Outcome State Fault Refusal :=
  .next (match (s.mails.find? fun (m : Mail) => m.key == s.cue.key && m.bytes != [] : Option Mail) with
    | none => s
    | some m =>
      let g := granOf m.off
      let queued := match s.block? m.block with
        | some b => b.vault.waiters.any fun w => w.2 == Waiter.mailbox m.key
        | none => false
      if s.localTransit m.block m.off || s.segmentWaits m.block m.off || queued || !s.isResident m.block then s
      else if s.isFull m.block g then s.enqueue m.block g (.mailbox m.key)
      else
        ({ ((s.vaultWrite m.block m.off m.bytes).poisonVault m.block g false).setFull m.block g true with
          mails := s.mails.filter fun (x : Mail) => x.key != m.key } : State).served m.block g false).wake

/-! ## Queues -/

/-- A queue of a context. -/
def State.queue? (s : State) (pasid num : Nat) : Option Queue := s.queues.find? fun q => q.pasid == pasid && q.num == num
/-- Changes it. -/
def State.onQueue (s : State) (pasid num : Nat) (f : Queue → Queue) : State :=
  { s with queues := s.queues.map fun q => if q.pasid == pasid && q.num == num then f q else q }

/-- TYPE of a packet (R368). -/
def Packet.type (p : Packet) : Nat := field p.bytes 0 1
/-- FLAGS.AFTER. -/
def Packet.after (p : Packet) : Bool := field p.bytes 1 1 % 2 == 1
def Packet.record (p : Packet) : Nat := field p.bytes 8 8
def Packet.prologue (p : Packet) : Nat := field p.bytes 0x10 8
def Packet.addr (p : Packet) : Nat := field p.bytes 0x18 8
def Packet.value (p : Packet) : Nat := field p.bytes 0x20 8

/-- A packet is ill-formed (R368, R370). -/
def Packet.bad (p : Packet) : Bool :=
  decide (4 < p.type) || decide (1 < field p.bytes 1 1) || field p.bytes 2 6 != 0 || field p.bytes 0x28 24 != 0 ||
    ((p.type == 1 || p.type == 2) && p.record % 128 != 0) || (p.type == 2 && p.prologue % 2 != 0) ||
    ((p.type == 3 || p.type == 4) && p.addr % 8 != 0)

/-- The next packet to start (R369). -/
def Queue.head (q : Queue) : Option Packet := q.packets.find? fun p => !p.started

/-- It may start, though its queue is no longer valid (R366, R380, log 88): every earlier packet has completed where AFTER, SIGNAL or WAITGE asks for it, and a context holds no more than 256 live
launches (R369, R376). -/
def State.canStart (s : State) (q : Queue) (p : Packet) : Bool :=
  let first := (q.packets.head?).map (·.idx) == some p.idx
  let waiting := (s.queues.map fun (x : Queue) => if x.pasid != q.pasid then 0 else
    (x.packets.filter fun y => y.started && (y.type == 1 || y.type == 2) && y.launch.isNone).length).sum
  !q.stopped && !s.updating && q.weight != 0 && (first || !(p.after || p.type == 3 || p.type == 4)) &&
    (!(p.type == 1 || p.type == 2) ||
      decide ((s.launches.filter fun l => l.pasid == q.pasid).length + waiting < Config.liveLaunches))

/-- A queue stops at a packet, which starts no more (R370). -/
def State.stopQueue (s : State) (pasid num code idx : Nat) : State :=
  match s.queue? pasid num with
  | none => s
  | some q =>
    (s.onQueue pasid num fun q =>
      { q with stopped := true, packets := q.packets.map fun p => if p.idx == idx then { p with started := false } else p }).deviceStore pasid q.qstat
      (natBytes 8 (1 + 2 ^ 8 * code + 2 ^ 16 * (idx % 2 ^ 48)))

/-- A queue is active (R374). -/
def State.activeQueue (s : State) (q : Queue) : Bool := match q.head with | some p => s.canStart q p | none => false

/-- Ill-formed packets that have come to the head stop their queues (R370), and a queue that becomes active joins the arbiter's list at its end with
D = 0; one leaves it at a visit alone (R374). -/
def State.arbitrate (s : State) : State :=
  let s := s.queues.foldl (fun (s : State) q => match q.head with
    | some p => if !q.stopped && p.bad then s.stopQueue q.pasid q.num 0x02 p.idx else s
    | none => s) s
  let new := (s.queues.filter fun q => s.activeQueue q && !s.arbiter.contains (q.pasid, q.num)).map fun q => (q.pasid, q.num)
  { s with
    arbiter := s.arbiter ++ new
    queues := s.queues.map fun q => if new.contains (q.pasid, q.num) then { q with deficit := 0 } else q }

/-- A packet leaves its queue. -/
def State.dropPacket (s : State) (pasid num idx : Nat) : State :=
  s.onQueue pasid num fun q => { q with packets := q.packets.filter (·.idx != idx) }
/-- Changes a packet. -/
def State.onPacket (s : State) (pasid num idx : Nat) (f : Packet → Packet) : State :=
  s.onQueue pasid num fun q => { q with packets := q.packets.map fun p => if p.idx == idx then f p else p }

/-! ## The scanner -/

/-- An entry of the queue table as it is read (R366): a queue that becomes valid is polled at interval 0. -/
def State.queueEntry (s : State) (pasid num : Nat) (bs : List Byte) : State :=
  let valid := field bs 9 1 % 2 == 1
  let set (q : Queue) : Queue :=
    { q with
      valid := valid
      ring := field bs 0 8
      log2n := field bs 8 1
      weight := field bs 0xA 1
      widx := field bs 0x10 8
      ridx := field bs 0x18 8
      qstat := field bs 0x20 8
      k := if valid && !q.valid then 0 else q.k
      due := if valid && !q.valid then s.cycle + 800 else q.due }
  match s.queue? pasid num with
  | some _ => s.onQueue pasid num set
  | none =>
    if valid then
      { s with queues := s.queues ++ [set ⟨pasid, num, false, 0, 0, 0, 0, 0, 0, 0, 0, 0, false, 0, [], none, false, 0, 0⟩] }
    else s

/-- Entries of the queue table are read in turn, and whether one of them waits for a translation. -/
def State.readTable (c : Context) (yes : Bool) : List Nat → Bool → State → Bool × State
  | [], w, s => (w, s)
  | n :: l, w, s =>
    match s.deviceRead c.pasid (c.qbase.toNat + 64 * n) 64 yes with
    | (.bytes bs, s) => State.readTable c yes l w (s.queueEntry c.pasid n bs)
    | (.wait, s) => State.readTable c yes l true s
    | (.lost, s) => State.readTable c yes l w s

/-- QUEUE_TABLE_READ (R366) of the context of the cue's key, where it runs (R478), once its read is due, which it stays until every entry has been read; `yes` says that system
software has answered fatal: an entry that cannot be read keeps its last contents. -/
def execQueueTableRead (s : State) : Host.Outcome State Fault Refusal :=
  .next (match (s.ctx? s.cue.key : Option Context) with
    | none => s
    | some c =>
      if s.cycle < c.qdue ∨ c.qbase = 0 ∨ !c.begun then s
      else
        let (waits, s) := State.readTable c s.cue.yes (List.range 64) false s.podAcquire
        let due := s.cycle + 800000
        (if waits then s else s.onCtx c.pasid fun (x : Context) => { x with qdue := due }).arbitrate).wake

/-- The batten core with the fewest packets in hand, the lowest number on a tie (R372): packets that have been read and have neither completed nor
become a launch (log 87). -/
def State.battenCore (s : State) : Nat :=
  let load (n : Nat) : Nat := (s.queues.map fun (q : Queue) => (q.packets.filter fun p => p.core == n && p.launch.isNone).length).sum
  ((least ((List.range 16).map fun n => load n * 16 + n)).getD 0) % 16

/-- Packets are read from a ring up to an index; each is counted in the read index (R367), and goes to a batten core. -/
def State.readPackets (pasid num : Nat) (yes : Bool) : Nat → State → State
  | 0, s => s.onQueue pasid num fun q => { q with upto := 0 }
  | n + 1, s =>
    match s.queue? pasid num with
    | none => s
    | some q =>
      if q.stopped then s
      else match s.deviceRead pasid (q.ring + 64 * (q.rd % 2 ^ q.log2n)) 64 yes with
        | (.wait, s) => s.onQueue pasid num fun q => { q with asked := true, upto := q.rd + n + 1 }
        | (.lost, s) => (s.stopQueue pasid num 0x03 q.rd).onQueue pasid num fun q => { q with upto := 0 }
        | (.bytes bs, s) =>
          let core := s.battenCore
          let s := s.onQueue pasid num fun q =>
            { q with rd := q.rd + 1, packets := q.packets ++ [⟨q.rd, bs, false, false, none, none, 0, false, core⟩] }
          State.readPackets pasid num yes n (s.deviceStore pasid q.ridx (natBytes 8 (q.rd + 1)))

/-- A read of a queue's write index may be made (R371): it is due, no queue that was due before it, or with it under a lower number, still is, and fewer
than 8 reads have been made in this cycle; one that waits for a translation goes on at any time, that of a packet also once VALID is clear (R380). -/
def State.mayScan (s : State) (q : Queue) : Bool :=
  let first (x : Queue) : Bool := decide (x.due < q.due) || (x.due == q.due && (decide (x.pasid < q.pasid) || (x.pasid == q.pasid && decide (x.num < q.num))))
  (q.asked && (q.valid || q.upto != 0)) || (q.valid && (decide (q.due ≤ s.cycle) && !(s.scans.1 == s.cycle && decide (8 ≤ s.scans.2)) &&
    !s.queues.any fun x => x.valid && !x.asked && decide (x.due ≤ s.cycle) && first x))

/-- A read of a queue's write index has found j (R367, R371): the interval state and its next read follow, and packets up to j are read, at most so
many now. A stopped queue reads no packet. -/
def State.scanned (s : State) (q : Queue) (j limit : Nat) (yes : Bool) : State :=
  let k := if q.rd < j then 0 else min 10 (q.k + 1)
  let next (s : State) : State := s.onQueue q.pasid q.num fun x => { x with k := k, due := s.cycle + min 800000 (800 * 2 ^ k), asked := false }
  if q.stopped then next s
  else if j < q.rd ∨ q.rd + 2 ^ q.log2n < j then (next s).stopQueue q.pasid q.num 0x01 q.rd
  else State.readPackets q.pasid q.num yes (min (j - q.rd) limit) (next s)

/-- SCANNER_READ (R371): of the queue that the cue lists, by context and number, once its read is due; a read that fails leaves the interval state, and
the next falls after its interval (DESIGN CHOICE, log 52); a third number limits the packets read
now, and `yes` says that system software has answered fatal. -/
def execScannerRead (s : State) : Host.Outcome State Fault Refusal :=
  .next (match s.cue.nums with
    | pasid :: num :: more =>
      match (s.queue? pasid num : Option Queue) with
      | none => s
      | some q =>
        if !s.mayScan q then s
        else
          let s : State := if q.asked then s else { s with scans := (s.cycle, if s.scans.1 = s.cycle then s.scans.2 + 1 else 1) }
          if !q.valid then (State.readPackets pasid num s.cue.yes 1 (s.onQueue pasid num fun (x : Queue) => { x with asked := false })).arbitrate
          else match s.podAcquire.deviceRead pasid q.widx 8 s.cue.yes with
          | (.wait, s) => s.onQueue pasid num fun (x : Queue) => { x with asked := true }
          | (.lost, s) => ((s.stopQueue pasid num 0x03 q.rd).onQueue pasid num fun (x : Queue) =>
              { x with asked := false, due := s.cycle + min 800000 (800 * 2 ^ x.k) }).arbitrate
          | (.bytes bs, s) => (s.scanned q (leNat bs) ((more[0]?).getD (2 ^ 64)) s.cue.yes).arbitrate
    | _ => s).wake

/-- QUEUE_RESTART (R370): the queue that the cue lists, by context and number, goes on at the index that follows. -/
def execQueueRestart (s : State) : Host.Outcome State Fault Refusal :=
  .next (match s.cue.nums with
    | [pasid, num, idx] =>
      match (s.queue? pasid num : Option Queue) with
      | none => s
      | some q =>
        if !s.serving then s else
        let s := s.onQueue pasid num fun (q : Queue) => { q with stopped := false, rd := idx, packets := q.packets.filter (·.started) }
        ((s.deviceStore pasid q.qstat (natBytes 8 0)).deviceStore pasid q.ridx (natBytes 8 idx)).arbitrate
    | _ => s).wake

/-! ## Packets -/

/-- The packet that a cue names: context, queue and index. -/
def State.packet? (s : State) : List Nat → Option (Queue × Packet)
  | pasid :: num :: idx :: _ => (s.queue? pasid num).bind fun q => (q.packets.find? (·.idx == idx)).map fun p => (q, p)
  | _ => none

/-- The packet has started, or is at the head and may start. -/
def State.starts (s : State) (q : Queue) (p : Packet) : Bool :=
  p.started || ((q.head.map (·.idx)) == some p.idx && !p.bad && s.canStart q p)

/-- NOP (R369). -/
def execNop (s : State) : Host.Outcome State Fault Refusal :=
  .next (match (s.packet? s.cue.nums : Option (Queue × Packet)) with
    | some (q, p) => if p.type == 0 && s.starts q p then (s.dropPacket q.pasid q.num p.idx).arbitrate else s
    | none => s).wake

/-- SIGNAL (R369): VALUE is stored to ADDR and released at .pod; a fatal fault stops the queue. -/
def execSignal (s : State) : Host.Outcome State Fault Refusal :=
  .next (match (s.packet? s.cue.nums : Option (Queue × Packet)) with
    | some (q, p) =>
      if p.type != 3 || !s.starts q p then s
      else match s.translate deviceUnit q.pasid (BitVec.ofNat 64 p.addr) .engineWrite with
        | (.ok pa _ _ _, s) =>
          ((s.deviceWrite q.pasid pa (natBytes 8 p.value)).dropPacket q.pasid q.num p.idx).arbitrate
        | (.host e, s) => (s.askHost e).onPacket q.pasid q.num p.idx fun p => { p with started := true }
        | (.fault r _ fw, s) =>
          if answerable r fw && !s.cue.yes then s.onPacket q.pasid q.num p.idx fun p => { p with started := true }
          else (s.stopQueue q.pasid q.num 0x03 p.idx).arbitrate
    | none => s).wake

/-- The word of a WAITGE is read with an acquire at .pod at a tick, and the packet completes once it is at least VALUE (R369); `yes` says that system
software has answered fatal. -/
def State.waitGe (s : State) (q : Queue) (p : Packet) (yes : Bool) : State :=
  let s := s.podAcquire.onPacket q.pasid q.num p.idx fun p => { p with started := true }
  match s.deviceRead q.pasid p.addr 8 yes with
  | (.bytes bs, s) => if p.value ≤ leNat bs then (s.dropPacket q.pasid q.num p.idx).arbitrate else s
  | (.wait, s) => s
  | (.lost, s) => (s.stopQueue q.pasid q.num 0x03 p.idx).arbitrate

/-- WAITGE (R369): it starts, and its word is read at each tick from then on; `yes` says that system software has answered fatal for the word. -/
def execWaitge (s : State) : Host.Outcome State Fault Refusal :=
  .next (match (s.packet? s.cue.nums : Option (Queue × Packet)) with
    | some (q, p) =>
      if p.type != 4 || !s.starts q p then s
      else
        let s := s.onPacket q.pasid q.num p.idx fun p => { p with started := true }
        match s.deviceRead q.pasid p.addr 8 true with
        | (.lost, t) => if s.cue.yes then (t.stopQueue q.pasid q.num 0x03 p.idx).arbitrate else s
        | _ => s
    | none => s).wake

/-- A started packet's record is read, checked and submitted (R369), or still waits for a translation; a rejected launch completes it, or lets
its prologue run again. -/
def State.submit (s : State) (q : Queue) (p : Packet) (again : Bool) : Bool × State :=
  let done (s : State) : Bool × State :=
    (true, if again then s.onPacket q.pasid q.num p.idx fun p => { p with pro := none, launch := none, again := true, runs := p.runs + 1 }
      else s.dropPacket q.pasid q.num p.idx)
  match s.deviceRead q.pasid p.record 128 s.cue.yes with
  | (.wait, s) => (false, s)
  | (.lost, s) => done s
  | (.bytes bs, s) =>
    match s.accept q.pasid p.record bs 0 0 none (some q.num) s.cue.yes with
    | (.wait, s) => (false, s)
    | (.rejected, s) => done s
    | (.accepted key, s) =>
      (true, s.onPacket q.pasid q.num p.idx fun p =>
        { p with launch := some key, pro := none, again := again, runs := if again then p.runs + 1 else p.runs })

/-- LAUNCH (R369): the started packet of the cue, once those started before it in its queue have been submitted. -/
def execLaunch (s : State) : Host.Outcome State Fault Refusal :=
  .next (match (s.packet? s.cue.nums : Option (Queue × Packet)) with
    | some (q, p) =>
      let next := (q.packets.find? fun (x : Packet) => x.started && x.type == 1 && x.launch.isNone).map fun (x : Packet) => x.idx
      if p.started && next == some p.idx then (s.submit q p false).2.arbitrate else s
    | none => s).wake

/-! ## Prologues: R372, R373 -/

/-- INDIRECT (R373): a run of the prologue of the started packet of the cue begins on its batten core, once that core runs no other group and no trial
of an update is beginning (R98). LOCID reads the number of the batten core there (DESIGN CHOICE, log 87: the manual gives a front-end group no
location ID). -/
def execIndirect (s : State) : Host.Outcome State Fault Refusal :=
  .next (match (s.packet? s.cue.nums : Option (Queue × Packet)) with
    | some (q, p) =>
      let n := p.core
      if !p.started || p.type != 2 || p.pro.isSome || p.launch.isSome || s.updating || s.groups.any (fun (g : Group) => g.front && g.locid.toNat == n) then s
      else
        let (key, s) := s.fresh
        let b : Block :=
          { key := key, launch := 0, pasid := q.pasid, lin := 0, bx := 0, byy := 0, bz := 0, ngroups := 1, home := 0, spread := false
            res := .running, vault := Alloc.empty, issued := 0, wide := false, children := 0, share := none, bcells := [], xcells := [], view := 0
            worldIdx := 0, why := 0 }
        let g := Group.start key 0 (BitVec.ofNat 32 n) 0 (BitVec.ofNat 57 p.prologue) (BitVec.ofNat 64 p.record)
          (BitVec.ofNat 64 p.runs) s.nextAge
        let g := { g with front := true, act := 1, lastRun := 1, sregs := g.sregs.set 2 (BitVec.ofNat 64 p.value) }
        let s := s.acquire (battenUnit n) q.pasid 0 6
        ({ s with blocks := s.blocks ++ [b], others := s.others ++ [g] } : State).onPacket q.pasid q.num p.idx
          fun p => { p with pro := some key }
    | none => s).wake

/-- A run of a packet's prologue has issued more than 1,048,576 instructions (R373). -/
def State.overBudget (s : State) (p : Packet) : Bool :=
  match p.pro.bind s.block? with
  | some b => decide (1048576 < b.issued)
  | none => false

/-- A prologue has ended within its budget by EXIT: it has no lane left and nothing in flight; its code is in s3[7:0]. -/
def State.prologueCode (s : State) (p : Packet) : Option Nat :=
  match p.pro.bind fun k => s.group? k 0 with
  | some g =>
    if g.act == 0 && g.etrap.isNone && g.flights == [] && g.deferred == [] && !s.overBudget p then some ((g.sreg 3).toNat % 256) else none
  | none => none

/-- The prologue of the cue's packet has ended with a code that `ok` selects by code and run count: EXIT's release at .package is made, and
`act` follows; the prologue leaves its core once `act` is done (R373). -/
def prologueEnd (ok : Nat → Nat → Bool) (act : State → Queue → Packet → Bool × State) (s : State) : Host.Outcome State Fault Refusal :=
  .next (match (s.packet? s.cue.nums : Option (Queue × Packet)) with
    | some (q, p) =>
      match s.prologueCode p, p.pro.bind fun k => s.group? k 0 with
      | some k, some g =>
        if !ok k p.runs then s
        else match act (s.release (s.coreOfGroup g) q.pasid 0 5) q p with
          | (true, s) => (s.forget g.block).arbitrate
          | (false, s) => s
      | _, _ => s
    | none => s).wake

/-- PROLOGUE_LAUNCH (R373): code 0, or 2 at the last run. -/
def execPrologueLaunch (s : State) : Host.Outcome State Fault Refusal :=
  prologueEnd (fun k r => k == 0 || (k == 2 && r == 65535)) (fun s q p => s.submit q p false) s
/-- PROLOGUE_CANCEL (R373): code 1. -/
def execPrologueCancel (s : State) : Host.Outcome State Fault Refusal :=
  prologueEnd (fun k _ => k == 1) (fun s q p => (true, s.dropPacket q.pasid q.num p.idx)) s
/-- PROLOGUE_REPEAT (R373): code 2. -/
def execPrologueRepeat (s : State) : Host.Outcome State Fault Refusal :=
  prologueEnd (fun k r => k == 2 && r != 65535) (fun s q p => s.submit q p true) s

/-- A prologue fails: its pseudo-block goes and its queue stops (R373). -/
def State.prologueFails (s : State) (q : Queue) (p : Packet) (code : Nat) : State :=
  ((match p.pro with | some k => s.forget k | none => s).stopQueue q.pasid q.num code p.idx).dropPacket q.pasid q.num p.idx

/-- PROLOGUE_BUDGET_EXCEEDED (R373): the prologue of the cue's packet has issued more than 1,048,576 instructions. -/
def execPrologueBudgetExceeded (s : State) : Host.Outcome State Fault Refusal :=
  .next (match (s.packet? s.cue.nums : Option (Queue × Packet)) with
    | some (q, p) =>
      if s.overBudget p then (s.prologueFails q p 0x04).arbitrate else s
    | none => s).wake

/-! ## The arbiter: R374, R375 -/

/-- Packets of a queue start while its deficit allows; NOPs complete at once. -/
def State.startPackets (pasid num : Nat) : Nat → State → State
  | 0, s => s
  | n + 1, s =>
    match s.queue? pasid num with
    | none => s
    | some q => match q.head with
      | none => s
      | some p =>
        if p.bad then s.stopQueue pasid num 0x02 p.idx
        else if q.deficit ≤ 0 || !s.canStart q p then s
        else State.startPackets pasid num n
          (if p.type = 0 then s.dropPacket pasid num p.idx else s.onPacket pasid num p.idx fun p => { p with started := true })

/-- ARBITER_VISIT (R374): the next queue of the list gains its quantum and starts what it can; one that is no longer active leaves with D = 0. -/
def execArbiterVisit (s : State) : Host.Outcome State Fault Refusal :=
  let s := s.arbitrate
  .next (match (s.arbiter[s.arbAt % max 1 s.arbiter.length]? : Option (Nat × Nat)) with
    | none => s
    | some (pasid, num) =>
      let at_ := s.arbAt % s.arbiter.length
      let s := s.onQueue pasid num fun (q : Queue) =>
        { q with deficit := min (q.deficit + ((q.weight * 2 ^ 23 : Nat) : Int)) ((q.weight * 2 ^ 24 : Nat) : Int) }
      let n := ((s.queue? pasid num).map fun (q : Queue) => q.packets.length).getD 0
      let s := State.startPackets pasid num (n + 1) s
      let stays := match (s.queue? pasid num : Option Queue) with
        | some q => s.activeQueue q
        | none => false
      (if stays then { s with arbAt := at_ + 1 }
        else { (s.onQueue pasid num fun (q : Queue) => { q with deficit := 0 }) with
          arbiter := s.arbiter.filter (· != (pasid, num)), arbAt := at_ } : State).arbitrate).wake

/-- Partition-cycles of a running matrix entry in a tick: its region has 16,384 cells a weight tile (R375). -/
def MxEntry.charge (e : MxEntry) : Nat := 512 * e.cells.length

/-- The charges of a tick (R375). -/
def State.chargeQueues (s : State) : State :=
  let of (q : Queue) : Nat :=
    (s.launches.map fun (l : Launch) => if l.pasid == q.pasid && l.queue == some q.num then l.owed else 0).sum +
    (s.mxEntries.map fun (e : MxEntry) =>
      match (s.block? e.block).bind fun b => s.launch? b.launch with
      | some l => if e.granted.isSome && l.pasid == q.pasid && l.queue == some q.num then e.charge else 0
      | none => 0).sum
  { s with
    queues := s.queues.map fun q => { q with deficit := q.deficit - ((of q + q.owed : Nat) : Int), owed := 0 }
    launches := s.launches.map fun (l : Launch) => { l with owed := 0 } }

end Sys2Proof.Machine
end

