-- ==== Sys2Proof/Machine/Images.lean ====
section
/-! DEFINITION. Context and block images (R401 to R409, R127, R435, R456): what a save writes and what a restore reads. The
firmware's own section stands in the context image alone (log 60). -/

namespace Sys2Proof.Machine

/-! ## Records -/

/-- A record of n bytes from its fields: offset, size, value. -/
def record (n : Nat) (fs : List (Nat × Nat × Nat)) : List Byte :=
  natBytes n (fs.map fun (o, k, v) => v % 2 ^ (8 * k) * 2 ^ (8 * o)).sum
/-- Words of eight bytes. -/
def words (xs : List Nat) : List Byte := xs.flatMap (natBytes 8)
/-- The words of some bytes. -/
def wordsOf (bs : List Byte) : List Nat := (List.range (bs.length / 8)).map fun k => field bs (8 * k) 8
/-- A number for each lane. -/
def laneWords (f : Nat → Nat) : List Byte := words ((List.range 64).map f)
/-- Zero bytes. -/
def zeros (n : Nat) : List Byte := List.replicate n 0
/-- A bit for each of n numbers. -/
def bitBytes (n : Nat) (on : List Nat) : List Byte := natBytes (n / 8) (on.map (2 ^ ·)).sum
/-- The numbers whose bits are set. -/
def bitsIn (bs : List Byte) : List Nat :=
  (bs.zipIdx).flatMap fun (b, k) => ((List.range 8).filter fun j => b.getLsbD j).map (8 * k + ·)
/-- A truth value as a number. -/
def bit (b : Bool) : Nat := if b then 1 else 0

/-- A section: its type, the number of its records, its bytes. -/
structure Section where
  type  : Nat
  count : Nat
  bytes : List Byte

/-- The next multiple of 64. -/
def up64 (n : Nat) : Nat := (n + 63) / 64 * 64

/-- The directory entries of sections from an offset on. -/
def directory : Nat → List Section → List Byte
  | _, [] => []
  | o, x :: xs => record 24 [(0, 2, x.type), (2, 1, 1), (4, 4, x.count), (8, 8, o), (16, 8, x.bytes.length)] ++ directory (o + up64 x.bytes.length) xs

/-- An image (R401): its kind, WHY, SHAPE, LAUNCHID, INDEX and HBEAT, and its sections. -/
def image (kind why shape launchId index hbeat : Nat) (xs : List Section) : List Byte :=
  let start := up64 (64 + 24 * xs.length)
  let body := xs.flatMap fun x => x.bytes ++ zeros (up64 x.bytes.length - x.bytes.length)
  let rest := directory start xs ++ zeros (start - 64 - 24 * xs.length) ++ body
  let head (check : Nat) : List Byte := record 64
    [(0, 4, 0x4B474349), (4, 2, 1), (6, 1, kind), (7, 1, why), (8, 8, 64 + rest.length), (0x10, 4, xs.length), (0x14, 4, shape),
     (0x18, 4, launchId), (0x1C, 4, index), (0x20, 8, hbeat), (0x28, 8, check)]
  head (leNat (shake256 (head 0 ++ rest) 8)) ++ rest

/-- The sections of an image as its directory gives them. -/
def sectionsOf (bs : List Byte) : List Section :=
  (List.range (field bs 0x10 4)).map fun k =>
    let e := bs.drop (64 + 24 * k)
    ⟨field e 0 2, field e 4 4, (bs.drop (field e 8 8)).take (field e 16 8)⟩

/-- The bytes of the section of a type, none where there is none. -/
def sectionAt (xs : List Section) (type : Nat) : List Byte := ((xs.find? fun x => x.type == type).map (·.bytes)).getD []

/-- MAGIC and CHECK hold (R401). -/
def imageSound (bs : List Byte) : Bool :=
  let n := field bs 8 8
  field bs 0 4 == 0x4B474349 && n == bs.length &&
    field bs 0x28 8 == leNat (shake256 (bs.take 0x28 ++ zeros 8 ++ bs.drop 0x30) 8) % 2 ^ 64

/-- VERSION, every SVER and every TYPE below 0x8000 are known (R409). -/
def imageKnown (bs : List Byte) : Bool :=
  field bs 4 2 == 1 && (List.range (field bs 0x10 4)).all fun k =>
    let e := bs.drop (64 + 24 * k)
    decide (0x8000 ≤ field e 0 2) || (field e 2 1 == 1 && decide (1 ≤ field e 0 2) && decide (field e 0 2 ≤ 0xE))

/-! ## Groups: R404 -/

/-- The format of PCTi. -/
def pctWord (pc : BitVec 57) (depth : BitVec 8) : Nat := depth.toNat * 2 ^ 56 + pc.toNat / 2

/-- The code of a barrier level (R350). -/
def BarLevel.code : BarLevel → Nat
  | .grp => 0
  | .blk => 1
  | .set => 2
  | .launch => 3

/-- The six words of TRAP and ETRAP. -/
def TrapRegs.image (x : TrapRegs) : List Byte :=
  words [x.xpc.toNat, x.xcause.toNat, x.xstat.toNat, x.xaddr.toNat, x.xinfo.toNat, x.xscr.toNat]

/-- A walker (R404, R246). -/
def Walker.image (w : Walker) : List Byte :=
  natBytes 8 w.base.toNat ++ (w.count.toList ++ w.stride.toList ++ w.idx.toList).flatMap (fun (x : Word) => natBytes 4 x.toNat) ++ natBytes 8 w.status.toNat

/-- FLAGS of a group. -/
def Group.imageFlags (g : Group) : Nat :=
  bit g.priv + 2 * bit (g.banked.pos != 0) +
    (match g.hold with | .sleep _ => 4 | .grow _ => 8 | _ => 0) + 16 * bit g.etrap.isSome

/-- What names a group in an image: its LOCID, or, for a prologue's, 2^31 and the number of its batten core (log 60). -/
def Group.recordId (g : Group) : Nat := if g.front then 2 ^ 31 + g.locid.toNat else g.locid.toNat

/-- The GROUP record. -/
def Group.image (g : Group) : List Byte :=
  record 0x28
    ([(0, 4, g.recordId), (4, 1, g.alloc), (5, 1, g.imageFlags), (6, 1, g.banked.pos), (7, 1, 2 ^ g.banked.latches.length - 1)] ++
      (List.range 12).map (fun i => (8 + i, 1, (g.counter i).toNat)) ++
      [(0x14, 1, match g.hold with | .grow n => n | _ => 0), (0x15, 1, g.x.xdepth.toNat),
       (0x18, 8, match g.hold with | .sleep t => t | _ => 0), (0x20, 8, g.fpst.toNat)]) ++
    words ((List.range 16).map fun p => (g.preg p).toNat) ++
    laneWords (fun i => pctWord (g.pc.get i) (g.depth.get i)) ++
    words [(g.actW.getD g.act).toNat, (g.blkW.getD g.blk).toNat, (g.yldW.getD g.yld).toNat, g.x.pcrun.toNat, g.handler.act.toNat, g.handler.yld.toNat] ++
    zeros 40 ++
    (List.range 64).map (fun i => match g.barw.get i with
      | some w => BitVec.ofNat 8 (w.bar.level.code + 4 * w.bar.id)
      | none => 0) ++
    zeros 192 ++
    g.walkers.toList.flatMap Walker.image ++
    g.x.image ++ ((g.etrap.map TrapRegs.image).getD (zeros 48)) ++ zeros 416 ++
    laneWords (fun i => pctWord (g.handler.pc.get i) (g.handler.depth.get i)) ++
    (List.range 4).flatMap (fun k => match g.banked.latches[k]? with
      | some l => laneWords fun i => (l.val.get i).toNat
      | none => zeros 512) ++
    words (g.sregs.toList.map (·.toNat))

/-- A row of a vector register. -/
def rowImage (r : Lanes Word) : List Byte := r.toList.flatMap fun x => natBytes 4 x.toNat
/-- The rows of a group's allocation. -/
def Group.rowsImage (g : Group) : List Byte := (List.range g.alloc).flatMap fun r => rowImage (g.vrow r)

/-- Words 8 bytes each from an offset, as a lane each. -/
def lanesAt (bs : List Byte) (o : Nat) : Lanes DWord := Lanes.ofFn fun i => BitVec.ofNat 64 (field bs (o + 8 * i) 8)

/-- The trap registers from their six words, with PCRUN and XDEPTH; reserved bits stay 0 (R11, R384). -/
def TrapRegs.parse (bs : List Byte) (pcrun depth : Nat) : TrapRegs :=
  let w (k : Nat) : DWord := BitVec.ofNat 64 (field bs (8 * k) 8)
  ⟨addrField (w 0), w 1 &&& 0x3F, w 2 &&& 0x3FFFFF, w 3, w 4, addrField (w 5), BitVec.ofNat 64 depth, BitVec.ofNat 64 pcrun⟩

/-- A walker from its image. -/
def Walker.parse (bs : List Byte) : Walker :=
  let v (o : Nat) : Vector Word 4 := Vector.ofFn fun (k : Fin 4) => BitVec.ofNat 32 (field bs (o + 4 * k.val) 4)
  let st := field bs 0x38 8
  ⟨st / 16 % 2 == 1, BitVec.ofNat 64 (field bs 0 8), BitVec.ofNat 2 (st / 128), BitVec.ofNat 2 (st / 32), v 8, v 0x18, v 0x28, BitVec.ofNat 4 st⟩

/-- The level of a code. -/
def BarLevel.ofCode (k : Nat) : BarLevel :=
  match k % 4 with
  | 0 => .grp
  | 1 => .blk
  | 2 => .set
  | _ => .launch

/-- A group from its record and its rows. -/
def Group.parse (block gidx age : Nat) (bs rows : List Byte) : Group :=
  let w (o : Nat) : DWord := BitVec.ofNat 64 (field bs o 8)
  let flags := field bs 5 1
  let bits (k : Nat) : Bool := flags / 2 ^ k % 2 == 1
  let pct (o : Nat) : Lanes DWord := lanesAt bs o
  let pcs (o : Nat) : Lanes (BitVec 57) := (pct o).map fun (x : DWord) => (x.setWidth 57 : BitVec 57) <<< (1 : Nat)
  let depths (o : Nat) : Lanes (BitVec 8) := (pct o).map fun (x : DWord) => x.extractLsb' 56 8
  let valid := field bs 7 1
  let blk := w 0x2B0
  let front := field bs 3 1 / 2 ^ 7 % 2 == 1
  { Group.start block gidx (BitVec.ofNat 32 (if front then field bs 0 3 else field bs 0 4)) (field bs 4 1) 0 0 0 age with
    front := front
    vregs := Vector.ofFn fun (r : Fin 128) => Lanes.ofFn fun i => BitVec.ofNat 32 (field rows (256 * r.val + 4 * i) 4)
    sregs := Vector.ofFn fun (k : Fin 96) => w (0x1200 + 8 * k.val)
    preds := Vector.ofFn fun (k : Fin 16) => w (0x28 + 8 * k.val)
    walkers := Vector.ofFn fun (k : Fin 8) => Walker.parse (bs.drop (0x400 + 64 * k.val))
    cnts := Vector.ofFn fun (k : Fin 12) => BitVec.ofNat 6 (field bs (8 + k.val) 1)
    fpst := w 0x20 &&& 0x1F
    pc := pcs 0xA8
    depth := depths 0xA8
    act := w 0x2A8 ||| blk
    blk := blk
    yld := w 0x2B8
    barw := Lanes.ofFn fun i =>
      let k := field bs (0x300 + i) 1
      if lane (blk ||| w 0x2C8) i then some ⟨⟨BarLevel.ofCode k, k / 4 % 16⟩, 0, some 5⟩ else none
    hold := if bits 2 then .sleep (field bs 0x18 8) else if bits 3 then .grow (field bs 0x14 1) else .free
    priv := bits 0
    x := TrapRegs.parse (bs.drop 0x600) (field bs 0x2C0 8) (field bs 0x15 1)
    etrap := if bits 4 then some (TrapRegs.parse (bs.drop 0x630) (field bs 0x2C0 8) (field bs 0x15 1)) else none
    handler := ⟨pcs 0x800, depths 0x800, w 0x2C8, w 0x2D0, 0, 0⟩
    banked := ⟨field bs 6 1, ((List.range 4).filter fun k => valid / 2 ^ k % 2 == 1).map fun k => ⟨lanesAt bs (0xA00 + 512 * k), allOnes, 0⟩⟩ }

/-! ## Waiting accesses: R127, R402 -/

/-- An entry of R127. -/
def logImage (g : Group) (f : Flight) (state reason level scope seq : Nat) (mask : DWord) (va : Nat) (addr data expect : Nat → Nat) : List Byte :=
  record 0x40
    [(0, 8, f.word.toNat), (8, 8, f.pc.toNat), (0x10, 4, g.recordId), (0x14, 1, state), (0x15, 1, reason), (0x16, 1, level),
     (0x17, 1, scope), (0x18, 8, mask.toNat), (0x20, 8, va), (0x28, 8, seq)] ++ laneWords addr ++ laneWords data ++ laneWords expect

/-- The entry of an access in flight, of which lanes `ls` are still to perform. A plane access gives the high half of granule k at DATA 32 + k,
and for a PLUNPACK its enabled lanes at EXPECT 0, the planes that it has read poisoned at EXPECT 1, and at DATA the granules that it has read. -/
def accessImage (g : Group) (f : Flight) (a : Access) (state reason level seq : Nat) (ls : List LaneAcc) : List Byte :=
  let at_ (i : Nat) (h : LaneAcc → Nat) : Nat := ((a.lanes.find? (·.lane == i)).map h).getD 0
  let plane := a.size == 16
  let datum (l : LaneAcc) : Nat := if plane && a.kind == .load then l.got.toNat else l.data.toNat
  logImage g f state reason level a.scope seq (maskOf fun i => ls.any (·.lane == i)) ((ls.head?.map (·.addr.toNat)).getD 0)
    (fun i => at_ i (·.addr.toNat))
    (fun i => if plane && decide (32 ≤ i) then at_ (i - 32) fun l => datum l / 2 ^ 64 else at_ i fun l => datum l % 2 ^ 64)
    (fun i => match a.dst with
      | .planes _ _ m => (if i = 0 then m.toNat else if i = 1 then (maskOf fun k => a.lanes.any fun l => l.lane == k && l.st == .failed).toNat else 0)
      | _ => at_ i (·.expect.toNat))

/-- A lane that waits without an operand-log entry. -/
def LaneAcc.waits (l : LaneAcc) : Bool := l.st == .todo || l.st == .queued

/-- The OPLOG section of a group's entries, with their order and their flights. -/
def State.oplogOf (s : State) (g : Group) : List (Nat × Nat × List Byte) :=
  g.flights.filterMap fun f => match f.op, s.logOf ⟨g.block, g.gidx, f.key⟩ with
    | .access a, some e =>
      let ls := a.lanes.filter fun l => match l.st with | .logged _ _ _ => true | .todo => e.state != .fatal | _ => false
      let st := match e.state with | .reserved => 1 | .pending => 1 | .resolved => 2 | .fatal => 3
      if ls = [] then none else some (e.seq, f.key, accessImage g f a st e.reason e.level e.seq ls)
    | _, _ => none

/-- The WAITS section of a group with the flights: lanes that wait at granules or in order, and WCNTs. SEQ is 0, or that of a fatal operand-log entry of
the same instruction plus 1. -/
def State.waitsOf (s : State) (g : Group) : List (Nat × List Byte) :=
  g.flights.filterMap fun f => match f.op with
    | .access a =>
      let e := s.logOf ⟨g.block, g.gidx, f.key⟩
      let ls := a.lanes.filter (·.waits)
      if ls = [] || e.any (·.state != .fatal) then none else some (f.key, accessImage g f a 4 0 0 ((e.map (·.seq + 1)).getD 0) ls)
    | .wcnt _ w v _ => some (f.key, logImage g f 4 0 0 0 0 1 0 (fun i => if i = 0 then w else 0) (fun i => if i = 0 then v.toNat else 0) fun _ => 0)
    | _ => none

/-- The access of an instruction word, without its lanes, and the registers that it will write; `m` is the mask of a PLUNPACK. One with .irrev acts in the
root view (R425). -/
def accessOfWord (w m : DWord) (scope : Nat) : Option (Access × List RegRef) :=
  let f := F64.ofWord w
  let z := typeSize f.type
  let pair := z == 8
  let wide := f.s3Top
  let d := f.dst.toNat
  let mk (kind : AccKind) (loc : Bool) (size : Nat) (ord : BitVec 2) (pro : Bool) (qual : Qual) (dst : Dst) (root : Bool) (rs : List RegRef) :
      Option (Access × List RegRef) := some (⟨kind, loc, f.type, size, ord, pro, scope, qual, dst, root, [], []⟩, rs)
  match (w.extractLsb' 6 6).toNat, (w.extractLsb' 12 6).toNat with
  | 0x10, 0x00 => mk .load false z f.ord f.pro .plain (.vec d pair) false (vecRefs d pair)
  | 0x10, 0x01 => mk .store false z f.ord false .plain .none false []
  | 0x10, 0x08 => mk .load true z f.ord false (if f.s3Top then (if f.pro then .fec else .fe) else .plain) (.vec d pair) false (vecRefs d pair)
  | 0x10, 0x09 => mk .store true z f.ord false (if f.s3Top then (if f.pro then .fee else .fef) else .plain) .none false []
  | 0x10, 0x10 => mk .load false z f.ord f.pro .plain (.sca (d - 0x80)) false [.sca (d - 0x80)]
  | 0x10, 0x11 => mk .store false z f.ord false .plain .none false []
  | 0x10, 0x03 => mk .atom false (if wide then 8 else 4) f.ord f.pro .plain (.vec d wide) f.wlk (vecRefs d wide)
  | 0x10, 0x04 => mk .atom false (if wide then 8 else 4) f.ord f.pro .plain .none f.wlk []
  | 0x10, 0x0A => mk .atom true (if wide then 8 else 4) f.ord f.pro .plain (.vec d wide) false (vecRefs d wide)
  | 0x07, 0x05 => mk .store true 16 0 false (if f.modBit 0 then .fef else .plain) .none false []
  | 0x07, 0x06 => mk .load true 16 0 false (if f.modBit 0 then .fe else .plain) (.planes d f.type m) false [.vec d]
  | _, _ => none

/-- An entry of R127 as a flight; its lanes stand as `st` says, a local one at the place that `home` gives. -/
def flightOf (key : Nat) (bs : List Byte) (st : LaneState) (home : DWord → Nat × Nat) : Option Flight :=
  let w : DWord := BitVec.ofNat 64 (field bs 0 8)
  let f := F64.ofWord w
  let pc := BitVec.ofNat 57 (field bs 8 8)
  let mask : DWord := BitVec.ofNat 64 (field bs 0x18 8)
  let word (o i : Nat) : DWord := BitVec.ofNat 64 (field bs (o + 8 * i) 8)
  if (w.extractLsb' 6 6).toNat = 0x13 then
    some ⟨key, w, pc, none, f.cnt, [], [.sca (f.dst.toNat - 0x80)], 0, [], .wcnt f.modLow (field bs 0x40 8) (word 0x240 0) (f.dst.toNat - 0x80)⟩
  else
    (accessOfWord w (word 0x440 0) (field bs 0x17 1 % 8)).map fun (a, rs) =>
      let plane := a.size == 16
      let ls := ((List.range 64).filter fun i => lane mask i || (plane && decide (i < planeCount a.type))).map fun i =>
        let at_ := word 0x40 i
        let (b, off) := if a.loc then home at_ else (0, 0)
        let data : BitVec 128 := (word 0x240 i).setWidth 128 ||| if plane then ((word 0x240 (i + 32)).setWidth 128) <<< (64 : Nat) else 0
        (⟨i, at_, b, off, data, word 0x440 i, if lane mask i then st else if plane && lane (word 0x440 1) i then .failed else .done, data⟩ : LaneAcc)
      ⟨key, w, pc, none, f.cnt, [], rs, 0, [], .access { a with lanes := ls }⟩

/-! ## Vaults: R405 -/

/-- The VAULT section of an allocation and its mapped segments. -/
def Alloc.image (a : Alloc) (segs : List (Nat × Bool × Nat)) : List Byte :=
  record 16 [(0, 4, a.size), (4, 4, segs.length)] ++ a.bytes.read 0 a.size ++ bitBytes (a.size / 16) a.full ++ bitBytes (a.size / 16) a.poison ++
    segs.flatMap fun x => record 16 [(0, 4, x.1), (4, 1, bit x.2.1), (8, 8, x.2.2)]

/-- The allocation and the segments of a VAULT section. -/
def Alloc.parse (bs : List Byte) : Alloc × List (Nat × Bool × Nat) :=
  let n := field bs 0 4
  let at_ (o k : Nat) : List Byte := (bs.drop o).take k
  ({ Alloc.empty with
      size := n
      bytes := Memory.write [] 0 (at_ 16 n)
      full := bitsIn (at_ (16 + n) (n / 128))
      poison := bitsIn (at_ (16 + n + n / 128) (n / 128)) },
   (List.range (field bs 4 4)).map fun k =>
     let e := bs.drop (16 + n + n / 128 * 2 + 16 * k)
     (field e 0 4, field e 4 1 % 2 == 1, field e 8 8))

/-! ## Copy items: R406 -/

/-- The minor of a kind (R155), and its tier entry. -/
def CopyKind.minor : CopyKind → Nat × Nat
  | .copy => (0, 0)
  | .gather => (1, 0)
  | .scatter => (2, 0)
  | .coll => (3, 0)
  | .tier k => (0xFF, k)

/-- The moves of an item in walk order, as far as its index values can be read. -/
def State.movesNow (s : State) (it : CopyItem) : List Move := it.movesOf ((s.itemIndex it).1.getD [])

/-- NEXT: the first element not written. -/
def State.nextOf (s : State) (it : CopyItem) : Nat :=
  let ms := s.movesNow it
  (((it.openMoves ms).head?).map (·.elem)).getD (((ms.getLast?).map (·.elem + 1)).getD 0)

/-- What an item has taken and not yet written, in walk order (R146), each under its name. HELD is the first four (log 85). -/
def State.heldOf (s : State) (it : CopyItem) : List (Nat × List Byte) :=
  (((it.openMoves (s.movesNow it)).flatMap fun m => m.reads.filterMap fun p => if p.loc then s.takenName it p.gran else none).eraseDups.filterMap
    fun k => it.taken.find? (·.1 == k))

/-- The data of a taken granule; that of a poisoned one is lost, and free (R12, log 4). -/
def State.heldData (s : State) (x : Nat × List Byte) : List Byte :=
  if x.2 = [] then natBytes 8 (s.freeWord (60000 + 2 * (x.1 % 2 ^ 13))).toNat ++ natBytes 8 (s.freeWord (60001 + 2 * (x.1 % 2 ^ 13))).toNat else x.2.take 16

/-- A COPY record, which begins with the item's records as they were read at issue; `cnt` is the counter of its flight. -/
def State.itemImage (s : State) (it : CopyItem) (cnt : Nat) : List Byte :=
  let held := (s.heldOf it).take 4
  it.raw.take 384 ++ zeros (384 - it.raw.length) ++
    record 0x30
      [(0, 1, it.kind.minor.1), (1, 1, cnt), (2, 1, it.gidx), (8, 8, s.nextOf it), (0x10, 16, it.status), (0x20, 8, it.kind.minor.2),
       (0x28, 1, held.length)] ++
    held.flatMap s.heldData ++ zeros (80 - 16 * held.length)

/-- An item from its record, for an issuer, without the progress that the walk gives. Inside a world a TCOLL is an .irrev one, which writes in the root
(R155, R425). -/
def CopyItem.parse (key pasid view : Nat) (block : Option Nat) (flight unit : Nat) (slots : List ShSlot) (bs : List Byte) : CopyItem :=
  let m := bs.drop 0x180
  let minor := field m 0 1
  let kind : CopyKind := if minor = 0xFF then .tier (field m 0x20 8) else if minor = 1 then .gather else if minor = 2 then .scatter
    else if minor = 3 then .coll else .copy
  let st := field m 0x10 16
  { CopyItem.new key kind pasid (if kind == .coll then 0 else view) block (field m 2 1) flight 0 unit (Tensor.parse bs) (Tensor.parse (bs.drop 128))
      (if minor = 1 ∨ minor = 2 then Tensor.parse (bs.drop 256) else Tensor.zero) (if minor = 3 then (bs.drop 256).take 64 else []) (bs.take 384) slots with
    rview := view
    state := st % 16
    reason := st / 16 % 256
    poison := st / 2 ^ 12 % 2 == 1
    oob := st / 2 ^ 13 % 2 == 1
    bytes := st / 2 ^ 16 % 2 ^ 48
    faultva := st / 2 ^ 64 % 2 ^ 64 }

/-- The progress of an item from NEXT and HELD. -/
def State.itemProgress (s : State) (it : CopyItem) (bs : List Byte) : CopyItem :=
  let next := field bs 0x188 8
  let ms := s.movesNow it
  let late := granulesOf (ms.filter fun m => decide (next ≤ m.elem))
  let it : CopyItem := { it with moved := (((granulesOf ms).zipIdx).filter fun (p : (Bool × Nat) × Nat) => !late.contains p.1).map (·.2) }
  let held := (List.range (field bs 0x1A8 1)).map fun k => (bs.drop (0x1B0 + 16 * k)).take 16
  let names := ((it.openMoves ms).flatMap fun (m : Move) => m.reads.filterMap fun p => if p.loc then s.takenName it p.gran else none).eraseDups
  { it with taken := if it.src.fetake then names.zip held else [] }

/-! ## Matrix state: R407 -/

/-- Weights, format codes and poison marks of a bank. -/
def MxBank.weights (b : MxBank) : List Byte :=
  (List.range 128).flatMap fun k => (List.range 128).flatMap fun n => natBytes 2 (((b.cols[n]?).getD []).getD k 0)
def MxBank.formats (b : MxBank) : List Byte :=
  if b.odd = [] then List.replicate 16384 (BitVec.ofNat 8 b.fmt)
  else (List.range 128).flatMap fun k => (List.range 128).map fun n => BitVec.ofNat 8 (b.code n k)
def MxBank.marks (b : MxBank) : List Byte :=
  if b.bad = [] then zeros 0x800
  else (List.range 128).flatMap fun k => natBytes 16 (((List.range 128).filter fun n => ((b.bad[n]?).getD 0).getLsbD k).map (2 ^ ·)).sum

/-- A weight tile image. -/
def MxWeights.image (w : MxWeights) : List Byte :=
  w.b0.weights ++ w.b1.weights ++ w.b0.formats ++ w.b1.formats ++ w.b0.marks ++ w.b1.marks ++
    natBytes 4 w.b0.scale.toNat ++ natBytes 4 w.b1.scale.toNat ++ natBytes 8 (bit w.one)

/-- A bank from its place in a weight tile image. -/
def MxBank.parse (bs : List Byte) (k : Nat) : MxBank :=
  let at_ (o n : Nat) : List Byte := (bs.drop o).take n
  let w := at_ (0x8000 * k) 0x8000
  let marks := at_ (0x18000 + 0x800 * k) 0x800
  let codes := at_ (0x10000 + 0x4000 * k) 0x4000
  let fmt := field codes 0 1
  { fmt := fmt
    odd := (codes.zipIdx).filterMap fun x => if x.1.toNat = fmt then none else some (128 * (x.2 % 128) + x.2 / 128, x.1.toNat)
    scale := BitVec.ofNat 32 (field bs (0x19000 + 4 * k) 4)
    bad := if marks.all (· == 0) then []
      else (List.range 128).map fun n => BitVec.ofNat 128 (((List.range 128).filter fun r => ((marks[16 * r + n / 8]?).getD 0).getLsbD (n % 8)).map (2 ^ ·)).sum
    cols := if w.all (· == 0) then [] else (List.range 128).map fun n => (List.range 128).map fun r => field w (2 * (128 * r + n)) 2 }

/-- The weight tiles of the cells that an allocation owns, by segment and column tile; a pane is one column tile's segments. -/
def MxAlloc.cells (a : MxAlloc) : List (Nat × Nat) :=
  if a.mode = 1 then (List.range 8).flatMap fun sg => (List.range 8).map fun c => (sg, c)
  else (List.range 4).flatMap fun sg => (List.range 4).map fun c => (sg, c)

/-- The MATRIX section of a block's allocation, which it may lack, and its queued entries; `cnt` gives an entry's counter. The contents of tiles and
cells are left out where `bare` says so, with NTILE 0. -/
def matrixImage (bare : Bool) (a : Option MxAlloc) (es : List MxEntry) (cnt : MxEntry → Nat) : List Byte :=
  let tiles := match a with
    | some (a : MxAlloc) => (a.tiles.map fun (t : MxTile) => t.num).mergeSort
    | none => []
  record 64 [(0, 1, (a.map (·.mode)).getD 0), (1, 1, (a.map (·.pane)).getD 0), (2, 1, if bare then 0 else tiles.length), (3, 1, es.length), (4, 4, (tiles.map (2 ^ ·)).sum)] ++
    (match (if bare then Option.none else a : Option MxAlloc) with
      | some a => tiles.flatMap (fun k => (a.tile k).image) ++ a.cells.flatMap fun c => (a.weight c.1 c.2).image
      | none => []) ++
    es.flatMap fun e =>
      (e.parm.take 128 ++ zeros (128 - e.parm.length)) ++
        record 128 [(0, 1, e.op + 1), (1, 1, cnt e), (2, 1, e.gidx), (8, 4, e.mask.toNat)]

/-- The allocation of a MATRIX section. -/
def MxAlloc.parse (cluster block : Nat) (bs : List Byte) : Option MxAlloc :=
  if field bs 0 1 = 0 then none
  else
    let tiles := (List.range 32).filter fun k => field bs 4 4 / 2 ^ k % 2 == 1
    let a : MxAlloc := ⟨cluster, block, field bs 0 1, field bs 1 1, (tiles.zipIdx).map fun (t, i) => MxTile.ofImage t (bs.drop (64 + 0x10040 * i)) false, [], [], []⟩
    let o := 64 + 0x10040 * tiles.length
    if field bs 2 1 = 0 then some { a with tiles := tiles.map MxTile.clean }
    else some { a with weights := (a.cells.zipIdx).map fun (c, i) =>
      let w := bs.drop (o + 0x19010 * i)
      ⟨c.1, c.2, .parse w 0, .parse w 1, field w 0x19008 1 % 2 == 1⟩ }

/-- The offset of the entries of a MATRIX section. -/
def matrixEntriesAt (bs : List Byte) : Nat :=
  let n := field bs 2 1
  64 + 0x10040 * n + 0x19010 * (if n = 0 then 0 else if field bs 0 1 = 1 then 64 else 16)

/-! ## What the format lacks: for the firmware's section (log 60) -/

/-- A list after its length. -/
def counted (xs : List Nat) : List Nat := xs.length :: xs
/-- A list that `counted` has written, and what follows it. -/
def uncount : List Nat → List Nat × List Nat
  | [] => ([], [])
  | n :: xs => (xs.take n, xs.drop n)
/-- An optional number as one number, and back. -/
def optNat (o : Option Nat) : Nat := match o with | some n => n + 1 | none => 0
def natOpt (n : Nat) : Option Nat := if n = 0 then none else some (n - 1)
/-- Pieces of n numbers. -/
def inChunks (n : Nat) (xs : List Nat) : List (List Nat) := (List.range (xs.length / max 1 n)).map fun k => (xs.drop (n * k)).take n
/-- Number k of a piece. -/
def nth (xs : List Nat) (k : Nat) : Nat := (xs[k]?).getD 0

/-- The code of a register. -/
def RegRef.code : RegRef → Nat
  | .vec r => r
  | .sca r => 0x100 + r
  | .prd r => 0x200 + r
  | .wlk r => 0x300 + r
/-- The register of a code. -/
def RegRef.ofCode (k : Nat) : RegRef :=
  match k / 0x100 with
  | 0 => .vec (k % 0x100)
  | 1 => .sca (k % 0x100)
  | 2 => .prd (k % 0x100)
  | _ => .wlk (k % 0x100)

/-- A deferred fault that no operand-log entry holds. -/
def Deferred.extra (d : Deferred) : List Nat :=
  [d.trap.cause, d.trap.xaddr.toNat, d.trap.xinfo.toNat, d.trap.stat.toNat, bit d.trap.defer, optNat (d.trap.xpc.map (·.toNat)),
    optNat (d.trap.xscr.map (·.toNat)), d.cnt.toNat, d.seq, bit d.dec + 2 * bit d.resume] ++ d.dests.map RegRef.code
/-- It, from those numbers. -/
def Deferred.ofExtra (xs : List Nat) : Deferred :=
  let v (k : Nat) : DWord := BitVec.ofNat 64 (nth xs k)
  let pc (k : Nat) : Option (BitVec 57) := (natOpt (nth xs k)).map (BitVec.ofNat 57 ·)
  ⟨⟨nth xs 0, v 1, v 2, BitVec.ofNat 20 (nth xs 3), nth xs 4 == 1, pc 5, pc 6⟩, BitVec.ofNat 4 (nth xs 7), (xs.drop 10).map RegRef.ofCode, nth xs 8, 0,
    nth xs 9 % 2 == 1, nth xs 9 / 2 == 1⟩

/-- The writes of a SNAP: a colour, or both were busy (R458). -/
def snapAnswer (colour : Option Nat) (prd dst : Nat) : List RegWrite :=
  match colour with
  | some k => [.sca dst (BitVec.ofNat 64 k), .prd prd allOnes allOnes]
  | none => [.sca dst allOnes, .prd prd allOnes 0]

/-- What is left of an instruction that waits for the end of other work: a code and five numbers. -/
def FlightOp.code : FlightOp → List Nat
  | .choose _ made dst => [bit made, 0, dst, 0, 0, 0]
  | .mxfree => [2, 0, 0, 0, 0, 0]
  | .mxalloc n mode dst => [3, n + 64 * mode, dst, 0, 0, 0]
  | .tsched wait layer => [4 + bit wait, layer, 0, 0, 0, 0]
  | .snap colour _ prd dst => [6, prd + 16 * optNat colour, dst, 0, 0, 0]
  | .febits full b first n shared => [7, bit full, bit shared, b, first, n]
  | .reduce set phase op dst => [8 + op.toNat, set, dst, phase, 0, 0]
  | _ => []
/-- It, from its numbers, with the register writes known already: names begin at `base`, and the CHOOSEs act on a set; a SNAP has its answer, and one
without an answer finds no colour free. -/
def flightOpOf (base set : Nat) (xs : List Nat) : FlightOp × List RegWrite × List RegRef :=
  let dst := nth xs 2
  match nth xs 0 with
  | 2 => (.mxfree, [], [])
  | 3 => (.mxalloc (nth xs 1 % 64) (nth xs 1 / 64) dst, [], [.sca dst])
  | 4 => (.tsched false (nth xs 1), [], [])
  | 5 => (.tsched true (nth xs 1), [], [])
  | 6 =>
    let prd := nth xs 1 % 16
    (.result, snapAnswer (natOpt (nth xs 1 / 16)) prd dst, [.sca dst, .prd prd])
  | 7 => (.febits (nth xs 1 == 1) (base + nth xs 3) (nth xs 4) (nth xs 5) (dst == 1), [], [])
  | 8 => (.reduce (nth xs 1) (nth xs 3) 0 dst, [], [.sca dst])
  | 9 => (.reduce (nth xs 1) (nth xs 3) 1 dst, [], [.sca dst])
  | 10 => (.reduce (nth xs 1) (nth xs 3) 2 dst, [], [.sca dst])
  | 11 => (.reduce (nth xs 1) (nth xs 3) 3 dst, [], [.sca dst])
  | k => (.choose set (k == 1) dst, [], [.sca dst])

/-- What the GROUP record does not hold of a group: pending table writes, masks of the banked latches, arrivals, waits, poison, faults recorded
outside the operand log, CHOOSEs. -/
def Group.extra (g : Group) : List Nat :=
  counted ([g.handler.exits.toNat, g.handler.blk.toNat, g.act.toNat, g.blk.toNat, g.yld.toNat,
      bit g.actW.isSome + 2 * bit g.blkW.isSome + 4 * bit g.yldW.isSome + 8 * bit (g.hold == .spawn) + 16 * bit g.shadow + 32 * bit g.fenced, g.shSlot, g.lastPc.toNat,
      g.lastRun.toNat] ++ g.banked.latches.flatMap fun l => [l.mask.toNat, l.ready]) ++
    counted (g.arrivals.flatMap fun a => [a.bar.level.code, a.bar.id] ++ a.count.toList) ++
    counted ((List.range 64).flatMap fun i => match g.barw.get i with | some w => [w.phase, optNat w.scope] | none => [0, 0]) ++
    counted (g.poison.map RegRef.code) ++
    counted ((g.deferred.filter fun d => d.key == 0).flatMap fun d => counted d.extra) ++
    counted (g.flights.flatMap fun f => match f.op.code with
      | [] => []
      | xs => [f.word.toNat, f.pc.toNat] ++ xs)

/-- Lists that `counted` has written one after the other. -/
def uncountAll : Nat → List Nat → List (List Nat)
  | 0, _ => []
  | n + 1, xs => if xs = [] then [] else (uncount xs).1 :: uncountAll n (uncount xs).2

/-- A group takes what its record lacks; names begin at `base`, and its CHOOSEs act on the set of this key. -/
def Group.takeExtra (g : Group) (base set : Nat) (xs : List Nat) : Group :=
  match uncountAll 6 xs with
  | [m, ar, bw, po, de, ch] =>
    let v (k : Nat) : DWord := BitVec.ofNat 64 (nth m k)
    let on (k : Nat) : Bool := nth m 5 / 2 ^ k % 2 == 1
    { g with
      act := v 2
      blk := v 3
      yld := v 4
      actW := if on 0 then some g.act else none
      blkW := if on 1 then some g.blk else none
      yldW := if on 2 then some g.yld else none
      hold := if on 3 then .spawn else g.hold
      shadow := on 4
      fenced := on 5
      shSlot := nth m 6
      lastPc := BitVec.ofNat 57 (nth m 7)
      lastRun := v 8
      handler := { g.handler with exits := v 0, blk := v 1 }
      banked := { g.banked with latches := (g.banked.latches.zipIdx).map fun (l, k) => { l with mask := v (9 + 2 * k), ready := nth m (10 + 2 * k) } }
      arrivals := (inChunks 66 ar).map fun x => ⟨⟨BarLevel.ofCode (nth x 0), nth x 1⟩, Lanes.ofFn fun i => nth x (2 + i)⟩
      barw := Lanes.ofFn fun i => (g.barw.get i).map fun w => { w with phase := nth bw (2 * i), scope := natOpt (nth bw (2 * i + 1)) }
      poison := po.map RegRef.ofCode
      deferred := g.deferred ++ (uncountAll de.length de).map fun x => let d := Deferred.ofExtra x; { d with seq := base + d.seq }
      flights := g.flights ++ (inChunks 8 ch).zipIdx.map fun (x, k) =>
        let w : DWord := BitVec.ofNat 64 (nth x 0)
        let (op, ws, rs) := flightOpOf base set (x.drop 2)
        ⟨k, w, BitVec.ofNat 57 (nth x 1), none, (F64.ofWord w).cnt, ws, rs, 0, [], op⟩ }
  | _ => g

/-- Only threads that wait in a BAR have a barrier. -/
def Group.trimWaits (g : Group) : Group :=
  { g with barw := Lanes.ofFn fun i => if lane (g.blk ||| g.handler.blk) i then g.barw.get i else none }

/-! ## Block images -/

/-- The barrier arrivals of a block's groups, as BBAR gives them. -/
def State.bbar (s : State) (b : Block) (k : Nat) : Nat :=
  if !b.bcells.contains k then 0
  else
    let r : BarRef := ⟨.blk, k⟩
    let p := (s.blockArrived b.key r).getD 0
    let n (q : Nat) : Nat := (s.groups.filter fun g => g.block == b.key && (match g.arrived r with | some a => decide (q < a) | none => false)).length
    p % 2 ^ 16 + 2 ^ 16 * (n p % 128) + 2 ^ 23 * (n (p + 1) % 128) + 2 ^ 31

/-- The BLOCK section (R403). -/
def State.blockRecord (s : State) (b : Block) : List Byte :=
  let l := s.launch? b.launch
  let sets := (l.map fun l => l.setsOf b.lin).getD []
  let spawned := s.groups.any fun g => g.block == b.key && g.hold == .spawn
  record 512
    ([(0, 4, (l.map (·.rc.launchId)).getD 0), (4, 4, b.lin), (8, 4, b.bx), (0xC, 4, b.byy), (0x10, 4, b.bz), (0x14, 2, b.ngroups),
      (0x16, 2, bit b.wide + 2 * bit spawned + 4 * bit (b.view != 0)), (0x18, 8, b.issued), (0x20, 4, b.vault.size),
      (0x24, 4, (b.share.map (·.1.toNat)).getD 0), (0x28, 1, (b.share.map (·.2)).getD 0xFF), (0x29, 1, sets.length),
      (0x2E, 1, (l.map (·.nest)).getD 0), (0x30, 4, b.children)] ++
      ((sets.zipIdx).map fun (j, i) => (0x2A + i, 1, j)) ++ (List.range 16).map fun k => (0x40 + 4 * k, 4, s.bbar b k))

/-- The GROUP records of a block, one for each index: that of a group that has completed is zero (log 60). -/
def groupRecords (b : Block) (gs : List Group) : List Byte :=
  (List.range b.ngroups).flatMap fun i => match gs.find? (·.gidx == i) with
    | some g => g.image
    | none => zeros 5376

/-- The groups of a block in their order. -/
def State.groupsOf (s : State) (key : Nat) : List Group := (s.groups.filter (·.block == key)).mergeSort fun x y => decide (x.gidx ≤ y.gidx)

/-- An optional integer as a number, and back. -/
def optInt : Option Int → Nat
  | none => 0
  | some (.ofNat n) => 2 * n + 1
  | some (.negSucc n) => 2 * n + 2
def intOpt (k : Nat) : Option Int := if k = 0 then none else if k % 2 = 1 then some (.ofNat (k / 2)) else some (.negSucc (k / 2 - 1))

/-- What a COPY record does not hold of an item: where it installs, writes and reads, its poisoned granules, its free choices, the
granules, values and chunks that it has moved, its index values, the names of what it holds, which of that is poisoned, and its data beyond the fourth,
and the pages answered fatal. -/
def State.itemExtra (s : State) (it : CopyItem) : List Nat :=
  counted [bit it.install, it.view, it.rview, it.npoison, it.seed] ++ counted it.moved ++ counted (it.wrote.flatMap fun x => [x.1, x.2]) ++ counted it.got ++ counted (match it.rows with | some rs => 1 :: rs.map optInt | none => []) ++
    counted ((s.heldOf it).flatMap fun x => [x.1 / 2 ^ 32, x.1 % 2 ^ 32, bit (x.2 == []), leNat x.2 % 2 ^ 64, leNat x.2 / 2 ^ 64]) ++ counted it.refused
/-- An item takes it, and the data that it holds from its record; names begin at `base`. -/
def CopyItem.takeExtra (it : CopyItem) (base : Nat) (bs : List Byte) (xs : List Nat) : CopyItem :=
  match uncountAll 7 xs with
  | [m, mv, wr, got, rs, hd, rf] =>
    { it with
      install := nth m 0 == 1
      view := nth m 1
      rview := nth m 2
      npoison := nth m 3
      seed := nth m 4
      moved := mv
      wrote := (inChunks 2 wr).map fun x => (nth x 0, nth x 1)
      got := got
      rows := match rs with
        | [] => none
        | _ :: rs => some (rs.map intOpt)
      taken := ((inChunks 5 hd).zipIdx).map fun (x, k) =>
        ((base + nth x 0) * 2 ^ 32 + nth x 1,
          if nth x 2 = 1 then [] else if k < 4 then (bs.drop (0x1B0 + 16 * k)).take 16 else natBytes 16 (nth x 3 + 2 ^ 64 * nth x 4))
      refused := rf }
  | _ => it

/-- The items of a block's groups, in their order. -/
def Parked.groupItems (p : Parked) (gidx : Nat) : List CopyItem := p.items.filter fun i => i.gidx == gidx && !i.kind.isTier

/-- The order of issue of a group's flights: where each stands that a restore brings back, in the order in which it does so: those of `Group.extra`,
operand-log entries, waiting accesses, items, matrix entries, fabric requests. -/
def State.flightOrder (s : State) (g : Group) (p : Parked) : List Nat :=
  let logs := ((s.oplogOf g).mergeSort fun x y => decide (x.1 ≤ y.1)).map (·.2.1)
  let keys := (g.flights.filter fun f => f.op.code != []).map (·.key) ++ logs ++ (s.waitsOf g).map (·.1) ++ (p.groupItems g.gidx).map (·.flight) ++
    (p.entries.filter (·.gidx == g.gidx)).map (·.flight) ++ s.fabric.filterMap fun r => if r.block == g.block && r.gidx == g.gidx then r.flight else none
  keys.map fun k => g.flights.findIdx (·.key == k)
/-- Flights as they were issued, from the order in which a restore has brought them back. -/
def Group.reorder (g : Group) (order : List Nat) : Group :=
  if order.length != g.flights.length then g
  else { g with flights := ((g.flights.zip order).mergeSort fun x y => decide (x.2 ≤ y.2)).map (·.1) }

/-- What the firmware's section holds of a block: its key and its launch, the names of its groups by
index, what each item's record lacks, the order of each
group's flights, its exhausted barriers, and what each group's record lacks. -/
def State.blockExtra (s : State) (b : Block) (p : Parked) : List Nat :=
  let gs := s.groupsOf b.key
  let s' : State := { s with olog := s.olog ++ p.logs, items := s.items ++ p.items }
  let named (i : Nat) : Nat := optNat ((gs.find? (·.gidx == i)).map Group.recordId)
  [b.key, b.launch] ++ counted ((List.range b.ngroups).map named) ++ counted (p.items.flatMap fun i => counted (s'.itemExtra i)) ++
    counted (gs.flatMap fun g => counted (s'.flightOrder g p)) ++ counted b.xcells ++ gs.flatMap fun g => counted g.extra

/-- A block's image, with what its units hold in `p`; `bare` leaves out what a snapshot's other records hold (R451). -/
def State.blockImage (s : State) (b : Block) (p : Parked) (why : Nat) (bare : Bool) : List Byte :=
  let gs := s.groupsOf b.key
  let l := s.launch? b.launch
  let s' : State := { s with olog := s.olog ++ p.logs, items := s.items ++ p.items }
  let cntOf (gidx flight : Nat) : Nat :=
    ((gs.find? (·.gidx == gidx)).bind fun g => (g.flight? flight).map fun f => f.cnt.toNat).getD 15
  let logs := ((gs.flatMap s'.oplogOf).mergeSort fun x y => decide (x.1 ≤ y.1)).map (·.2.2)
  let waits := (gs.flatMap s'.waitsOf).map (·.2)
  let es := p.entries
  let v := if bare then { b.vault with size := 0, full := [], poison := [] } else b.vault
  let some_ (x : Section) : List Section := if x.count = 0 then [] else [x]
  image 1 why (((s.ctx? b.pasid).map (·.shape.toNat)).getD 0) ((l.map (·.rc.launchId)).getD 0) b.lin p.tick.toNat
    ([⟨0x0002, 1, s.blockRecord b⟩] ++
      (if bare then [] else [⟨0x0003, b.ngroups, groupRecords b gs⟩, ⟨0x0004, (gs.map (·.alloc)).sum, gs.flatMap Group.rowsImage⟩]) ++
      [⟨0x0005, 1, v.image p.segs⟩] ++
      some_ ⟨0x0006, logs.length, logs.flatten⟩ ++ some_ ⟨0x0007, waits.length, waits.flatten⟩ ++
      some_ ⟨0x0008, p.items.length, p.items.flatMap fun it => s'.itemImage it (if it.kind.minor.1 = 0xFF then 15 else cntOf it.gidx it.flight)⟩ ++
      (if p.allocs = [] then [] else [⟨0x0009, 1, matrixImage bare p.allocs.head? es fun e => cntOf e.gidx e.flight⟩]))

end Sys2Proof.Machine
end

