-- ==== Sys2Proof/Machine/Carry.lean ====
section
/-! DEFINITION. Context images (R401, R402, R408, R435, R456): the sections of a context, and loading an image into a created context (R409). -/

namespace Sys2Proof.Machine

/-! ## Sections -/

/-- CTX (R402). -/
def Context.image (c : Context) : List Byte :=
  record 64 [(0, 8, c.xvec.toNat), (8, 8, c.xdump.toNat), (0x10, 8, c.budget.toNat + 2 ^ 8 * c.live.toNat + 2 ^ 16 * c.grant.toNat)]

/-- A BARRIER record: `blocks` arrive at phases under the name that `own` gives the barrier. -/
def State.barrierRecord (s : State) (l : Launch) (kind id set phase partial_ : Nat) (member : Nat → Bool) (own : Nat → BarRef) : List Byte :=
  let n (q : Nat) : Nat := (s.blocks.filter fun b => b.launch == l.key && member b.lin &&
    (match s.blockArrived b.key (own b.lin) with | some a => decide (q < a) | none => false)).length
  record 24 [(0, 1, kind), (1, 1, id), (2, 2, set), (4, 4, l.rc.launchId), (8, 4, phase), (0xC, 2, n phase), (0xE, 2, n (phase + 1)), (0x10, 8, partial_)]

/-- The BARRIER records of a launch (R408). -/
def State.barrierRecords (s : State) (l : Launch) : List (List Byte) :=
  ((List.range l.sets.length).map fun j =>
    let p := (s.setPhase l j).getD 0
    let cs := l.contribs.filter fun c => c.set == j && c.phase == p
    s.barrierRecord l 0 0 j p (reduceContribs ((cs.head?.map (·.op)).getD 0) (cs.map (·.value))).toNat
      (fun lin => (l.setsOf lin).contains j) fun lin => ⟨.set, (l.setsOf lin).findIdx (· == j)⟩) ++
  ((List.range 4).filter fun k => l.rc.lbars.getLsbD k).map fun k =>
    s.barrierRecord l 1 k 0 ((s.launchPhase l (fun _ => true) fun _ => ⟨.launch, k⟩).getD 0) 0 (fun _ => true) fun _ => ⟨.launch, k⟩

/-- The WINDOW section of a context. -/
def State.windowSection (s : State) (pasid : Nat) : List Byte :=
  (List.range 4096).flatMap fun w =>
    let n := s.counts pasid w
    record 16 [(0, 8, n.tgt.toNat), (8, 4, n.src.toNat), (0xC, 1, n.err.toNat)]

/-- The code of a world's state (R419). -/
def WorldState.code : WorldState → Nat
  | .running => 1
  | .forked => 2
  | .done => 3
  | .abandoned => 4
/-- The state of a code. -/
def WorldState.ofCode (k : Nat) : WorldState := if k = 2 then .forked else if k = 3 then .done else if k = 4 then .abandoned else .running

/-- An outbox entry (R435). -/
def OutEntry.image : OutEntry → List Byte
  | .put loc src desc off => record 144 [(1, 1, bit loc), (8, 8, src.toNat), (0x10, 8, desc.toNat), (0x18, 8, off.toNat)]
  | .nmo parm _ => record 16 [(0, 1, 1)] ++ parm.take 128 ++ zeros (128 - parm.length)
/-- The order of an NMO, which its image lacks: it stands in the firmware's section (log 60). -/
def OutEntry.ord : OutEntry → Nat
  | .put _ _ _ _ => 0
  | .nmo _ ord => ord.toNat
/-- It takes it. -/
def OutEntry.withOrd (o : Nat) : OutEntry → OutEntry
  | .nmo parm _ => .nmo parm (BitVec.ofNat 2 o)
  | x => x
/-- An outbox entry from its 144 bytes. -/
def OutEntry.parse (bs : List Byte) : OutEntry :=
  let w (o : Nat) : DWord := BitVec.ofNat 64 (field bs o 8)
  if field bs 0 1 = 0 then .put (field bs 1 1 % 2 == 1) (w 8) (w 0x10) (w 0x18) else .nmo ((bs.drop 0x10).take 128) 0

/-- The WORLD section (R435); `blocks` are those of the BLOCKIMG sections in their order. -/
def State.worldSection (s : State) (c : Context) (blocks : List Nat) : List Byte :=
  let ws := s.views.filter fun w => w.pasid == c.pasid
  let start := 16 + 64 * ws.length
  let offs := (List.range ws.length).map fun k => start + 144 * ((ws.take k).map (·.outbox.length)).sum
  record 16 [(0, 4, ws.length), (4, 4, c.vpsize.toNat), (8, 8, c.vpbase.toNat)] ++
    ((ws.zip offs).flatMap fun (w, o) =>
      let set := s.sib? w.set
      let id := ((set.bind fun x => s.launch? x.launch).map (·.rc.launchId)).getD 0
      let img := blocks.findIdx (· == w.block)
      record 64
        [(0, 1, w.num), (1, 1, w.parent), (2, 1, w.state.code), (3, 1, w.depth), (4, 1, w.index), (5, 1, w.nsib),
         (6, 1, bit w.pinned + 2 * bit w.bid.isSome), (8, 8, (w.bid.getD 0).toNat), (0x10, 4, id), (0x14, 4, (set.map (·.lin)).getD 0),
         (0x18, 4, if img < blocks.length then img else 0xFFFFFFFF), (0x1C, 2, w.outbox.length), (0x20, 8, if w.outbox = [] then 0 else o)]) ++
    ws.flatMap fun w => w.outbox.flatMap OutEntry.image

/-- The code of a colour's state (R456). -/
def ColourState.code : ColourState → Nat
  | .free => 0
  | .cutting => 1
  | .recording => 2
  | .closing => 3

/-- The COLOUR section (R456). -/
def State.colourSection (s : State) (pasid : Nat) : List Byte :=
  (List.range 2).flatMap fun k => match s.colours.find? fun c => c.pasid == pasid && c.num == k with
    | some c => record 16 [(0, 1, c.st.code), (8, 8, c.seq)] ++ c.desc.take 48 ++ zeros (48 - c.desc.length)
    | none => zeros 64

/-! ## The firmware's section 0x8000 (log 60) -/

/-- A launch record as its 128 bytes hold it (R337). -/
def LaunchRec.image (r : LaunchRec) : List Byte :=
  record 128
    [(0, 8, r.entry), (8, 4, r.launchId), (0xC, 2, r.groups), (0xE, 1, r.regs), (0xF, 1, r.sregs), (0x10, 4, r.vault), (0x14, 4, r.gridx),
     (0x18, 4, r.gridy), (0x1C, 4, r.gridz), (0x20, 1, r.cls), (0x21, 1, r.lbars.toNat), (0x22, 1, r.mxpri), (0x23, 1, r.flags.toNat),
     (0x24, 4, r.drain), (0x28, 8, r.args.toNat), (0x30, 8, r.done), (0x38, 8, r.setsVa), (0x40, 2, r.nsets)]

/-- A live launch as words. -/
def Launch.asWords (l : Launch) : List Nat :=
  counted ([l.key, l.addr, l.nest, optNat l.parent, optNat l.queue, l.nextBlk, l.completed, l.noworld, l.issuedSum, l.ran, l.owed] ++ wordsOf l.rc.image) ++
    counted l.ahead ++ counted l.again ++ counted l.withdrawn ++ counted (l.fetched.flatMap fun x => [x.1, x.2]) ++
    counted (l.contribs.flatMap fun c => [c.set, c.phase, c.lin, c.gidx, c.op.toNat, c.value.toNat]) ++ counted l.lcells ++
    counted (l.keys.flatMap fun k => [k.1, k.2]) ++ counted (l.sets.flatMap fun e => counted ([e.kind, e.place, bit e.gang, bit e.strict, bit e.inTable] ++ e.lo ++ e.hi ++ e.bits))

/-- A set entry from its words. -/
def SetEntry.ofWords (xs : List Nat) : SetEntry :=
  ⟨nth xs 0, nth xs 1, nth xs 2 == 1, nth xs 3 == 1, (xs.drop 5).take 3, (xs.drop 8).take 3, xs.drop 11, nth xs 4 == 1⟩

/-- A launch from its words; names begin at `base`. -/
def Launch.ofWords (base pasid : Nat) (xs : List Nat) : Launch :=
  let ys := uncountAll 9 xs
  let part (k : Nat) : List Nat := (ys[k]?).getD []
  let m := part 0
  let rc := LaunchRec.parse (words (m.drop 11))
  { Launch.of (base + nth m 0) pasid (nth m 1) rc ((uncountAll (part 8).length (part 8)).map SetEntry.ofWords) (nth m 2)
      ((natOpt (nth m 3)).map (base + ·)) (natOpt (nth m 4)) with
    nextBlk := nth m 5
    completed := nth m 6
    noworld := nth m 7
    issuedSum := nth m 8
    ran := nth m 9
    owed := nth m 10
    ahead := part 1
    again := part 2
    withdrawn := part 3
    fetched := (inChunks 2 (part 4)).map fun x => (nth x 0, base + nth x 1)
    contribs := (inChunks 6 (part 5)).map fun x => ⟨nth x 0, nth x 1, nth x 2, nth x 3, BitVec.ofNat 2 (nth x 4), BitVec.ofNat 64 (nth x 5)⟩
    lcells := part 6
    keys := (inChunks 2 (part 7)).map fun x => (nth x 0, nth x 1) }

/-- A queue as words, and from them; a prologue that runs is begun again where its block does not come with it (R438). -/
def Queue.asWords (q : Queue) : List Nat :=
  counted ([q.num, bit q.valid, q.ring, q.log2n, q.weight, q.widx, q.ridx, q.qstat, q.rd, bit q.stopped, q.owed] ++
    q.packets.flatMap fun p => [p.idx, bit p.started, optNat p.launch, p.runs, bit p.again, optNat p.pro] ++ wordsOf p.bytes)
/-- A queue from its words. -/
def Queue.ofWords (base pasid : Nat) (xs : List Nat) : Queue :=
  { pasid := pasid, num := nth xs 0, valid := nth xs 1 == 1, ring := nth xs 2, log2n := nth xs 3, weight := nth xs 4, widx := nth xs 5
    ridx := nth xs 6, qstat := nth xs 7, rd := nth xs 8, k := 0, due := 0, stopped := nth xs 9 == 1, deficit := 0, preempt := none
    asked := false, upto := 0, owed := nth xs 10
    packets := (inChunks 14 (xs.drop 11)).map fun p =>
      ⟨nth p 0, words (p.drop 6), nth p 1 == 1, false, (natOpt (nth p 2)).map (base + ·), (natOpt (nth p 5)).map (base + ·), nth p 3, nth p 4 == 1, 0⟩ }

/-- A queue joins the others; each packet that it has read goes to a batten core of its own (R372). -/
def State.putQueue (s : State) (q : Queue) : State :=
  q.packets.foldl (fun (s : State) p => let core := s.battenCore; s.onQueue q.pasid q.num fun x => { x with packets := x.packets ++ [{ p with core := core }] })
    { s with queues := s.queues ++ [{ q with packets := [] }] }

/-- A member slot as a number, and back. -/
def ShSlot.word : ShSlot → Nat
  | .never => 0
  | .revoked => 1
  | .held b => b + 2
def ShSlot.ofWord (base k : Nat) : ShSlot := if k = 0 then .never else if k = 1 then .revoked else .held (base + (k - 2))

/-- The logical chiplet, reticle × 4 + chiplet, that a placement puts on a physical chiplet of a package (R455). -/
def Context.logicalChip (c : Context) (pkg chip : Nat) : Option Nat :=
  let sh := Shape.of c.shape
  ((List.range 8).filter fun k => decide (k / 4 < sh.ret) && decide (k % 4 < sh.chip)).find? fun k =>
    chipOf (physicalId c.place (BitVec.ofNat 32 (2 ^ 15 * pkg + 2 ^ 14 * (k / 4) + 2 ^ 12 * (k % 4)))) == chip

/-- A fabric request that was outstanding at a cut (R443), with its flight; its address is translated again (R401). -/
def fabWords (r : FabReq) (f : Option Flight) : List Nat :=
  counted [r.key, match r.kind with | .put => 0 | .get => 1 | .nmo => 2, r.view, r.block, r.gidx, optNat r.flight, bit r.loc, r.addr, r.win, r.off, r.n,
      r.target, bit r.host, r.ord.toNat, bit r.nores, bit r.counted, r.code, r.codeAt] ++
    counted r.todo ++ counted r.left ++ counted (r.parm.map (·.toNat)) ++ counted (r.slots.map ShSlot.word) ++ counted r.refused ++
    counted (match r.result with | none => [] | some (ws, n) => n :: ws.map (·.toNat)) ++
    counted (match f with | none => [] | some f => [f.word.toNat, f.pc.toNat] ++ f.dests.map RegRef.code) ++
    counted (r.data.flatMap fun c => counted (c.off :: c.bytes.length :: c.bytes.map (·.toNat) ++ c.bad))

/-- It, from its words, with its flight; names begin at `base`. -/
def fabOfWords (base pasid : Nat) (xs : List Nat) : FabReq × Option Flight :=
  let ys := uncountAll 9 xs
  let part (k : Nat) : List Nat := (ys[k]?).getD []
  let m := part 0
  let byte (x : Nat) : Byte := BitVec.ofNat 8 x
  let chunks := (uncountAll (part 8).length (part 8)).map fun c =>
    (⟨nth c 0, ((c.drop 2).take (nth c 1)).map byte, c.drop (2 + nth c 1)⟩ : FabChunk)
  let f : Option Flight := match part 7 with
    | w :: pc :: rs =>
      let w : DWord := BitVec.ofNat 64 w
      some ⟨base + nth m 5 - 1, w, BitVec.ofNat 57 pc, none, (F64.ofWord w).cnt, [], rs.map RegRef.ofCode, 0, [], .fabric (base + nth m 0)⟩
    | _ => none
  ({ key := base + nth m 0, kind := if nth m 1 = 0 then .put else if nth m 1 = 1 then .get else .nmo, pasid := pasid, view := nth m 2
     block := base + nth m 3, gidx := nth m 4, flight := (natOpt (nth m 5)).map (base + ·), loc := nth m 6 == 1, slots := (part 4).map (ShSlot.ofWord base)
     addr := nth m 7, win := nth m 8, off := nth m 9, n := nth m 10, target := nth m 11, host := nth m 12 == 1, parm := (part 3).map byte
     ord := BitVec.ofNat 2 (nth m 13), nores := nth m 14 == 1, pa := 0, arena := 0, asize := 0, todo := part 1, data := chunks
     result := match part 6 with
       | [] => none
       | n :: ws => some (ws.map fun (x : Nat) => BitVec.ofNat 64 x, n)
     counted := nth m 15 == 1, code := nth m 16, codeAt := nth m 17, refused := part 5, left := part 2, held := [] }, f)

/-- What has arrived for a context and waits in the request buffers, the PUTs of other packages so far, and the chunks of its collectives (R442), as words
and from them. -/
def State.arrivedWords (s : State) (pasid : Nat) : List Nat :=
  let nums (bs : List Byte) : List Nat := bs.map (·.toNat)
  counted ((s.inbox.filter fun a => a.pasid == pasid).flatMap fun a =>
      counted ([bit a.put, a.port, a.sender, a.tag, a.win, a.off, a.n, a.at_, a.bytes.length] ++ nums a.bytes ++ a.bad)) ++
    counted ((s.inPuts.filter fun a => a.pasid == pasid).flatMap fun a => counted ([a.sender, a.tag, a.code, a.codeAt, bit a.done] ++ a.got)) ++
    counted ((s.chunks.filter fun c => c.pasid == pasid).flatMap fun c =>
      counted ([c.seq, c.chunk, c.member, c.digest, c.bytes.length] ++ nums c.bytes ++ c.bad))
def State.loadArrived (s : State) (pasid : Nat) (inb puts chunks : List Nat) : State :=
  let each (xs : List Nat) : List (List Nat) := uncountAll xs.length xs
  let data (x : List Nat) (k : Nat) : List Byte := ((x.drop (k + 1)).take (nth x k)).map fun n => BitVec.ofNat 8 n
  let tail (x : List Nat) (k : Nat) : List Nat := x.drop (k + 1 + nth x k)
  { s with
    inbox := s.inbox ++ (each inb).map fun x => ⟨nth x 0 == 1, nth x 1, pasid, nth x 2, nth x 3, nth x 4, nth x 5, nth x 6, nth x 7, data x 8, tail x 8, []⟩
    inPuts := s.inPuts ++ (each puts).map fun x => ⟨pasid, nth x 0, nth x 1, x.drop 5, nth x 2, nth x 3, nth x 4 == 1⟩
    chunks := s.chunks ++ (each chunks).map fun x => ⟨pasid, nth x 0, nth x 1, nth x 2, nth x 3, data x 4, tail x 4⟩ }

/-- What a context holds besides: view lines, sharing groups, tier entries' states, FETCHW requests, outstanding fabric requests, the logical chiplet of
each physical one, what the records of tier items that name no block lack, the next name, the orders of NMOs in outboxes, and what has arrived. -/
def State.extraWords (s : State) (pasid : Nat) : List Nat :=
  counted ((s.vlines.filter fun l => l.pasid == pasid).flatMap fun l =>
      [l.view, l.va, l.mask.toNat % 2 ^ 64, l.mask.toNat / 2 ^ 64, l.bad.toNat, l.slot] ++ wordsOf l.data) ++
    counted ((s.sharing.filter fun g => g.pasid == pasid).flatMap fun g => g.key.toNat :: g.slots.map ShSlot.word) ++
    counted ((s.sched.filter fun e => e.pasid == pasid).flatMap fun e => [e.index, e.state, e.npoison]) ++
    counted ((s.mails.filter fun m => m.pasid == pasid).flatMap fun m =>
      [m.key, m.by_, m.id, bit m.here, m.block, m.off, m.bytes.length] ++ wordsOf (m.bytes ++ zeros (16 - m.bytes.length))) ++
    counted ((s.fabric.filter fun r => r.pasid == pasid).flatMap fun r => counted (fabWords r
      ((s.group? r.block r.gidx).bind fun g => r.flight.bind g.flight?))) ++
    counted ((List.range 8).map fun k => optNat ((s.ctx? pasid).bind fun c => c.logicalChip (s.ownPackage pasid) k)) ++
    counted ((s.items.filter fun i => i.pasid == pasid && i.block.isNone).flatMap fun i => counted (s.itemExtra i)) ++
    counted [s.nextKey] ++ counted ((s.views.filter fun w => w.pasid == pasid).flatMap fun w => w.outbox.map OutEntry.ord) ++
    s.arrivedWords pasid

/-! ## The image -/

/-- What a block's units hold, apart from its groups and its allocation. -/
def State.park (s : State) (key : Nat) : Parked where
  block := key
  items := (s.items.filter fun i => i.block == some key).map fun i => { i with pend := none, waitva := 0 }
  allocs := (s.mxAllocs.filter fun a => a.block == key) ++ (s.mxReqs.filter fun r => r.block == key).filterMap (·.image)
  entries := s.mxEntries.filter fun e => e.block == key && e.granted.isNone && e.ended == 0
  logs := s.olog.filter fun e => e.block == key && e.state != .reserved
  segs := (s.segs.filter fun g => g.block == key && !g.leaving).map fun g => (g.lpage, g.shared, g.va)
  tick := s.hbeat
  image := none

/-- The blocks of a context's image: its saved ones, or, for a snapshot's cut state, all of them. -/
def State.imageBlocks (s : State) (pasid : Nat) (bare : Bool) : List Block :=
  s.blocks.filter fun b => b.pasid == pasid && b.res != .discarded && (bare || b.res == .saved)

/-- The image of a block that stands in a context's: that of a saved one has the WHY and the HBEAT of its own save (R401). -/
def State.imageOf (s : State) (b : Block) (why : Nat) : List Byte :=
  match s.parked.find? (·.block == b.key) with
  | some p => s.blockImage b p b.why false
  | none => s.blockImage b (s.park b.key) why true

/-- The image of a context under a WHY: its saved blocks, or, for a snapshot's cut state, every block without what other records hold (R451). The image
of a block is the one of `imgs`, or is made now. -/
def State.contextImageWith (s : State) (pasid why : Nat) (bare : Bool) (imgs : List (Nat × List Byte)) : List Byte :=
  match s.ctx? pasid with
  | none => []
  | some c =>
    let bs := s.imageBlocks pasid bare
    let held (b : Block) : Parked := (s.parked.find? (·.block == b.key)).getD (s.park b.key)
    let imgs := bs.map fun b => ((imgs.find? fun x => x.1 == b.key).map (·.2)).getD (s.imageOf b why)
    let ls := s.launches.filter fun l => l.pasid == pasid && !l.torn
    let bars := ls.flatMap s.barrierRecords
    let tiers := s.items.filter fun i => i.pasid == pasid && i.block.isNone
    let some_ (x : Section) : List Section := if x.count = 0 then [] else [x]
    image 0 why c.shape.toNat 0 0 s.hbeat.toNat
      ([⟨0x0001, 1, c.image⟩] ++ some_ ⟨0x0008, tiers.length, tiers.flatMap fun i => s.itemImage i 15⟩ ++
        some_ ⟨0x000A, bars.length, bars.flatten⟩ ++ [⟨0x000B, 4096, s.windowSection pasid⟩] ++
        some_ ⟨0x000C, (s.views.filter fun w => w.pasid == pasid).length, s.worldSection c (bs.map (·.key))⟩ ++
        [⟨0x000D, 2, s.colourSection pasid⟩] ++ imgs.map (fun i => ⟨0x000E, 1, i⟩) ++
        [⟨0x8000, 1, words (counted (bs.flatMap fun b => counted (s.blockExtra b (held b))) ++ counted (ls.flatMap fun l => counted l.asWords) ++
          counted ((s.queues.filter fun q => q.pasid == pasid).flatMap Queue.asWords) ++ s.extraWords pasid)⟩])

/-- It, with every block's image made now. -/
def State.contextImage (s : State) (pasid why : Nat) (bare : Bool) : List Byte := s.contextImageWith pasid why bare []

/-- List k of the firmware's section of a context image: the blocks in the order of their images, the launches, the queues, and the lists of
`extraWords` from 3 on. -/
def firmwareList (img : List Byte) (k : Nat) : List Nat := ((uncountAll 15 (wordsOf (sectionAt (sectionsOf img) 0x8000)))[k]?).getD []
/-- What it holds of the block of an ordinal. -/
def firmwareBlock (img : List Byte) (k : Nat) : List Nat :=
  let xs := firmwareList img 0
  ((uncountAll xs.length xs)[k]?).getD []

/-! ## Loading -/

/-- The image of a context fails under a status of R409: 2 for MAGIC or CHECK, 3 for what is unknown, 4 for SHAPE. -/
def imageStatus (shape : Word) (bs : List Byte) : Nat :=
  let sub := (sectionsOf bs).filter fun x => x.type == 0xE
  if !imageSound bs || sub.any fun x => !imageSound x.bytes then 2
  else if !imageKnown bs || field bs 6 1 != 0 || sub.any fun x => !imageKnown x.bytes then 3
  else if field bs 0x14 4 != shape.toNat then 4
  else 0

/-- The image that stands at an offset of a context's save area. -/
def State.areaImage (s : State) (c : Context) (off : Nat) : List Byte :=
  s.mem.read (c.saveBase + off) (min (field (s.mem.read (c.saveBase + off) 16) 8 8) (c.saveSize - off))

/-- The images of its blocks there, by their places; none where the image itself is not one that a restore takes (R409). -/
def State.areaBlocks (s : State) (c : Context) : List (List Byte) :=
  let bs := s.areaImage c 0
  if imageStatus c.shape bs != 0 then [] else ((sectionsOf bs).filter fun x => x.type == 0xE).map (·.bytes)

/-- The image of a saved block in the save area, where firmware has written it and the host has written over it since (R409). -/
def State.rewritten (s : State) (c : Context) (p : Parked) : Option (List Byte) :=
  p.image.bind fun x => ((s.areaBlocks c)[x.1]?).bind fun bs => if bs = x.2 then none else some bs

/-- The image of a context is written at the start of its save area (R409); none where it does not fit (log 61). What the host has written over a block's
image stays. -/
def State.storeImage (s : State) (pasid why : Nat) : Option State :=
  (s.ctx? pasid).bind fun c =>
    let kept := (s.parked.filterMap fun p => (s.rewritten c p).map fun bs => (p.block, bs))
    let bs := s.contextImageWith pasid why false kept
    let mine := (s.imageBlocks pasid false).map (·.key)
    let imgs := ((sectionsOf bs).filter fun x => x.type == 0xE).map (·.bytes)
    if bs.length ≤ c.saveSize then
      some { s with
        mem := s.mem.write c.saveBase bs
        parked := s.parked.map fun p =>
          if !mine.contains p.block || kept.any (fun x => x.1 == p.block) then
            { p with image := p.image.map fun x => (if mine.contains p.block then mine.findIdx (· == p.block) else x.1, x.2) }
          else { p with image := (imgs[mine.findIdx (· == p.block)]?).map fun i => (mine.findIdx (· == p.block), i) } }
    else none

/-- Views and sets of a WORLD section; a set is the worlds of one parent, launch and block. `orders` are those of the outboxes' entries, and `block` gives
the key of a block image. -/
def State.loadWorlds (s : State) (pasid base : Nat) (bs : List Byte) (orders : List Nat) (block : Nat → Nat) (launchOf : Nat → Nat) : State :=
  let recs := (List.range (field bs 0 4)).map fun k => bs.drop (16 + 64 * k)
  let name (r : List Byte) : Nat × Nat × Nat := (field r 1 1, field r 0x10 4, field r 0x14 4)
  let names := (recs.map name).eraseDups
  let setOf (r : List Byte) : Nat := base + names.findIdx (· == name r)
  let before (k : Nat) : Nat := ((recs.take k).map fun r => field r 0x1C 2).sum
  { s with
    sibs := s.sibs ++ (names.zipIdx).map fun (n, k) =>
      (⟨base + k, pasid, launchOf n.2.1, n.1, ((recs.find? fun r => name r == n).map fun r => field r 5 1).getD 0, .openSet, 0, false, n.2.2⟩ : SibSet)
    views := s.views ++ recs.zipIdx.map fun (r, i) =>
      (⟨pasid, field r 0 1, field r 1 1, setOf r, .ofCode (field r 2 1), field r 3 1, field r 4 1, field r 5 1, field r 6 1 % 2 == 1,
        if field r 6 1 / 2 % 2 = 1 then some (BitVec.ofNat 64 (field r 8 8)) else none,
        if field r 0x18 4 = 0xFFFFFFFF then 0 else block (field r 0x18 4),
        (List.range (field r 0x1C 2)).map fun k =>
          (OutEntry.parse (bs.drop (field r 0x20 8 + 144 * k))).withOrd (nth orders (before i + k))⟩ : View) }

/-- Groups of a block image, each with its record, its rows and what the firmware adds; `recs` are records of R404 in the order of the group indices, those
of groups that have completed zero (log 60), and names begin at `base`. -/
def groupsIn (base key set age : Nat) (rows : List Byte) : Nat → List (List Byte) → List (List Nat) → List Group
  | _, [], _ => []
  | i, r :: rs, xs =>
    if r.all (· == 0) then groupsIn base key set age rows (i + 1) rs xs else
    let g := Group.parse key i (age + i) r rows
    let g := (match xs with | x :: _ => g.takeExtra base set x | [] => g).trimWaits
    g :: groupsIn base key set age (rows.drop (256 * g.alloc)) (i + 1) rs xs.tail

/-- A waiting access, WCNT or logged entry joins its group, and its log entry where it has one; the waiting lanes of an instruction with a fatal entry leave
the counter to that entry's delivery (R131). -/
def State.loadEntry (s : State) (key base : Nat) (bs : List Byte) : State × List LogEntry :=
  match (s.groupsOf key).find? fun g => g.recordId == field bs 0x10 4 with
  | none => (s, [])
  | some g =>
    let (k, s) := s.fresh
    let st := field bs 0x14 1
    let reason := field bs 0x15 1
    let level := field bs 0x16 1
    let home (a : DWord) : Nat × Nat := match s.localAt key a 1 with | .ok p => p | .error _ => (key, a.toNat % 2 ^ 24)
    match flightOf k bs (if st = 4 then .todo else .logged reason level false) home with
    | none => (s, [])
    | some f =>
      let wr := match f.op with | .access a => a.kind != .load | _ => false
      let f := if st = 4 ∧ field bs 0x28 8 ≠ 0 then { f with cnt := 15 } else f
      let s := s.onGroup key g.gidx fun g => { g with flights := g.flights ++ [f] }
      if st = 4 then (s, [])
      else
        let e : LogEntry := ⟨0, key, g.gidx, k, if st = 3 then .fatal else if st = 2 then .resolved else .pending, reason, level, wr, base + field bs 0x28 8⟩
        let lane := ((lanesOf (BitVec.ofNat 64 (field bs 0x18 8))).head?).getD 0
        let s := if st = 3 then s.deferAt ⟨key, g.gidx, k⟩ e.seq ⟨reasonCause reason, BitVec.ofNat 64 (field bs 0x20 8), 0, faultStat reason level wr false true lane,
          true, some f.pc, none⟩ f.cnt f.dests k true true else s
        (s, [e])

/-- The status record of an item that has ended is stored again, for its counter to fall once it has been (R152). -/
def State.oweStatus (s : State) (it : CopyItem) : State :=
  if it.ended && it.dst.status != 0 then { s with owed := s.owed ++ [{ it.statusStore with unit := engineUnit 0 }] } else s

/-- A copy item joins its group; it holds what the firmware adds, or what the walk from NEXT gives. -/
def State.loadItem (s : State) (b : Block) (base : Nat) (x : List Byte × List Nat) : State × List CopyItem :=
  let bs := x.1
  let (k, s) := s.fresh
  let (fk, s) := s.fresh
  let it := CopyItem.parse k b.pasid b.view (some b.key) fk 0 (s.window b.key) bs
  let it := if x.2 = [] then s.itemProgress it bs else it.takeExtra base bs x.2
  let cnt := BitVec.ofNat 4 (field bs 0x181 1)
  let tier := field bs 0x180 1 = 0xFF
  let s := s.oweStatus it
  let f : Flight := ⟨fk, 0, 0, none, cnt, [], [], 0, [], .copy k⟩
  (if tier then s else s.onGroup b.key it.gidx fun g => { g with flights := g.flights ++ [f] }, [it])

/-- A queued matrix entry joins its group. -/
def State.loadMxEntry (s : State) (b : Block) (bs : List Byte) : State × List MxEntry :=
  let (k, s) := s.fresh
  let (fk, s) := s.fresh
  let gidx := field bs 0x82 1
  let f : Flight := ⟨fk, 0, 0, none, BitVec.ofNat 4 (field bs 0x81 1), [], [], 0, [], .mxentry k⟩
  let e : MxEntry := ⟨k, 0, b.key, gidx, fk, field bs 0x80 1 - 1, bs.take 128, BitVec.ofNat 32 (field bs 0x88 4), s.window b.key, 0, none, none, 0, false, false,
    0, [], false, 0, []⟩
  (s.onGroup b.key gidx fun g => { g with flights := g.flights ++ [f] }, [e])

/-- Records of n bytes. -/
def recordsOf (n : Nat) (bs : List Byte) : List (List Byte) := (List.range (bs.length / n)).map fun k => (bs.drop (n * k)).take n

/-- Loads each record of a list, keeping what each gives. -/
def loadAll {α β : Type} (f : State → β → State × List α) (xs : List β) (s : State) : State × List α :=
  xs.foldl (fun (r : State × List α) x => let y := f r.1 x; (y.1, r.2 ++ y.2)) (s, [])

/-- Records, each with the words that the firmware's section adds to it, none where it lacks them. -/
def withExtra (rs : List (List Byte)) (xs : List (List Nat)) : List (List Byte × List Nat) := (rs.zipIdx).map fun r => (r.1, (xs[r.2]?).getD [])

/-- What of a block comes with its image or with other records: its groups' records and rows, its allocation, and what fills its tiles and cells. -/
structure Parts where
  recs   : List (List Byte)
  rows   : List Byte
  vault  : Alloc
  matrix : MxAlloc → MxAlloc

/-- List k of what the firmware's section holds of a block, and what follows those lists. -/
def blockPart (ext : List Nat) (k : Nat) : List Nat := ((uncountAll 4 (ext.drop 2))[k]?).getD []
def blockParts (ext : List Nat) (k : Nat) : List (List Nat) := uncountAll (blockPart ext k).length (blockPart ext k)
def blockRest (ext : List Nat) : List Nat := ext.drop (2 + ((uncountAll 4 (ext.drop 2)).map fun x => x.length + 1).sum)

/-- A block with its groups is loaded from its image as a saved one, under a key and a launch; a prologue's (R372) runs on. -/
def State.loadGroups (s : State) (pasid key launch : Nat) (img : List Byte) (ext : List Nat) (pt : Parts) : State :=
  let xs := sectionsOf img
  let r := sectionAt xs 2
  let view := (s.views.find? fun w => w.pasid == pasid && w.block == key && w.state != .abandoned)
  let gs := groupsIn (key - nth ext 0) key ((view.map (·.set)).getD 0) s.nextAge pt.rows 0 pt.recs (uncountAll pt.recs.length (blockRest ext))
  let home := ((gs.head?.map (·.locid)).getD 0) &&& 0xFFFFFF00
  let slot := field r 0x28 1
  let l := s.launch? launch
  let b : Block :=
    { key := key, launch := launch, pasid := pasid, lin := field r 4 4, bx := field r 8 4, byy := field r 0xC 4, bz := field r 0x10 4
      ngroups := (l.map (·.rc.groups)).getD (field r 0x14 2), home := home, spread := gs.any fun g => g.locid &&& 0xFFFFFF00 != home
      res := if launch = 0 then .running else .saved, vault := pt.vault, issued := field r 0x18 8, wide := field r 0x16 2 % 2 == 1
      children := field r 0x30 4
      share := if slot = 0xFF then none else some (BitVec.ofNat 32 (field r 0x24 4), slot)
      bcells := (List.range 16).filter fun k => field r (0x40 + 4 * k) 4 / 2 ^ 31 == 1
      xcells := blockPart ext 3
      view := (view.map (·.num)).getD 0, worldIdx := (view.map (·.index)).getD 0, why := field img 7 1 }
  { s with blocks := s.blocks ++ [b], others := s.others ++ gs }

/-- What a loaded block's groups have issued and not completed joins them, once the blocks whose vaults it names are there (R171). -/
def State.loadWork (s : State) (key : Nat) (img : List Byte) (ext : List Nat) (pt : Parts) : State :=
  match s.block? key with
  | none => s
  | some b =>
    let xs := sectionsOf img
    let base := key - nth ext 0
    let (s, logs) := loadAll (fun s x => s.loadEntry key base x) (recordsOf 0x640 (sectionAt xs 6)) s
    let (s, _) := loadAll (fun s x => s.loadEntry key base x) (recordsOf 0x640 (sectionAt xs 7)) s
    let (s, items) := loadAll (fun s x => s.loadItem b base x) (withExtra (recordsOf 512 (sectionAt xs 8)) (blockParts ext 1)) s
    let mx := sectionAt xs 9
    let (s, es) := loadAll (fun s x => s.loadMxEntry b x) (recordsOf 256 (mx.drop (matrixEntriesAt mx))) s
    { s with parked := s.parked ++ [⟨key, items, (if mx = [] then Option.none else (MxAlloc.parse 0 key mx).map pt.matrix).toList, es, logs,
        (Alloc.parse (sectionAt xs 5)).2, BitVec.ofNat 64 (field img 0x20 8), none⟩] }

/-- A block's flights stand as they were issued. -/
def State.reorderFlights (s : State) (key : Nat) (ext : List Nat) : State :=
  ((s.groupsOf key).zip (blockParts ext 2)).foldl (fun (s : State) (x : Group × List Nat) => s.onGroup key x.1.gidx fun g => g.reorder x.2) s

/-- A prologue's block that has been loaded goes on, on a batten core that runs no group (R372), for its packet; where there is none, the prologue is
begun again. -/
def State.resumePrologue (s : State) (key : Nat) : State :=
  let core := (List.range 16).find? fun n => !s.groups.any fun g => g.front && g.block != key && g.locid.toNat == n
  let held (p : Packet) : Bool := p.pro == some key
  match core, s.queues.any fun q => q.packets.any held with
  | some n, true =>
    let logs := (s.parked.filter (·.block == key)).flatMap (·.logs)
    let s : State := { s with
      parked := s.parked.filter (·.block != key)
      olog := s.olog ++ logs.map fun e => { e with core := battenUnit n }
      queues := s.queues.map fun q => { q with packets := q.packets.map fun p => if held p then { p with core := n } else p } }
    (s.mapGroups (·.block == key) fun g => { g with locid := BitVec.ofNat 32 n }).replayAll key 0
  | _, _ =>
    { (s.dropGroups (·.block == key)) with
      parked := s.parked.filter (·.block != key)
      blocks := s.blocks.filter (·.key != key)
      queues := s.queues.map fun q => { q with packets := q.packets.map fun p => if held p then { p with pro := none } else p } }

/-- The key and the launch of a block image, as the firmware's section names them, or by the ordinal and the LAUNCHID. -/
def State.blockNames (s : State) (pasid base k : Nat) (img : List Byte) (ext : List Nat) : Nat × Nat :=
  match ext with
  | key :: launch :: _ => (base + key, if launch = 0 then 0 else base + launch)
  | _ => (base + k, ((s.launches.find? fun l => l.pasid == pasid && l.rc.launchId == field img 0x18 4).map (·.key)).getD 0)

/-- A launch that only block images name: its blocks are those of the images (log 60). -/
def launchFor (base pasid k : Nat) (imgs : List (List Byte)) (id : Nat) : Launch :=
  let mine := imgs.filter fun i => field i 0x18 4 == id
  let n := (mine.map fun i => field i 0x1C 4).foldl max 0 + 1
  let groups := ((mine.head?).map fun i => field (sectionAt (sectionsOf i) 2) 0x14 2).getD 1
  { Launch.of (base + k) pasid 0 { LaunchRec.zero with launchId := id, groups := groups, gridx := n } [] 0 none none with
    nextBlk := n, completed := n - mine.length }

/-- The lines of views of a restored context (R433): each slot of its view pool that is used, its VA translated again. What a slot does not hold, the
poison of its line, and the slot where it cannot be read now, comes from the firmware's words `xs`. A line whose page is not mapped now stands beyond every
physical address until it is (log 60). -/
def State.poolLines (s : State) (pasid : Nat) (xs : List (List Nat)) : List ViewLine :=
  let base := ((s.ctx? pasid).map (·.vpbase.toNat)).getD 0
  let at_ (va : Nat) : Option Nat := match (s.translate deviceUnit pasid (BitVec.ofNat 64 va) .engineRead).1 with
    | .ok pa _ _ _ => some pa
    | _ => none
  (List.range (s.poolSlots pasid)).filterMap fun k =>
    let x := xs.find? fun x => nth x 5 == k
    let bad : BitVec 8 := BitVec.ofNat 8 ((x.map (nth · 4)).getD 0)
    let line (view va : Nat) (mask : BitVec 128) (data : List Byte) : ViewLine :=
      ⟨pasid, view, match at_ va with | some pa => lineOf pa | none => 2 ^ 52 + va, va, mask, data, bad, k⟩
    match at_ (base + 256 * k) with
    | some pa =>
      let bs := (s.rootRead pasid pa 256).1
      if field bs 0x88 1 = 0 then none
      else some (line (field bs 0x88 1) (field bs 0x80 8) (BitVec.ofNat 128 (field bs 0x90 16)) (bs.take 128))
    | none => x.map fun x => line (nth x 0) (nth x 1) (BitVec.ofNat 128 (nth x 2 + 2 ^ 64 * nth x 3)) (words (x.drop 6))

/-- The lines of restored views whose pages have been mapped since stand there. -/
def State.bindLines (s : State) : State :=
  if s.vlines.all fun l => decide (l.pa < 2 ^ 52) then s
  else { s with vlines := s.vlines.map fun l =>
    if l.pa < 2 ^ 52 then l
    else match (s.translate deviceUnit l.pasid (BitVec.ofNat 64 l.va) .engineRead).1 with
      | .ok pa _ _ _ => { l with pa := lineOf pa }
      | _ => l }

/-- A colour that is Free after a snapshot: with a code, one that failed. -/
def Colour.over (pasid num seq : Nat) (desc : List Byte) (code : Nat) : Colour where
  pasid := pasid
  num := num
  st := .free
  seq := seq
  desc := desc
  snapper := none
  cutDue := none
  cut := false
  cutTick := 0
  markers := []
  nodes := []
  away := []
  pool := []
  recs := []
  unpres := []
  awaits := []
  bytes := 0
  cursor := 0
  pieces := []
  failed := code != 0
  code := code

/-- An image is loaded into a created context (R409, R478): its blocks are there as saved ones, and colours that were busy have failed (R456). The
parts of a block come from `parts` for each block image, by its ordinal. -/
def State.loadContext (s : State) (pasid : Nat) (bs : List Byte) (parts : Nat → List Byte → Parts) : State :=
  let xs := sectionsOf bs
  let imgs := (xs.filter fun x => x.type == 0xE).map (·.bytes)
  let base := s.nextKey
  let stored := firmwareList bs 1
  let ls := (uncountAll stored.length stored).map (Launch.ofWords base pasid)
  let ids := (imgs.map fun i => field i 0x18 4).eraseDups
  let ls := if ls = [] then (ids.zipIdx).map fun (id, k) => launchFor (base + imgs.length) pasid k imgs id else ls
  let qs := firmwareList bs 2
  let queues := (uncountAll qs.length qs).map (Queue.ofWords base pasid)
  let s : State := { s with launches := s.launches ++ ls, queues := s.queues.filter fun q => q.pasid != pasid }
  let s := queues.foldl State.putQueue s
  let names := (imgs.zipIdx).map fun (i, k) => s.blockNames pasid base k i (firmwareBlock bs k)
  let part (k : Nat) : List Nat := firmwareList bs (3 + k)
  let mails := (inChunks 9 (part 3)).map fun x =>
    (⟨base + nth x 0, pasid, base + nth x 1, nth x 2, nth x 3 == 1, base + nth x 4, nth x 5, (words (x.drop 7)).take (nth x 6)⟩ : Mail)
  let reqs := (uncountAll (part 4).length (part 4)).map (fabOfWords base pasid)
  let top := ((names.map (·.1)) ++ ls.map (·.key) ++ mails.map (·.key) ++ reqs.flatMap fun x => [x.1.key, x.1.flight.getD 0]).foldl max (base + nth (part 7) 0) + 1
  let w := sectionAt xs 0xC
  let s : State := { s with nextKey := top + field w 0 4 }
  let orders := part 8
  let s := s.loadWorlds pasid top w orders (fun k => ((names[k]?).map (·.1)).getD 0) fun id =>
    ((s.launches.find? fun l => l.pasid == pasid && l.rc.launchId == id).map (·.key)).getD 0
  let shares := (inChunks 17 (part 1)).map fun x => (⟨pasid, BitVec.ofNat 32 (nth x 0), x.tail.map (ShSlot.ofWord base)⟩ : Sharing)
  let ctx := sectionAt xs 1
  let cols := sectionAt xs 0xD
  let wins := sectionAt xs 0xB
  let s : State := { s with
    sharing := s.sharing ++ shares
    sched := s.sched ++ (inChunks 3 (part 2)).map fun x => ⟨pasid, nth x 0, nth x 1, nth x 2⟩
    mails := s.mails ++ mails
    windows := s.windows ++ (List.range 4096).filterMap fun k =>
      let r := (wins.drop (16 * k)).take 13
      if r.all (· == 0) then none else some ⟨pasid, k, BitVec.ofNat 64 (field r 0 8), BitVec.ofNat 32 (field r 8 4), BitVec.ofNat 8 (field r 0xC 1)⟩
    colours := (s.colours.filter fun c => c.pasid != pasid) ++ (List.range 2).filterMap fun k =>
      let r := cols.drop (64 * k)
      let busy := field r 0 1 != 0
      if field r 8 8 = 0 then none
      else some (Colour.over pasid k (field r 8 8) ((r.drop 0x10).take 48 ++ zeros 16) (if busy then 4 else 0)) }
  let s := s.loadArrived pasid (part 9) (part 10) (part 11)
  let s := s.onCtx pasid fun c =>
    { c with
      xvec := addrField (BitVec.ofNat 64 (field ctx 0 8))
      xdump := addrField (BitVec.ofNat 64 (field ctx 8 8))
      budget := BitVec.ofNat 8 (min (field ctx 0x10 1) c.grant.toNat)
      live := BitVec.ofNat 8 ((s.views.filter fun v => v.pasid == pasid && v.state != .abandoned).length)
      vpsize := if w = [] then c.vpsize else BitVec.ofNat 32 (field w 4 4)
      vpbase := if w = [] then c.vpbase else BitVec.ofNat 64 (field w 8 8) &&& 0x01FFFFFFFFFFF000 }
  let s : State := if w = [] then s else { s with vlines := s.vlines ++ s.poolLines pasid (inChunks 22 (part 0)) }
  let each := (imgs.zip names).zipIdx
  let s := each.foldl (fun (s : State) (x : (List Byte × (Nat × Nat)) × Nat) =>
    s.loadGroups pasid x.1.2.1 x.1.2.2 x.1.1 (firmwareBlock bs x.2) (parts x.2 x.1.1)) s
  let s := each.foldl (fun (s : State) (x : (List Byte × (Nat × Nat)) × Nat) =>
    s.loadWork x.1.2.1 x.1.1 (firmwareBlock bs x.2) (parts x.2 x.1.1)) s
  let s := reqs.foldl (fun (s : State) (x : FabReq × Option Flight) =>
    let s : State := { s with fabric := s.fabric ++ [x.1] }
    match x.2 with
    | some f => s.onGroup x.1.block x.1.gidx fun g => { g with flights := g.flights ++ [f] }
    | none => s) s
  let s := ((names.map (·.1)).zipIdx).foldl (fun (s : State) (x : Nat × Nat) => s.reorderFlights x.1 (firmwareBlock bs x.2)) s
  let s := (names.filter (·.2 == 0)).foldl (fun (s : State) (x : Nat × Nat) => s.resumePrologue x.1) s
  let s : State := { s with queues := s.queues.map fun q =>
    if q.pasid != pasid then q
    else { q with packets := q.packets.map fun p => if p.pro.any fun k => (s.block? k).isNone then { p with pro := none } else p } }
  (withExtra (recordsOf 512 (sectionAt xs 8)) (uncountAll (part 6).length (part 6))).foldl (fun (s : State) (r : List Byte × List Nat) =>
    let (k, s) := s.fresh
    let it := CopyItem.parse k pasid 0 none 0 0 [] r.1
    let entry := match it.kind with | .tier n => n | _ => 0
    let it := { it with unit := (s.tierUnit pasid none entry).getD (engineUnit 0) }
    let it := if r.2 = [] then s.itemProgress it r.1 else it.takeExtra base r.1 r.2
    let s := s.oweStatus it
    { s with items := s.items ++ [it] }) s

/-- The parts of a block image that holds them itself. -/
def ownParts (_ : Nat) (img : List Byte) : Parts :=
  let xs := sectionsOf img
  ⟨recordsOf 5376 (sectionAt xs 3), sectionAt xs 4, (Alloc.parse (sectionAt xs 5)).1, fun a => a⟩

end Sys2Proof.Machine
end

