-- ==== Sys2Proof/Machine/Preempt.lean ====
section
/-! DEFINITION. Pre-emption (R394 to R400): requests and their modes, flushes, saves and restores of blocks; SPAWN's suspension (R360), sleeping
and growing groups (R358, R364, R365), and the completion of groups, blocks and torn launches (R355, R386). -/

namespace Sys2Proof.Machine

/-! ## Saving: R398, R169 -/

/-- The cores of a block's groups. -/
def State.blockCores (s : State) (key : Nat) : List Nat := ((s.groupsOf key).map s.coreOfGroup).eraseDups

/-- A flight may stay at a save: what is left of it waits for a granule, for an answer to its operand-log entry, for an earlier access that does,
for its window, its item, its entry, or its set. -/
def State.flightStays (s : State) (g : Group) (f : Flight) : Bool :=
  match f.op with
  | .access a =>
    a.lanes.any (fun l => l.st.open false) &&
      a.lanes.all fun l => l.st != .todo || a.held != [] || s.laneHeld g f a l || (a.ord.getLsbD 1 && !s.accessesClear g (g.before f.key)) ||
        (a.loc && !s.isResident l.blk)
  | .wcnt _ _ _ _ => true
  | .febits _ b first n _ => s.febitsHeld ⟨g.block, g.gidx, f.key⟩ b first n
  | .copy k => (s.item? k).isSome
  | .mxentry k => s.mxEntries.any fun e => e.key == k && e.granted.isNone
  | .choose _ _ _ => true
  | .mxfree => s.mxEntries.any fun e => e.block == g.block
  | .reduce _ _ _ _ => true
  | _ => false

/-- Every group of a block is at the end of its hold run. -/
def State.stopped (s : State) (key : Nat) : Bool := (s.groupsOf key).all fun g => g.run.pos == 0

/-- Steps 1 to 3 of R398 are done: groups have stopped, what they have issued has completed or may stay, and no granted matrix entry runs. -/
def State.saveReady (s : State) (key : Nat) : Bool :=
  s.stopped key && (s.groupsOf key).all (fun g =>
    (match g.hold with | .fence _ _ _ _ => false | _ => true) && g.flights.all fun f => f.due.isSome || s.flightStays g f) &&
    s.mxEntries.all fun e => e.block != key || (e.granted.isNone && e.ended == 0)

/-- An access is withdrawn (R169): lanes performed have written their results, and waiting ones are as if not performed. -/
def Access.withdraw (a : Access) : Access :=
  let keep (l : LaneAcc) : Bool := match a.dst with | .planes _ _ _ => true | _ => l.st != .done
  { a with lanes := (a.lanes.filter keep).map fun l => if l.st == .queued then { l with st := .todo } else l }

/-- A group stops: results due and results of performed lanes are written, and waiting accesses are withdrawn. A FORKW runs again. -/
def Group.stopForSave (g : Group) (s : State) : Group :=
  let g := g.timed.foldl (fun (g : Group) f => g.complete s f) g
  let g := g.flights.foldl (fun (g : Group) f => match f.op with
    | .access a => (match a.dst with | .planes _ _ _ => g | _ => g.landWrites s { f with writes := accessWrites a }).onFlight f.key fun f => { f with op := .access a.withdraw }
    | _ => g) g
  match g.hold with
  | .fork _ _ => g.rewind
  | .stalled => { g with hold := .free }
  | _ => g

/-- A waiter that a block's lanes or items have left. -/
def Waiter.of (key : Nat) (items : List Nat) : Waiter → Bool
  | .lane b _ _ _ _ => b == key
  | .item k _ => items.contains k
  | .mailbox _ => false

/-- Dirty bytes that a core holds under a view go to the view's line. -/
def State.cleanViews (s : State) (pasid : Nat) : State :=
  let ds := s.l1.filter fun c => c.pasid == pasid && c.dirty && c.view != 0
  let s := ds.foldl (fun (s : State) c => s.l2Write (chipOfCore c.unit) pasid c.view c.pa [c.val]) s
  { s with l1 := s.l1.map fun c => if c.pasid == pasid && c.view != 0 then { c with dirty := false } else c }

/-- A block that is ready is saved under a WHY (steps 2 to 7 of R398). Every line of a view that its context's cores hold reaches its slot before (R433). -/
def State.saveBlock (s : State) (key why : Nat) : State :=
  match s.block? key with
  | none => s
  | some b =>
    let items := (s.items.filter fun i => i.block == some key).map (·.key)
    let s := s.mapGroups (·.block == key) fun g => g.stopForSave s
    let s : State := { s with blocks := s.blocks.map fun x => { x with vault := { x.vault with waiters := x.vault.waiters.filter fun w => !w.2.of key items } } }
    let p := s.park key
    let s := (s.unmapAll key).cleanViews b.pasid
    let s := (s.blockCores key).foldl (fun (s : State) c => s.release c b.pasid b.view 5) s
    let s : State := { s with
      items := s.items.filter fun i => i.block != some key
      mxAllocs := s.mxAllocs.filter fun a => a.block != key
      mxReqs := s.mxReqs.filter fun r => r.block != key
      mxEntries := s.mxEntries.filter fun e => e.block != key
      olog := s.olog.filter fun e => e.block != key
      parked := s.parked.filter (·.block != key) ++ [p] }
    let s := s.onBlock key fun x => { x with res := .saved, why := why }
    (s.storeImage b.pasid why).getD s

/-- A flush (R397): the block returns unplaced to its launch, ahead of every unplaced block. -/
def State.flushBlock (s : State) (key : Nat) : State :=
  match s.block? key with
  | none => s
  | some b => (s.dropBlock key).onLaunch b.launch fun l => { l with again := b.lin :: l.again }

/-- A BAR's reduction, which a group without threads does not wait for (R345, R348). -/
def FlightOp.waitsForSet : FlightOp → Bool
  | .reduce _ _ _ _ => true
  | _ => false

/-- A group has exited, and what it has issued has come to its end. -/
def Group.exited (g : Group) : Bool :=
  g.live && !g.priv && g.act == 0 && g.etrap.isNone && g.run.pos == 0 && g.flights.all (fun f => f.due.isSome || f.op.waitsForSet) && g.cnts.toList.all (· == 0)

/-- A block is completing: every group that it still has, has exited (R396). -/
def State.completing (s : State) (key : Nat) : Bool :=
  let gs := s.groupsOf key
  !gs.isEmpty && gs.all fun g => g.exited && g.deferred.isEmpty

/-- BLOCK_SAVE (R396, R398) of the block of the cue's key: its image is written once its work has stopped; a block that is being flushed returns
unplaced once its groups have stopped (R397). One that completes is neither saved nor flushed (R396). A cut that is due comes first (R460), and every granule
of the block is preserved before it leaves (R448). -/
def execBlockSave (s : State) : Host.Outcome State Fault Refusal :=
  let k := s.cue.key
  let waits := ((s.block? k).map fun (b : Block) => s.cutHolds b.pasid).getD false || s.holdsGranules k
  .next (if s.completing k || waits then s else match ((s.block? k).map fun (b : Block) => (b.res, b.why) : Option (Residence × Nat)) with
    | some (.saving, why) => if s.saveReady k then s.saveBlock k why else s
    | some (.suspending, _) => if s.saveReady k then s.saveBlock k 1 else s
    | some (.flushing, _) => if s.stopped k then s.flushBlock k else s
    | _ => s).wake

/-! ## Restoring: R399 -/

/-- The seats of a saved block's groups, those of their logical IDs (R25, R399), are free, and no partition among them has been retired (R465). -/
def seatAgain (site : Site) : List (Group × Nat) → Occ → Option Occ
  | [], o => some o
  | (g, core) :: gs, o =>
    let p := g.locid.toNat % 256
    let used (q : Nat) : Bool := o.seats.any fun x => x.1 == core && x.2.1 == q
    let rows := ((o.seats.filter fun x => x.1 == core).map fun x => x.2.2).sum
    let n := if g.shadow then 2 else 1
    let sh := p / 8 * 8 + g.shSlot
    if site.retired.contains (core * 32 + p / 8) || used p || (g.shadow && used sh) || decide (Config.rows < rows + n * g.alloc) then none
    else seatAgain site gs { o with seats := (core, p, g.alloc) :: (if g.shadow then [(core, sh, g.alloc)] else []) ++ o.seats }

/-- Its segments are mapped again (R180), those whose pages still can be. -/
def State.remap (s : State) (b : Block) (core : Nat) (x : Nat × Bool × Nat) : State :=
  let (lp, shared, va) := x
  match s.translate core b.pasid (BitVec.ofNat 64 va) .engineWrite with
  | (.ok pa _ _ _, s) => if s.mappable b.key (pageOf pa) lp then { s with segs := s.segs ++ [⟨pageOf pa, va, b.pasid, b.key, lp, shared, true, false⟩] } else s
  | (_, s) => s

/-- A saved block's sections are those of its image in the save area (R399, R409): where the host has written another one over it, that is loaded; none where
the save area holds no image that a restore takes. A block whose image did not fit there stays as it was saved (log 61). -/
def State.reload (s : State) (key : Nat) : Option State :=
  match s.block? key, (s.parked.find? (·.block == key)).bind (·.image) with
  | some b, some x =>
    (s.ctx? b.pasid).bind fun c => ((s.areaBlocks c)[x.1]?).map fun img =>
      if img = x.2 then s
      else
        let ext := firmwareBlock (s.areaImage c 0) x.1
        let ext := if nth ext 0 = key ∧ nth ext 1 = b.launch then ext else [key, b.launch]
        let pt := ownParts 0 img
        let t : State := { s.dropGroups (·.block == key) with blocks := s.blocks.filter (·.key != key), parked := s.parked.filter (·.block != key) }
        let t := ((t.loadGroups b.pasid key b.launch img ext pt).loadWork key img ext pt).reorderFlights key ext
        { t with parked := t.parked.map fun p => if p.block == key then { p with image := some (x.1, img) } else p }
  | _, _ => some s

/-- A core's operand log has room for the entries of a block that comes back (R126). -/
def State.logRoom (s : State) (p : Parked) (core : Nat → Nat) : Bool :=
  (p.logs.map fun e => core e.gidx).all fun k =>
    decide ((s.olog.filter (·.core == k)).length + (p.logs.filter fun e => core e.gidx == k).length ≤ Config.logEntries)

/-- A saved block is restored where its seats, rows, vault bytes, barrier cells, engine slots (R151) and operand-log entries (R126) are free; none where they
are not. -/
def State.restoreBlock (s : State) (key : Nat) : Option State :=
  (s.reload key).bind fun s => match s.block? key, s.parked.find? (·.block == key) with
  | some b, some p =>
    let gs := s.groupsOf key
    let home := coreOf (s.physId b.pasid b.home)
    let room := if b.spread then Config.clusterCells else Config.coreCells
    let unit := engineUnit (clusterOfCore home)
    let items := p.items.length + (s.items.filter (·.unit == unit)).length
    let coreOfG (i : Nat) : Nat := ((s.group? key i).map s.coreOfGroup).getD home
    if b.res != .saved || !s.logRoom p coreOfG || decide (room < s.cellsUsed b + b.bcells.length) || (p.items != [] && decide (64 < items)) then none
    else
      (seatAgain (s.site b.pasid) (gs.map fun g => (g, coreOf (s.physId b.pasid g.locid))) s.occ).bind fun _ =>
      (s.occ.run home b.vault.size).map fun base =>
        let age := s.nextAge
        let b' := { b with res := .running, vault := { b.vault with core := home, base := base } }
        let s : State := { s with
          blocks := s.blocks.filter (·.key != key) ++ [b']
          parked := s.parked.filter (·.block != key) }
        let s := s.mapGroups (·.block == key) fun g =>
          { g with
            age := age + g.gidx
            hold := if g.hold == Hold.spawn && b.children == 0 then .free else g.hold }
        let s := (s.blockCores key).foldl (fun (s : State) c => s.acquire c b.pasid b.view 5) s
        let s := p.segs.foldl (fun (s : State) x => s.remap b' home x) s
        let s : State := { s with
          olog := s.olog ++ (p.logs.mergeSort fun x y => decide (x.seq ≤ y.seq)).map fun e => { e with core := coreOfG e.gidx }
          items := s.items ++ p.items.map fun i => { i with unit := unit }
          mxReqs := s.mxReqs ++ p.allocs.map (fun a => ⟨clusterOfCore home, key, 0, 0, a.tiles.length, a.mode, a.pane, some a⟩) ++
            gs.flatMap fun (g : Group) => g.flights.filterMap fun (f : Flight) => match f.op with
              | .mxalloc n mode _ => some ⟨clusterOfCore home, key, g.gidx, f.key, n, mode, if mode = 1 then 0 else coreOf g.locid % 4, Option.none⟩
              | _ => none
          mxEntries := s.mxEntries ++ p.entries.map fun e => { e with cluster := clusterOfCore home, since := none } }
        gs.foldl (fun (s : State) g => s.replayAll key g.gidx) s
  | _, _ => none

/-- A block that a pre-emption request holds off its cores. -/
def State.heldOff (s : State) (b : Block) : Bool := ((s.launch? b.launch).map fun l => s.launchHeld l).getD true

/-- Blocks that take one mode with those of a list, and those that do with them in turn: the blocks of a class 2 launch, the members of a sharing group,
and the copies of one root block (R395, R433). -/
def State.togetherIn (s : State) : Nat → List Nat → List Nat
  | 0, ks => ks
  | n + 1, ks =>
    let mine := s.blocks.filter fun b => ks.contains b.key
    let with_ (b : Block) : Bool := mine.any fun x => x.pasid == b.pasid &&
      ((x.launch == b.launch && (x.lin == b.lin || ((s.launch? b.launch).map fun l => l.rc.cls == 2).getD false)) ||
        (x.share.isSome && (x.share.map (·.1)) == b.share.map (·.1)))
    let all := (s.blocks.filter fun b => ks.contains b.key || with_ b).map (·.key)
    if all.length = mine.length then all else s.togetherIn n all
/-- All of them. -/
def State.together (s : State) (ks : List Nat) : List Nat := s.togetherIn s.blocks.length ks

/-- A block that is suspended in a SPAWN (R360), and one that still waits there for children. -/
def State.suspended (s : State) (b : Block) : Bool := (s.groupsOf b.key).any fun g => g.hold == Hold.spawn
def State.awaits (s : State) (b : Block) : Bool := decide (0 < b.children) && s.suspended b

/-- A block is ready to come back (R376): it is saved, no request holds it, and it waits for no children. -/
def State.returns? (s : State) (b : Block) : Bool := b.res == .saved && !s.heldOff b && !s.awaits b

/-- A saved block comes back with those that it is saved with, all of them at once (R342, R395), where no request holds one and every one can be; none
otherwise. -/
def State.tryRestore (s : State) (b : Block) : Option State :=
  let ks := s.together [b.key]
  let mates := s.blocks.filter fun x => ks.contains x.key && !s.awaits x
  let back := mates.filter (·.res == .saved)
  if s.awaits b || back.any s.heldOff || mates.any fun x => (match x.res with | .saving => true | .flushing => true | .suspending => true | _ => false) then none
  else back.foldl (fun (r : Option State) x => r.bind fun s => s.restoreBlock x.key) (some s)

/-- A block of those that are ready to come back finds its place now. -/
def State.comesBack (s : State) (key : Nat) : Bool := (s.block? key).any fun b => s.returns? b && (s.tryRestore b).isSome

/-- A saved block is restored where it finds its place, and no block that became ready before it does (R376). -/
def State.restoreAll (s : State) (b : Block) : State :=
  if (s.returns.takeWhile (· != b.key)).any s.comesBack then s else (s.tryRestore b).getD s

/-- The blocks that are ready to come back, in the order in which they became so (R376). -/
def State.noteReturns (s : State) : State :=
  if s.returns = [] && s.blocks.all fun b => b.res != .saved then s
  else
    let ready := (s.blocks.filter s.returns?).map (·.key)
    { s with returns := s.returns.filter ready.contains ++ ready.filter fun k => !s.returns.contains k }

/-- BLOCK_PLACEMENT (R376, R377): the next unit that fits is placed, unless a block that is to come back finds its place first. -/
def execBlockPlacement (s : State) : Host.Outcome State Fault Refusal :=
  .next (if s.returns.any s.comesBack then s else (s.placeNext [] s.launches).getD s).wake

/-- Firmware writes a page through a context's mapping, which its own rights do not stop (R477). -/
def State.firmwarePage (s : State) (pasid va : Nat) (bs : List Byte) : State :=
  match s.translate deviceUnit pasid (BitVec.ofNat 64 va) .engineRead with
  | (.ok pa _ _ _, s) => s.deviceWrite pasid pa bs
  | (_, s) => s

/-- The discovery page of a context is written in its generation (R29, R32). -/
def State.writeDiscovery (s : State) (c : Context) : State :=
  let bs := discoveryPage c.shape c.gen
  s.firmwarePage c.pasid c.sdtbase.toNat (bs ++ zeros (4096 - bs.length))

/-- A restore of a context, while every block of it is saved, writes the discovery page in its next generation, released at .pod (R29, R32). -/
def State.regenerate (s : State) (pasid : Nat) : State :=
  if s.blocks.any fun b => b.pasid == pasid && b.resident then s
  else
    let s := s.onCtx pasid fun c => { c with gen := c.gen + 1 }
    (match s.ctx? pasid with | some c => s.writeDiscovery c | none => s).release 0 pasid 0 6

/-- BLOCK_RESTORE (R399) of the block of the cue's key and those restored with it; `yes` first ends the pre-emption requests of its context, which
is then restored (R32). -/
def execBlockRestore (s : State) : Host.Outcome State Fault Refusal :=
  .next (match (s.block? s.cue.key : Option Block) with
    | none => s
    | some b =>
      let s : State := if s.cue.yes then ({ s with preempts := s.preempts.filter fun p => p.pasid != b.pasid } : State).regenerate b.pasid else s
      s.restoreAll b).wake

/-- SPAWN_RESUME (R360): the suspended block of the cue's key, once every accepted child has completed. -/
def execSpawnResume (s : State) : Host.Outcome State Fault Refusal :=
  .next (match (s.block? s.cue.key : Option Block) with
    | none => s
    | some b =>
      if b.children != 0 || !s.suspended b then s else s.restoreAll b).wake

/-- SLEEP_WAKE (R358): the group of the cue, once its tick has begun. -/
def execSleepWake (s : State) : Host.Outcome State Fault Refusal :=
  .next (if s.isResident s.cue.block then
      s.onGroup s.cue.block s.cue.gidx fun g => match g.hold with
        | .sleep t => if t ≤ s.hbeat.toNat then { g with hold := .free } else g
        | _ => g
    else s).wake

/-- REGGROW_GRANT (R364): the group of the cue, where its core has the rows. -/
def execReggrowGrant (s : State) : Host.Outcome State Fault Refusal := .next (s.tryGrow s.cue.block s.cue.gidx).wake

/-! ## Requests: R394 to R396 -/

/-- A block qualifies for Drain: E − ISSUED is at most DRAIN, E the mean ISSUED of its launch's completed blocks (R395). -/
def Block.drains (b : Block) (l : Launch) : Bool :=
  l.rc.drain != 0 && l.ran != 0 && l.issuedSum != 0 && decide (l.issuedSum - b.issued * l.ran ≤ l.rc.drain * l.ran)

/-- A block may be flushed (R395). -/
def State.flushes (s : State) (b : Block) (l : Launch) : Bool :=
  l.rc.flags.getLsbD 0 && !b.wide && b.share.isNone && b.view == 0 && !s.suspended b

/-- The mode of R395 for a placed block: where it takes one with others, Drain when every one of them qualifies, and Save otherwise. -/
def State.preemptMode (s : State) (b : Block) (why : Nat) : Block :=
  match s.launch? b.launch with
  | none => b
  | some l =>
    let ks := s.together [b.key]
    let alone := ks.length ≤ 1 && l.rc.cls != 2 && b.share.isNone
    let drain (k : Nat) : Bool := match s.block? k with
      | some x => ((s.launch? x.launch).map x.drains).getD false
      | none => true
    if ks.all drain then { b with res := .draining l.rc.drain s.hbeat.toNat, why := why }
    else if alone && s.flushes b l then { b with res := .flushing, why := why }
    else { b with res := .saving, why := why }

/-- A pre-emption request (R394): no further block of the launches is placed, and each placed one takes its mode. -/
def State.preemptAll (s : State) (pasid : Nat) (queue : Option Nat) (why : Nat) : State :=
  let hit (l : Launch) : Bool := l.pasid == pasid && !l.torn && (queue.isNone || l.queue == queue)
  let ks := (s.blocks.filter fun b => ((s.launch? b.launch).map hit).getD false).map (·.key)
  let all := s.together ks
  { s with
    preempts := (s.preempts.filter fun p => !(p.pasid == pasid && p.queue == queue)) ++ [⟨pasid, queue, none, why⟩]
    blocks := s.blocks.map fun b => if all.contains b.key && b.res == .running && !s.completing b.key then s.preemptMode b why else b }

/-- A block on its cores that may be on its way to its end. -/
def Block.onCores (b : Block) : Bool := match b.res with | .running => true | .draining _ _ => true | _ => false

/-- Blocks are saved with those that take one mode with them (R342, R395); one that completes is not (R396). -/
def State.saveTogether (s : State) (key : Nat) (why : Option Nat) : State :=
  let all := s.together [key]
  { s with blocks := s.blocks.map fun b =>
      if all.contains b.key && b.onCores && !s.completing b.key then { b with res := .saving, why := why.getD b.why } else b }

/-- A core is pressed for rows (R365): every group there waits in REGGROW, and no block of them is on its way off the core. -/
def State.pressed (s : State) (core : Nat) : Bool :=
  let gs := (s.groupsOn core).filter fun g => !g.front
  gs != [] && gs.all fun g => (match g.hold with | .grow _ => true | _ => false) &&
    (s.blockOf g).any Block.onCores

/-- PREEMPTION_REQUEST (R394): of the context that the cue lists, or of one of its queues, with WHY in the cue's key; a request for a queue
without a live launch stays with it, under its WHY (R380), and comes to its turn from there. With `yes`, that of the core of the cue's key for want of rows (R365): the block placed there
last is saved. -/
def execPreemptionRequest (s : State) : Host.Outcome State Fault Refusal :=
  .next (if s.cue.yes then
      (if s.pressed s.cue.key then
        match ((s.blocks.filter fun (b : Block) => b.onCores && (s.groupsOn s.cue.key).any fun g => g.block == b.key).getLast? : Option Block) with
        | some b => s.saveTogether b.key (some 2)
        | none => s
      else s)
    else match s.cue.nums with
      | [pasid] => if s.serving && (s.ctx? pasid).isSome then s.preemptAll pasid none (s.cue.key % 4) else s
      | [pasid, num] =>
        let kept := ((s.queue? pasid num).bind (·.preempt)) == some (s.cue.key % 4)
        if s.updating || !(kept || s.serving) then s
        else if s.launches.any fun (l : Launch) => l.pasid == pasid && l.queue == some num then
          (s.preemptAll pasid (some num) (s.cue.key % 4)).onQueue pasid num fun (q : Queue) => { q with preempt := none }
        else s.onQueue pasid num fun (q : Queue) => { q with preempt := some (s.cue.key % 4) }
      | _ => s).wake

/-- DRAIN_EXHAUSTED (R396): the draining block of the cue's key has issued DRAIN instructions; it is saved, unless it completes. -/
def execDrainExhausted (s : State) : Host.Outcome State Fault Refusal :=
  .next (match ((s.block? s.cue.key).map Block.res : Option Residence) with
    | some (.draining 0 _) => if s.completing s.cue.key then s else s.saveTogether s.cue.key none
    | _ => s).wake

/-- DRAIN_TIMEOUT (R396): 4,096 ticks have passed. -/
def execDrainTimeout (s : State) : Host.Outcome State Fault Refusal :=
  .next (match ((s.block? s.cue.key).map Block.res : Option Residence) with
    | some (.draining _ t) => if s.hbeat.toNat < t + 4096 || s.completing s.cue.key then s else s.saveTogether s.cue.key none
    | _ => s).wake

/-! ## Ends of launches under R386 -/

/-- Bytes stored at a virtual address, page by page. -/
def State.deviceStoreAll (s : State) (pasid : Nat) : Nat → Nat → List Byte → State
  | 0, _, _ => s
  | n + 1, va, bs =>
    if bs = [] then s
    else
      let k := 4096 - va % 4096
      (s.deviceStore pasid va (bs.take k)).deviceStoreAll pasid n (va + k) (bs.drop k)

/-- Worlds of a launch are discarded. -/
def State.discardWorlds (s : State) (l : Launch) : State :=
  let sets := (s.sibs.filter fun x => x.launch == l.key && x.parent == 0).map (·.key)
  let s := (s.views.filter fun w => sets.contains w.set && w.state != .abandoned).foldl (fun (s : State) w => s.discard w.pasid w.num) s
  { s with
    sibs := s.sibs.filter fun x => x.launch != l.key
    views := s.views.filter fun w => !(sets.contains w.set && w.state == .abandoned) }

/-- A launch ends under R386, once the hold runs of its groups have ended: its engine work is cancelled, the faulting block's image is written at
XDUMP, its blocks go, and its completion record takes STATE 3. -/
def State.tearDown (s : State) (l : Launch) : State :=
  let mine := (s.blocks.filter fun b => b.launch == l.key).map (·.key)
  if !mine.all s.stopped then s
  else
    let s := mine.foldl State.cancelWork s
    let xdump := ((s.ctx? l.pasid).map (·.xdump)).getD 0
    let s := match s.groups.find? fun g => mine.contains g.block && g.etrap.isSome with
      | some g => match s.block? g.block with
        | some b =>
          if xdump = 0 then s
          else
            let s := s.mapGroups (·.block == b.key) fun g => g.stopForSave s
            let bs := s.blockImage b (s.park b.key) 4 false
            s.deviceStoreAll l.pasid (bs.length / 4096 + 2) xdump.toNat bs
        | none => s
      | none => s
    let s := (s.discardWorlds l)
    let s := mine.foldl State.dropBlock s
    s.endLaunchAs ((s.launch? l.key).getD l) 3

/-! ## Completion of groups and blocks: R355 -/

/-- The packet whose prologue a block is. -/
def State.prologueOf (s : State) (key : Nat) : Option (Queue × Packet) :=
  s.queues.findSome? fun q => (q.packets.find? fun p => p.pro == some key).map fun p => (q, p)

/-- The fatal fault that a group without active threads still has to take, the first recorded (R131, R385), is delivered. -/
def State.deliverLast (s : State) (g : Group) : State :=
  let depth := (((lanesOf g.lastRun).head?).map fun i => g.depth.get i).getD 0
  match earliest g.deferred with
  | some d => if g.act == 0 && !g.priv && g.run.pos == 0 then (s.choose g.block g.gidx).deliver d ⟨g.lastRun, g.lastPc, depth⟩ s.cycle else s
  | none => s

/-- A prologue's end that stops its queue (R373): a trap, a fatal fault at its EXIT, a fatal fetch of its first instruction, or, after EXIT's release, a code
above 2. -/
def State.prologueStops (s : State) (g : Group) : State :=
  match s.prologueOf g.block, s.block? g.block with
  | some (q, p), some b =>
    match g.etrap with
    | some x =>
      let fetch := x.xstat.getLsbD 12 && b.issued == 0
      (s.prologueFails q p (if fetch then 0x03 else 0x04)).arbitrate
    | none =>
      if g.deferred != [] then s.deliverLast g
      else match s.prologueCode p with
        | some k => if 2 < k then ((s.release (s.coreOfGroup g) q.pasid 0 5).prologueFails q p 0x04).arbitrate else s
        | none => s
  | _, _ => s

/-- The group of the cue, where every thread has exited: a fatal fault still waiting is delivered (R131); otherwise it completes, and with the
last one its block. -/
def State.completeGroup (s : State) (g : Group) : State :=
  if g.deferred != [] then s.deliverLast g
  else if !g.exited then s
  else match s.block? g.block with
    | none => s
    | some b =>
      if (s.groupsOf g.block).any fun h => h.gidx != g.gidx then (s.dropGroup g.block g.gidx).settleBars
      else if s.slotBusy g.block then s.revoke g.block
      else if b.view = 0 then s.completeBlock g.block false
      else (s.dropGroup g.block g.gidx).settleBars.worldDone b.pasid b.view

/-- GROUP_COMPLETION (R355) of the cue's group; a launch under R386 ends, and a prologue that fails stops its queue (R373). -/
def execGroupCompletion (s : State) : Host.Outcome State Fault Refusal :=
  .next (match (s.group? s.cue.block s.cue.gidx : Option Group) with
    | none => s
    | some g =>
      if !s.isResident g.block then s
      else if g.front then s.prologueStops g
      else match (s.launchOf g : Option Launch) with
        | some l => if l.torn then s.tearDown l else s.completeGroup g
        | none => s.completeGroup g).wake

end Sys2Proof.Machine
end

