-- ==== Sys2Proof/Machine/Snapshots.lean ====
section
/-! DEFINITION. Running snapshots (R436 to R460): claims, cuts, markers, preservation, the eave streamers, completion and failure; SNAP and SNAPST;
and loading a snapshot (R455). -/

namespace Sys2Proof.Machine

/-! ## Colours -/

/-- A colour of a context. -/
def State.colour? (s : State) (pasid num : Nat) : Option Colour := s.colours.find? fun c => c.pasid == pasid && c.num == num
/-- Changes it. -/
def State.onColour (s : State) (pasid num : Nat) (f : Colour → Colour) : State :=
  { s with colours := s.colours.map fun c => if c.pasid == pasid && c.num == num then f c else c }

/-- Fields of the descriptor (R449). -/
def Colour.dtier (c : Colour) : Nat := field c.desc 4 1
def Colour.dest (c : Colour) : Nat := field c.desc 8 8
def Colour.limit (c : Colour) : Nat := field c.desc 0x10 8

/-- The code of COPY_RECORD of a descriptor (R458). -/
def snapDescFault (bs : List Byte) : Option Nat :=
  let limit := field bs 0x10 8
  if field bs 0 4 ≠ 1 then some 0x20
  else if field bs 4 1 = 0 ∨ 3 < field bs 4 1 then some 0x21
  else if field bs 8 8 % 4096 ≠ 0 ∨ limit % 4096 ≠ 0 ∨ limit < 65536 then some 0x22
  else if field bs 0x18 8 % 64 ≠ 0 then some 0x23
  else if field bs 5 3 ≠ 0 ∨ field bs 0x20 32 ≠ 0 then some 0x24
  else none

/-- The status record (R454), written by the directory. -/
def State.putSnapStatus (s : State) (c : Colour) (st done : Nat) : State :=
  if !s.isOwn c.pasid 0 then s
  else s.deviceStore c.pasid (field c.desc 0x18 8) (record 64
    [(0, 1, st), (1, 1, c.num), (2, 1, if st = 2 then c.code else 0), (8, 8, c.seq), (0x10, 8, c.cutTick.toNat), (0x18, 8, c.bytes), (0x20, 8, done)])

/-- The SNAP of a flight takes its answer (R458). -/
def State.answerSnap (s : State) (r : FRef) (colour : Option Nat) : State :=
  match (s.group? r.block r.gidx).bind fun g => g.flight? r.flight with
  | some f => match f.op with
    | .snap _ _ prd dst => s.land r (snapAnswer colour prd dst)
    | _ => s
  | none => s
/-- The SNAP that claimed a colour completes. -/
def State.endSnapper (s : State) (c : Colour) : State :=
  match c.snapper with
  | some (b, g, f) => s.answerSnap ⟨b, g, f⟩ (some c.num)
  | none => s

/-! ## Granules still unpreserved (R445) -/

/-- A granule is preserved for every colour of the context that holds it unpreserved: the one staged copy serves both (R446). -/
def State.preserveRef (s : State) (c : Colour) (r : SnapRef) : State :=
  match r with
  | .page pa => { s with unpresPages := s.unpresPages.filter fun p => !(p.1 == c.pasid && p.2.2 == pa) }
  | .line u _ pa => { s with unpresLines := s.unpresLines.filter fun p => !(p.1 == c.pasid && p.2.2 == (u, pa)) }
  | .segment b i => s.onVault b fun a => (a.onUnpres 0 fun xs => xs.filter (· != i)).onUnpres 1 fun xs => xs.filter (· != i)
  | .row b g i => s.onGroup b g fun g => { g with unpres := g.unpres.map fun x => x &&& ~~~(1#149 <<< i) }
  | .matrix cl u => { s with colours := s.colours.map fun x =>
      if x.pasid == c.pasid then { x with unpres := x.unpres.filter fun y => y != .matrix cl u } else x }
  | .other => s

/-- The record of a granule waits until it has been staged. -/
def State.unstaged (s : State) (c : Colour) (r : SnapRef) : Bool := r != .other && (s.unpreserved c).contains r

/-- Every preservation bit of a colour is cleared. -/
def State.clearColour (s : State) (pasid num : Nat) : State :=
  let s : State := { s with
    unpresPages := s.unpresPages.filter fun p => !(p.1 == pasid && p.2.1 == num)
    unpresLines := s.unpresLines.filter fun p => !(p.1 == pasid && p.2.1 == num)
    blocks := s.blocks.map fun b => if b.pasid == pasid then { b with vault := b.vault.onUnpres num fun _ => [] } else b }
  s.mapGroups (fun g => s.pasidOf g == pasid) fun g => g.onUnpres num fun _ => 0

/-- A colour fails (R452): it is Free, its bits, records and logs go, and the status record takes STATE 2. -/
def State.failColour (s : State) (pasid num code : Nat) : State :=
  match s.colour? pasid num with
  | none => s
  | some c =>
    if c.st == .free then s
    else
      let s := (s.endSnapper c).clearColour pasid num
      let c := { c with st := .free, code := code, failed := true, recs := [], unpres := [], awaits := [], nodes := [], away := [], pool := [], snapper := none, cutDue := none }
      (s.onColour pasid num fun _ => c).putSnapStatus c 2 s.hbeat.toNat

/-- Every busy colour of a context fails. -/
def State.failColours (s : State) (pasid code : Nat) : State := (s.failColour pasid 0 code).failColour pasid 1 code

/-! ## The record: R438, R451, R455 -/

/-- The ID of a DRAM or pool address (R455). -/
def State.logicalId (s : State) (pasid pa : Nat) : Nat :=
  if pa < 2 ^ 39 then
    let pkg := s.ownPackage pasid
    let chip := pa / 2 ^ 36
    2 ^ 39 * pkg + pa % 2 ^ 36 + match (s.ctx? pasid).bind fun c => c.logicalChip pkg chip with
      | some k => 2 ^ 36 * k
      | none => 2 ^ 63 + 2 ^ 36 * chip
  else 2 ^ 62 + pa % 2 ^ 52

/-- The pages that a table maps, and its own, from a node on. -/
def State.tablePages (s : State) (pasid : Nat) : List Level → Nat → List Nat
  | [], _ => []
  | l :: ls, node =>
    (List.range (2 ^ l.bits / 512)).map (fun k => node + 4096 * k) ++ (List.range (2 ^ l.bits)).flatMap fun k =>
      let e := (s.readPte pasid (node + 8 * k)).1
      if (pteFault l e).isSome then []
      else if pteBit e 3 then
        if pteBit e 7 then [] else (List.range (2 ^ l.shift / 4096)).map fun j => pteAddr e + 4096 * j
      else s.tablePages pasid ls (pteAddr e)

/-- The pages of a context that a snapshot records; an owned segment's is recorded as the segment (R448). -/
def State.mappedPages (s : State) (pasid : Nat) : List Nat :=
  let root := ((s.ctx? pasid).map (·.ptroot)).getD 0
  ((s.tablePages pasid (if root.getLsbD 0 then flatLevels else fiveLevels) (pteAddr root)).filter fun pa =>
    match s.segAt pa with
    | some g => g.shared || g.transit
    | none => true).eraseDups

/-- The physical slots of the other packages of a context's placement (R308, R21). -/
def State.otherSlots (s : State) (pasid : Nat) : List Nat :=
  ((((s.ctx? pasid).map (·.place)).getD []).filter fun (e : PlEntry) => natBits e.phys.toNat 7 1 == 1).map (fun (e : PlEntry) => natBits e.phys.toNat 0 7) |>.filter (· != s.slot)

/-- The other packages of a context's placement. -/
def State.otherPackages (s : State) (pasid : Nat) : List Nat :=
  (List.range ((s.ctx? pasid).map fun c => (Shape.of c.shape).pkg).toList.sum).filter (· != s.ownPackage pasid)

/-- A colour that begins (R436): it waits for the cuts of every pool node and every other package, and where the directory is here for those packages to
close; the pool pages are listed now (R444). -/
def State.beginColour (s : State) (pasid num seq : Nat) (desc : List Byte) (snapper : Option (Nat × Nat × Nat)) (here : Bool) : State :=
  let others := s.otherPackages pasid
  let c : Colour :=
    { Colour.over pasid num seq desc 0 with
      st := .cutting, snapper := snapper
      cutDue := if here then some (s.hbeat.toNat + 1) else none
      nodes := List.range 32 ++ others.map (128 + ·)
      away := if s.isOwn pasid 0 then others else []
      pool := (s.mappedPages pasid).filter fun pa => s.tierOf pa == .pool
      cursor := 4096 }
  { s with colours := s.colours.filter (fun x => !(x.pasid == pasid && x.num == num)) ++ [c] }

/-- A claim at the directory (R436): the lowest Free colour and the next SEQ; none where both are busy. -/
def State.claim (s : State) (pasid : Nat) (desc : List Byte) (snapper : Option (Nat × Nat × Nat)) (here : Bool) : Option (Nat × State) :=
  let cs := s.colours.filter fun c => c.pasid == pasid
  ([0, 1].find? fun k => !cs.any fun c => c.num == k && c.st != .free).map fun k =>
    let s := s.beginColour pasid k ((cs.map (·.seq)).foldl max 0 + 1) desc snapper here
    (k, match s.colour? pasid k with | some c => s.putSnapStatus c 0 0 | none => s)

/-- A granule among some bytes is poisoned. -/
def State.lostIn (s : State) (pa n : Nat) : Bool := s.poison.any fun g => decide (pa / 16 ≤ g) && decide (g < (pa + n + 15) / 16)

/-- The record of a page; a poisoned one has lost its contents (R463), and those of one that a segment returns to stand in the vault (R180). -/
def State.pageRecord (s : State) (pasid pkg pa : Nat) : SnapRec :=
  let bs := match s.segAt pa with
    | some g => if g.leaving then s.vaultRead g.block g.lpage 4096 else s.mem.read pa 4096
    | none => s.mem.read pa 4096
  ⟨1, pkg, .page pa, s.logicalId pasid pa, 0, if s.lostIn pa 4096 then [] else bs, none⟩

/-- The records of a block's allocation. -/
def segmentRecords (pkg id : Nat) (b : Block) : List SnapRec :=
  (List.range ((b.vault.size + 4095) / 4096)).map fun i =>
    let grans (xs : List Nat) : List Nat := (xs.filter fun g => g / 256 == i).map (· % 256)
    ⟨2, pkg, .segment b.key i, 2 ^ 32 * b.lin + 4096 * i, id, b.vault.bytes.read (4096 * i) 4096 ++ bitBytes 256 (grans b.vault.full) ++
      bitBytes 256 (grans b.vault.poison), none⟩

/-- A group as it is recorded: a FORKW whose copies are not placed runs again. -/
def Group.recorded (g : Group) : Group := match g.hold with | .fork _ _ => g.rewind | _ => g

/-- Row k of the rest of a group's state (R404, R451). -/
def Group.stateRow (g : Group) (k : Nat) : List Byte := (g.recorded.image.drop (256 * k)).take 256

/-- The records of a group's rows; a prologue's group has the name of `Group.recordId` (log 60). -/
def rowRecords (pkg id : Nat) (g : Group) : List SnapRec :=
  (List.range g.alloc).map (fun r => ⟨3, pkg, .row g.block g.gidx r, 2 ^ 32 * g.recordId + r, id, rowImage (g.vrow r), none⟩) ++
    (List.range 21).map fun k => ⟨3, pkg, .row g.block g.gidx (128 + k), 2 ^ 32 * g.recordId + 0x1000 + k, id, g.stateRow k, none⟩

/-- The dirty bytes of a context's pool and DRAM lines in the root view, with the unit that holds them: cores, then the slices of the L2s and of the
home copies. -/
def State.dirtyBytes (s : State) (pasid : Nat) : List CByte :=
  let mine (k : Nat) (cs : List CByte) : List CByte :=
    (cs.filter fun c => c.pasid == pasid && c.dirty && c.view == 0 && (s.tierOf c.pa == .dram || s.tierOf c.pa == .pool)).map fun c => { c with unit := c.unit + k }
  mine 0 s.l1 ++ mine 256 s.l2 ++ mine 512 s.homes

/-- The records of dirty lines. -/
def State.lineRecords (s : State) (pasid pkg : Nat) : List SnapRec :=
  let ds := s.dirtyBytes pasid
  ((ds.map fun c => (c.unit, lineOf c.pa)).eraseDups).map fun (u, pa) =>
    let at_ (j : Nat) : Option CByte := ds.find? fun c => c.unit == u && c.pa == pa + j
    let on := (List.range 128).filter fun j => (at_ j).isSome
    ⟨4, pkg, .line u 0 pa, s.logicalId pasid pa, 0,
      if on.any fun j => s.lostIn (pa + j) 1 then [] else (List.range 128).map (fun j => ((at_ j).map (·.val)).getD 0) ++ bitBytes 128 on, none⟩

/-- The unit number of a tile's row, and of a bank of a weight tile: tiles come first, then the banks by segment and column tile of the engine, a pane
taking its quarter (log 63). -/
def rowUnit (tile row : Nat) : Nat := 128 * tile + row
def MxAlloc.bankUnit (a : MxAlloc) (sg col bank : Nat) : Nat := 4096 + 2 * (8 * (sg + 4 * (a.pane / 2)) + (col + 4 * (a.pane % 2))) + bank

/-- A row of a tile, and a bank, as a record holds them. -/
def MxTile.rowRecord (t : MxTile) (r : Nat) : List Byte :=
  rowImage' (t.row r) ++ record 16 [(0, 1, bit (t.bad.getLsbD r)), (8, 8, if r = 0 then t.mism.toNat else 0)]
where
  /-- The words of a row. -/
  rowImage' (ws : List Word) : List Byte := ws.flatMap fun (x : Word) => natBytes 4 x.toNat
def MxBank.bankRecord (b : MxBank) (on : Bool) : List Byte :=
  b.weights ++ b.formats ++ b.marks ++ natBytes 4 b.scale.toNat ++ natBytes 1 (bit on) ++ zeros 11

/-- The records of an allocation. -/
def matrixRecords (pkg id : Nat) (a : MxAlloc) : List SnapRec :=
  let one (u : Nat) (bs : List Byte) : SnapRec := ⟨5, pkg, .matrix a.cluster u, 2 ^ 32 * a.cluster + u, id, bs, none⟩
  a.tiles.flatMap (fun (t : MxTile) => (List.range 128).map fun r => one (rowUnit t.num r) (t.rowRecord r)) ++
    a.cells.flatMap fun c =>
      let w := a.weight c.1 c.2
      [one (a.bankUnit c.1 c.2 0) (w.b0.bankRecord !w.one), one (a.bankUnit c.1 c.2 1) (w.b1.bankRecord w.one)]

/-- What a cut of this package records of a context. -/
def State.cutRecords (s : State) (pasid : Nat) : List SnapRec :=
  let pkg := s.ownPackage pasid
  let bs := s.blocks.filter fun b => b.pasid == pasid && b.resident
  let id (b : Block) : Nat := ((s.launch? b.launch).map (·.rc.launchId)).getD 0
  ((s.mappedPages pasid).filter fun pa => decide (pa < 2 ^ 39)).map (s.pageRecord pasid pkg) ++ bs.flatMap (fun b => segmentRecords pkg (id b) b) ++
    bs.flatMap (fun b => (s.groupsOf b.key).flatMap (rowRecords pkg (id b))) ++ s.lineRecords pasid pkg ++
    bs.flatMap (fun b => (s.mxAllocs.filter fun a => a.block == b.key).flatMap (matrixRecords pkg (id b))) ++
    [⟨7, pkg, .other, 0, 0, s.contextImage pasid 5 true, none⟩]

/-! ## The cut: R439 -/

/-- An issued instruction may stay in flight at a cut: it waits as at a save, or its transfer, item or claim goes on. -/
def State.flightAtCut (s : State) (g : Group) (f : Flight) : Bool :=
  f.due.isSome || s.flightStays g f || match f.op with
    | .fabric _ => true
    | .snap _ _ _ _ => true
    | .mxalloc _ _ _ => true
    | .mxfree => true
    | .tsched _ _ => true
    | _ => false

/-- Steps 1 to 3 of R439 are done. -/
def State.cutReady (s : State) (pasid : Nat) : Bool :=
  (s.groups.filter fun g => s.pasidOf g == pasid && s.isResident g.block).all (fun g =>
    g.run.pos == 0 && (match g.hold with | .fence _ _ _ _ => false | _ => true) && g.flights.all (s.flightAtCut g)) &&
  s.mxEntries.all fun e => ((s.block? e.block).map (·.pasid)) != some pasid || e.granted.isNone

/-- The results due of a context's groups are written, with the time they take. -/
def State.landAll (s : State) (pasid : Nat) : State :=
  let mine (g : Group) : Bool := s.pasidOf g == pasid && s.isResident g.block
  let t := ((s.groups.filter mine).flatMap fun g => g.flights.filterMap (·.due)).foldl max s.cycle
  ({ s with cycle := t } : State).mapGroups mine fun g => g.land s t

/-- Every granule of R445 that a context holds here becomes unpreserved for a colour. -/
def State.markUnpreserved (s : State) (c : Colour) (recs : List SnapRec) : State :=
  let s : State := { s with
    unpresPages := s.unpresPages ++ (recs.filterMap fun r => match r.ref with
      | .page pa => some (c.pasid, c.num, pa)
      | _ => none).eraseDups
    unpresLines := s.unpresLines ++ (recs.filterMap fun r => match r.ref with
      | .line u _ pa => some (c.pasid, c.num, u, pa)
      | _ => none).eraseDups
    blocks := s.blocks.map fun b =>
      if b.pasid == c.pasid && b.resident then { b with vault := b.vault.onUnpres c.num fun _ => List.range ((b.vault.size + 4095) / 4096) } else b }
  let s := s.mapGroups (fun g => s.pasidOf g == c.pasid && s.isResident g.block) fun g =>
    g.onUnpres c.num fun _ => (1#149 <<< g.alloc) - 1#149 ||| (((1#149 <<< (21 : Nat)) - 1#149) <<< (128 : Nat))
  s.onColour c.pasid c.num fun c => { c with unpres := (recs.map (·.ref)).filter fun r => match r with | .matrix _ _ => true | _ => false }

/-- A slot of the view pool as it stands in memory (R415). -/
def ViewLine.image (l : ViewLine) : List Byte :=
  l.data ++ natBytes 8 l.va ++ natBytes 8 l.view ++ natBytes 16 l.mask.toNat ++ zeros 96

/-- Slots of the view pools that a step took, changed or freed are written (R415). -/
def State.writePools (old s : State) : State :=
  if s.vlines = old.vlines then s
  else
    let put (s : State) (l : ViewLine) (at_ : Nat) (bs : List Byte) : State := match (s.ctx? l.pasid : Option Context) with
      | some c => s.deviceStore l.pasid (c.vpbase.toNat + 256 * l.slot + at_) bs
      | none => s
    let freed := old.vlines.filter fun l => !s.vlines.any fun m => m.pasid == l.pasid && m.slot == l.slot
    let changed := s.vlines.filter fun l => !old.vlines.contains l
    changed.foldl (fun s l => put s l 0 l.image) (freed.foldl (fun s l => put s l 0x88 [0]) s)

/-- The cut cycle (R439 step 4): stores to shared segments reach memory, lines of views their slots (R415), the record is fixed, every granule becomes unpreserved, markers go down every port, and a SNAP completes. With a port
out of use its pool node cannot be reached (R312, R452). -/
def State.takeCut (s : State) (c : Colour) : State :=
  let s := State.writePools s (((s.landAll c.pasid).cleanViews c.pasid).flushShared c.pasid)
  let recs := s.cutRecords c.pasid
  let s := s.markUnpreserved c recs
  let s := s.onColour c.pasid c.num fun c =>
    { c with
      cut := true
      cutTick := s.hbeat
      cutDue := none
      snapper := none
      recs := c.recs ++ recs
      awaits := (s.fabric.filter fun r => r.pasid == c.pasid).map (·.key) }
  let s := ((List.range 32).filter fun p => !s.ports.contains p).foldl (fun (s : State) p =>
    s.send ⟨4, p, c.pasid, p, c.num, c.seq, [], []⟩) s
  let s := s.endSnapper c
  if s.ports = [] then s else s.failColour c.pasid c.num 3

/-- The channels of a colour, by the numbers of their markers: those between this package and the pool nodes, and where the directory is here those by which
the other packages send to the nodes (R441). -/
def State.channels (s : State) (c : Colour) : List Nat :=
  List.range 64 ++ if s.isOwn c.pasid 0 then (s.otherSlots c.pasid).flatMap fun q => (List.range 32).map fun p => 64 + 128 * p + q else []

/-- A colour's state follows its events (R437): these steps of the directory wait while firmware does (R473). -/
def State.settleColour (s : State) (c : Colour) : Colour :=
  if s.updating then c
  else match c.st with
    | .cutting => if c.cut && c.nodes == [] then { c with st := .recording } else c
    | .recording =>
      if s.unpreserved c == [] && (s.channels c).all c.markers.contains && c.away == [] && c.awaits.all fun k => !s.fabric.any fun r => r.key == k then
        { c with st := .closing }
      else c
    | _ => c
/-- Every colour's state is brought up. -/
def State.settleColours (s : State) : State := { s with colours := s.colours.map s.settleColour }

/-- A unit of a context's matrix state. -/
def State.matrixUnit (s : State) (cluster unit : Nat) : Option SnapRec :=
  (s.mxAllocs.filter fun a => a.cluster == cluster).findSome? fun a => (matrixRecords 0 0 a).find? fun r => r.ref == .matrix cluster unit

/-- What a step has written is preserved (R446), and what has left its units is unpreserved no more (R448): rows of a group's other state and matrix
units, besides the pages, lines, segments and rows that their own writes note. -/
def State.preserveChanged (old s : State) : State :=
  if s.colours.all fun c => c.st == .free then s
  else
    let rows (g : Group) : BitVec 149 :=
      if g.unpres.toList.all (· == 0) then 0
      else match old.group? g.block g.gidx with
        | none => 0
        | some o =>
          if !s.isResident g.block then 0
          else (List.range 21).foldl (fun (m : BitVec 149) k => if o.stateRow k == g.stateRow k then m ||| (1#149 <<< (128 + k)) else m)
            ((1#149 <<< min g.alloc 128) - 1#149)
    let s := s.mapGroups (fun _ => true) fun g => { g with unpres := g.unpres.map (· &&& rows g) }
    let s : State := { s with
      blocks := s.blocks.map fun b => if b.resident then b else { b with vault := { b.vault with unpres0 := [], unpres1 := [] } }
      colours := s.colours.map fun c => { c with unpres := c.unpres.filter fun r => match r with
        | .matrix cl u => (match s.matrixUnit cl u, old.matrixUnit cl u with | some x, some y => x == y | _, _ => false)
        | _ => false } }
    s.settleColours

/-- A SNAP's claim of a colour has succeeded at another package's directory: where a marker has begun the colour here, one cut serves both (R460). -/
def State.joinColour (s : State) (pasid num seq : Nat) (desc : List Byte) (snapper : Nat × Nat × Nat) : State :=
  match s.colour? pasid num with
  | some c =>
    if c.seq = seq ∧ c.st ≠ .free then
      if c.cut then s.endSnapper { c with snapper := some snapper }
      else s.onColour pasid num fun c => { c with snapper := some snapper, cutDue := some (c.cutDue.getD (s.hbeat.toNat + 1)) }
    else s.beginColour pasid num seq desc (some snapper) true
  | none => s.beginColour pasid num seq desc (some snapper) true

/-- A claim of the context that arrived before one of a key waits at the directory (R436); of those of one cycle that of the lower location ID issued first
(R460, `Plan.table`). -/
def State.claimsBefore (s : State) (pasid key : Nat) : Bool :=
  s.groups.any fun h => s.pasidOf h == pasid && h.flights.any fun f => match f.op with
    | .snap none _ _ _ => decide (f.key < key)
    | _ => false

/-- SNAPSHOT_CLAIM (R436). A SNAP's (the cue's group, the flight by its key): at this package's directory, or, where another package holds it, with its
answer, `nums` the colour and SEQ, none where both are busy. Otherwise a host request, `nums` the context, or one of another package of the placement
with a second number; `bytes` is the descriptor. -/
def execSnapshotClaim (s : State) : Host.Outcome State Fault Refusal :=
  let c := s.cue
  .next (if s.updating then s
    else if c.key != 0 then
      match ((s.group? c.block c.gidx).bind fun g => (g.flight? c.key).map fun f => (g, f.op) : Option (Group × FlightOp)) with
      | some (g, .snap Option.none desc _ _) =>
        let pasid := s.pasidOf g
        let r : FRef := ⟨c.block, c.gidx, c.key⟩
        let named (k : Nat) (s : State) : State := s.onFlight r fun f => { f with op := match f.op with | .snap _ d p x => .snap (some k) d p x | o => o }
        if s.isOwn pasid 0 then
          if s.claimsBefore pasid c.key then s
          else match (s.claim pasid desc (some (c.block, c.gidx, c.key)) true : Option (Nat × State)) with
          | some (k, s) => named k s
          | none => s.answerSnap r Option.none
        else match c.nums with
          | k :: seq :: _ => if 2 ≤ k then s else named k (s.joinColour pasid k seq desc (c.block, c.gidx, c.key))
          | _ => s.answerSnap r Option.none
      | _ => s
    else match c.nums with
      | pasid :: xs =>
        if !s.serving then s else
        let reply (st : Nat) (bs : List Byte) (s : State) : State :=
          { s with mgmt := { s.mgmt with replies := s.mgmt.replies ++ [⟨"SNAPSHOT_CLAIM", st, bs⟩] } }
        if !s.isOwn pasid 0 then s
        else if (snapDescFault c.bytes).isSome then reply 2 [] s
        else match (s.claim pasid c.bytes Option.none (xs == []) : Option (Nat × State)) with
          | some (k, s) => reply 0 (natBytes 1 k) s
          | none => reply 1 [] s
      | [] => s).wake

/-- SNAPSHOT_CUT (R439): the package takes the cut of a colour, `nums` its context and number, once what it waits for has ended. -/
def execSnapshotCut (s : State) : Host.Outcome State Fault Refusal :=
  .next (match s.cue.nums with
    | pasid :: num :: _ =>
      match (s.colour? pasid num : Option Colour) with
      | some c =>
        let due := match c.cutDue with | some t => decide (t ≤ s.hbeat.toNat) | none => false
        if c.st == ColourState.cutting && !c.cut && due && s.cutReady pasid then (s.takeCut c).settleColours else s
      | none => s
    | _ => s).wake

/-! ## Markers: R441 -/

/-- A marker of a colour of a SEQ is known here: that of a later SEQ begins the colour, with the descriptor that the cue holds (R441). -/
def State.markBegins (s : State) (pasid num seq : Nat) : State :=
  if ((s.colour? pasid num).map fun (c : Colour) => c.seq).getD 0 < seq then
    (s.failColour pasid num 3).beginColour pasid num seq s.cue.bytes none false
  else s

/-- A marker is taken at a place (R441). At this package it comes from a node that has cut: the package takes its cut at the next tick. At a node, from this
package, which sends it at its cut, or from the package of another slot, the first marker of the colour is the node's cut. -/
def State.takeMarker (s : State) (c : Colour) (p at_ : Nat) : State :=
  let cut (s : State) : State := if c.nodes.contains p then s.nodeCut c p else s
  let mark (k : Nat) (s : State) : State := s.onColour c.pasid c.num fun c => { c with markers := insertNat k c.markers }
  match at_ with
  | 0 =>
    if 32 ≤ p || s.logStops p || (s.otherSlots c.pasid == [] && !c.markers.contains (32 + p)) then s
    else (mark p (cut s)).onColour c.pasid c.num fun c => { c with cutDue := if c.cut then c.cutDue else some (c.cutDue.getD (s.hbeat.toNat + 1)) }
  | 1 => if p < 32 && c.cut then mark (32 + p) (cut s) else s
  | 2 => s.onColour c.pasid c.num fun c => { c with nodes := c.nodes.filter (· != 128 + p) }
  | 3 => s.onColour c.pasid c.num fun c => { c with away := c.away.filter (· != p) }
  | q =>
    if 32 ≤ p || q < 8 || !(s.otherSlots c.pasid).contains (q - 8) || s.nodeFull p (q - 8) then s
    else mark (64 + 128 * p + (q - 8)) (cut s)

/-- MARKER_ARRIVAL (R441): `nums` the context, the colour, SEQ, the port or package, and where: 0 at this package, whose cut for a colour it may begin with
the descriptor in `bytes`; 1 at the pool node of the port; 2 that another package of the placement has taken its cut, and 3 that it has preserved every granule
and closed its logs; 8 more than a slot, from its package at the pool node of the port. -/
def execMarkerArrival (s : State) : Host.Outcome State Fault Refusal :=
  .next (match s.cue.nums with
    | [pasid, num, seq, p, at_] =>
      if 2 ≤ num || (s.ctx? pasid).isNone then s
      else
        let s := if at_ = 0 ∨ 8 ≤ at_ then s.markBegins pasid num seq else s
        match (s.colour? pasid num : Option Colour) with
        | some c => if c.st == ColourState.free || c.seq != seq then s else (s.takeMarker c p at_).settleColours
        | none => s
    | _ => s).wake

/-! ## The eave streamers: R447, R450 to R453 -/

/-- EAVE_SWEEP (R447): the granule of the cue's key among those unpreserved for a colour, `nums` its context and number; `yes` is an uncorrectable
error of its read. It waits while the staging buffer is full. -/
def execEaveSweep (s : State) : Host.Outcome State Fault Refusal :=
  .next (match s.cue.nums with
    | pasid :: num :: _ =>
      match (s.colour? pasid num : Option Colour) with
      | some c =>
        match ((s.unpreserved c)[s.cue.key]? : Option SnapRef) with
        | some r =>
          if ((s.stager r).map fun k => s.stageFull k r.size).getD false then s
          else (if s.cue.yes then s.failColour pasid num 5 else s.preserveRef c r).settleColours
        | none => s
      | none => s
    | _ => s).wake

/-- The head of a record, and its payload (R451). -/
def SnapRec.image (r : SnapRec) (c : Colour) : List Byte :=
  record 32 [(0, 2, r.kind), (2, 1, r.pkg), (3, 1, c.num), (4, 4, r.bytes.length), (8, 8, r.id), (0x10, 4, r.launch), (0x18, 8, c.seq)] ++ r.bytes

/-- What becomes of a write to the destination. -/
inductive Streamed where
  | done | wait | failed
  deriving DecidableEq, Repr

/-- Bytes of one page of the destination (R449): it must translate with W = 1 to the tier that DTIER names; only flash is written so. -/
def State.streamPage (s : State) (pasid dtier va : Nat) (bs : List Byte) : Streamed × State :=
  let want : Tier := if dtier = 1 then .pool else if dtier = 2 then .host else .flash
  match s.translate deviceUnit pasid (BitVec.ofNat 64 va) .engineWrite with
  | (.ok pa _ _ _, s) => if s.tierOf pa == want then (.done, s.deviceWrite pasid pa bs) else (.failed, s)
  | (.host e, s) => if dtier = 2 then (.wait, s.askHost e) else (.failed, s)
  | (.fault r _ _, s) =>
    if r = 0x08 ∧ dtier = 3 then
      match s.translate deviceUnit pasid (BitVec.ofNat 64 va) .engineRead with
      | (.ok pa _ _ _, s) => (.done, { s with mem := s.mem.write pa bs })
      | (_, s) => (.failed, s)
    else (.failed, s)

/-- Bytes of the destination, page by page; what is not written whole leaves the state as it was. -/
def State.stream (s : State) (pasid dtier : Nat) : Nat → Nat → List Byte → Streamed × State
  | 0, _, _ => (.done, s)
  | n + 1, va, bs =>
    if bs = [] then (.done, s)
    else
      let k := 4096 - va % 4096
      match s.streamPage pasid dtier va (bs.take k) with
      | (.done, t) => match t.stream pasid dtier n (va + k) (bs.drop k) with
        | (.done, u) => (.done, u)
        | x => x
      | x => x

/-- The streamer that writes a record: the one of the chiplet that staged it, of the chiplet of a log's port for four ports each, or chiplet 0's; a pool node's;
or that of another package (log 65). -/
def State.streamerOf (s : State) (c : Colour) (r : SnapRec) : Nat :=
  if 128 ≤ r.pkg then 8 + r.pkg
  else if r.pkg ≠ s.ownPackage c.pasid then 8 + r.pkg
  else match s.stager r.ref with
    | some k => k
    | none => if r.kind = 6 ∨ r.kind = 8 then r.id / 2 ^ 56 / 4 % 8 else 0

/-- A chiplet's streamer has written what it was given, at its rate, and takes the next record (R450). -/
def State.streamerFree (s : State) (k : Nat) : Bool := s.eave.all fun x => x.1 != k || decide (x.2 ≤ Config.streamRate * s.cycle)
/-- It takes one. -/
def State.streamerTakes (s : State) (k n : Nat) : State :=
  if 8 ≤ k then s else { s with eave := (k, Config.streamRate * s.cycle + n) :: s.eave.filter (·.1 != k) }

/-- Where a streamer writes n bytes: in what is left of its piece, or, where they do not fit there, in as many pieces from the shared cursor on as they need
(R450, log 65); `at_` is where the directory of another package has handed it those. -/
def Colour.place (c : Colour) (k n : Nat) (at_ : Option Nat) : Nat × Colour :=
  let rest := c.pieces.filter (·.1 != k)
  match c.pieces.find? fun p => p.1 == k && decide (n ≤ p.2.2) with
  | some (_, o, left) => (o, { c with pieces := (k, o + n, left - n) :: rest })
  | none =>
    let m := (n + Config.pieceBytes - 1) / Config.pieceBytes * Config.pieceBytes
    let o := at_.getD c.cursor
    (o, { c with cursor := o + m, pieces := (k, o + n, m - n) :: rest })

/-- A record goes to the destination, with an empty head behind it where room for one is left in the piece (log 65); the colour fails where the cursor would
pass LIMIT, where a page faults or lies in another tier, or where the contents are lost (R452). -/
def State.streamRecord (s : State) (c : Colour) (k : Nat) (r : SnapRec) (at_ : Option Nat) : State :=
  let bs := r.image c
  let unit := s.streamerOf c r
  let (o, c') := c.place unit bs.length at_
  let left := ((c'.pieces.find? (·.1 == unit)).map (·.2.2)).getD 0
  if r.bytes = [] ∧ r.kind ≠ 6 ∧ r.kind ≠ 8 then s.failColour c.pasid c.num 5
  else if c.limit < c'.cursor then s.failColour c.pasid c.num 1
  else
    let out := bs ++ zeros (min 32 left)
    match s.stream c.pasid c.dtier (out.length / 4096 + 2) (c.dest + o) out with
    | (.failed, s) => s.failColour c.pasid c.num 2
    | (.wait, t) => { s with ats := t.ats, nextKey := t.nextKey }
    | (.done, s) => (s.onColour c.pasid c.num fun c =>
      { c with
        bytes := c.bytes + bs.length
        cursor := c'.cursor
        pieces := c'.pieces
        recs := (c.recs.zipIdx.filter fun x => x.2 != k).map (·.1) ++ [{ r with out := some o }] }).streamerTakes unit bs.length

/-- STREAMER_WRITE (R450): the record of the cue's key among a colour's, `nums` its context and number, once it has been staged and its streamer is free; with
`yes`, a record of another package or pool node, `nums` going on with its kind, PKG, ID and LAUNCHID, `bytes` its payload. Where another package holds the
directory, the last of `nums` is the place of the piece that it hands out. -/
def execStreamerWrite (s : State) : Host.Outcome State Fault Refusal :=
  .next (match s.cue.nums with
    | pasid :: num :: xs =>
      match (s.colour? pasid num : Option Colour) with
      | some c =>
        if c.st == ColourState.free || !c.cut || s.updating then s
        else if s.cue.yes then
          match xs with
          | [kind, pkg, id, launch] => (s.streamRecord c c.recs.length ⟨kind, pkg, .other, id, launch, s.cue.bytes, none⟩ none).settleColours
          | _ => s
        else match (c.recs[s.cue.key]? : Option SnapRec) with
          | some r =>
            if r.out.isSome || s.unstaged c r.ref || !s.streamerFree (s.streamerOf c r) then s
            else if s.isOwn pasid 0 || xs != [] then
              (s.streamRecord c s.cue.key r (if s.isOwn pasid 0 then none else xs.head?)).settleColours
            else s
          | none => s
      | none => s
    | _ => s).wake

/-- COLOUR_CLOSING (R437, R453): every record is written, and the streamers have come to their ends; the directory writes the header and the status record, and the colour is Free. With other
packages in the placement, `yes` says that theirs are written. -/
def execColourClosing (s : State) : Host.Outcome State Fault Refusal :=
  .next (match s.cue.nums with
    | pasid :: num :: _ =>
      match (s.colour? pasid num : Option Colour) with
      | some c =>
        let alone := ((s.ctx? pasid).map fun (x : Context) => (Shape.of x.shape).pkg).getD 1 == 1
        if c.st != ColourState.closing || !(c.recs.all (·.out.isSome)) || !(List.range 8).all s.streamerFree || s.updating || !(alone || s.cue.yes) then s
        else
          let free : Colour := { c with st := .free, recs := [], bytes := 4096 + c.bytes, failed := false, code := 0 }
          if !s.isOwn pasid 0 then s.onColour pasid num fun _ => free
          else
            let check := leNat (shake256 ((c.recs.mergeSort fun (a b : SnapRec) => decide (a.out.getD 0 ≤ b.out.getD 0)).flatMap fun (r : SnapRec) => r.image c) 8)
            let head := record 4096 [(0, 4, 0x4B47534E), (4, 2, 1), (6, 1, num), (7, 1, 1), (8, 8, c.seq),
              (0x10, 4, ((s.ctx? pasid).map fun (x : Context) => x.shape.toNat).getD 0), (0x18, 8, c.bytes), (0x20, 8, check)]
            match (s.stream pasid c.dtier 2 c.dest head : Streamed × State) with
            | (.failed, s) => s.failColour pasid num 2
            | (.wait, t) => { s with ats := t.ats, nextKey := t.nextKey }
            | (.done, s) => (s.onColour pasid num fun _ => free).putSnapStatus free 1 s.hbeat.toNat
      | none => s
    | _ => s).wake

/-- SNAPSHOT_FAILURE (R452): a colour fails, `nums` its context, its number and a code. -/
def execSnapshotFailure (s : State) : Host.Outcome State Fault Refusal :=
  .next (match s.cue.nums with
    | [pasid, num, code] => if 1 ≤ code ∧ code ≤ 5 then s.failColour pasid num code else s
    | _ => s).wake

/-! ## SNAP and SNAPST: R457 to R459 -/

/-- The checks, the stalls and the effect of what `execSnap` issues. -/
def snapPlan (f : F64) : Plan :=
  let h := hdr64 0x1C 0x00 f
  let irrev := f.modBit 0
  let va (c : Cx) : DWord := c.ssrc f.s1
  let recs (c : Cx) : List (DWord × Nat) := [(va c, 64)]
  { ops := fun _ => sregOk f.dst && sregOk f.s1 && decide (f.s2.toNat < 16)
    uses := [(f.s1, true)]
    mem := true
    acts := true
    reading := fun c => c.s.storesTo c.g (recs c)
    ask := fun c s => readRecords (recs c) s
    table := fun _ => true
    own := fun c =>
      if !(((c.s.launchOf c.g).map fun l => l.rc.flags.getLsbD 2).getD false) then some (.precise Cause.priv 0 h.word)
      else match recordAlign [va c] with
        | some t => some t
        | none => match recordsSync c (recs c) with
          | .trap t => some t
          | .wait => none
          | .go => match snapDescFault (c.record (va c) 64) with
            | some code => some (copyRecord (va c) code 2)
            | none => escape c h irrev
    wait := fun c => c.s.memoryHeld c.g false || c.s.releaseWaits 5 || recordsSync c (recs c) == .wait
    eff := fun c s =>
      let s := readRecords (recs c) s
      let desc := c.record (va c) 64
      let s := if irrev then s.pin else s
      let pasid := s.pasidOf s.cur
      let s := (s.setWide).release (s.coreOfGroup s.cur) pasid (s.viewOf s.cur) 5
      let s : State := { s with cur := { s.cur with refused := false } }
      let dst := f.dst.toNat - 0x80
      let prd := f.s2.toNat
      let refs : List RegRef := [.sca dst, .prd prd]
      let s := s.serveTable
      if !s.isOwn pasid 0 || s.updating || s.claimsBefore pasid s.nextKey then c.launch h (.snap Option.none desc prd dst) [] refs 0 s
      else match s.claim pasid desc (some (s.cur.block, s.cur.gidx, s.nextKey)) true with
        | some (k, t) => c.launch h (.snap (some k) desc prd dst) [] refs 0 t
        | none => c.launch h .result (snapAnswer Option.none prd dst) refs 0 s }

/-- SNAP (R458): the claim is made at once where the directory is here and firmware serves it, and otherwise by SNAPSHOT_CLAIM. -/
def execSnap (f : F64) (s : State) : Host.Outcome State Fault Refusal :=
  issue (hdr64 0x1C 0x00 f) (snapPlan f) s

/-- The checks, the stalls and the effect of what `execSnapst` issues. -/
def snapstPlan (f : F64) : Plan :=
  let h := hdr64 0x1C 0x01 f
  { ops := fun _ => sregOk f.dst && sregOk f.s1
    uses := [(f.s1, true)]
    eff := fun c s =>
      let dst := f.dst.toNat - 0x80
      c.launch h (.snapst f.modLow ((c.ssrc f.s1).toNat % 2) dst) [] [.sca dst] 0 s.setWide }

/-- SNAPST (R459). -/
def execSnapst (f : F64) (s : State) : Host.Outcome State Fault Refusal :=
  issue (hdr64 0x1C 0x01 f) (snapstPlan f) s

/-- What a selector of SNAPST reads of a colour, with what the other units of the placement report (R459). -/
def State.snapStatus (s : State) (pasid num : Nat) (sel : BitVec 2) (others : Nat) : DWord :=
  match s.colour? pasid num with
  | none => 0
  | some c => BitVec.ofNat 64 <| match sel.toNat with
    | 0 => c.st.code + (if c.failed then 4 + 2 ^ 8 * c.code else 0) + 2 ^ 16 * (c.seq % 2 ^ 48)
    | 1 => (s.unpreserved c).length + others
    | 2 => c.bytes
    | _ => if c.st == .free then 0 else ((s.channels c).filter fun p => !c.markers.contains p).length + others

/-- What remains of a SNAPST; where another package holds the directory, `nums` is its answer. -/
def State.finishSnap (s : State) (r : FRef) : FlightOp → State
  | .snapst sel num dst =>
    match s.group? r.block r.gidx with
    | none => s
    | some g =>
      let pasid := s.pasidOf g
      if s.isOwn pasid 0 then s.land r [.sca dst (s.snapStatus pasid num sel (nth s.cue.nums 0))]
      else match s.cue.nums with
        | v :: _ => s.land r [.sca dst (BitVec.ofNat 64 v)]
        | [] => s
  | _ => s

/-! ## Restoring a snapshot: R455 -/

/-- The records of a destination area from an offset on, of so many bytes in all: each with its bytes, head and payload. A piece of the area in which no record
goes on ends in an empty head, or in less room than one takes (log 65). -/
def recordsFrom (area : List Byte) : Nat → Nat → Nat → List (SnapRec × List Byte)
  | 0, _, _ => []
  | n + 1, o, used =>
    let bs := area.drop o
    if used < 32 ∨ bs.length < 32 then []
    else
      let room := Config.pieceBytes - (o - 4096) % Config.pieceBytes
      let len := field bs 4 4
      if room < 32 ∨ field bs 0 2 = 0 then recordsFrom area n (o + room) used
      else (⟨field bs 0 2, field bs 2 1, .other, field bs 8 8, field bs 0x10 4, (bs.drop 32).take len, some o⟩, bs.take (32 + len)) ::
        recordsFrom area n (o + 32 + len) (used - (32 + len))
/-- The records of an area. -/
def areaRecords (area : List Byte) : List (SnapRec × List Byte) := recordsFrom area (area.length / 32) 4096 (field area 0x18 8)
def snapRecords (area : List Byte) : List SnapRec := (areaRecords area).map (·.1)

/-- The header of a destination area fails (R455 step 1): MAGIC, VALID or CHECK. -/
def snapHeaderBad (bs : List Byte) : Bool :=
  field bs 0 4 != 0x4B47534E || field bs 7 1 != 1 ||
    field bs 0x20 8 != leNat (shake256 ((areaRecords bs).flatMap (·.2)) 8) % 2 ^ 64

/-- The physical address of a record's ID in a placement; none where it lies at another package. -/
def State.ofLogicalId (s : State) (c : Context) (id : Nat) : Option Nat :=
  if id / 2 ^ 62 % 2 = 1 then some (id % 2 ^ 52)
  else
    let pkg := id / 2 ^ 39 % 128
    let chip := id / 2 ^ 36 % 8
    if pkg ≠ s.ownPackage c.pasid then none
    else if 2 ^ 63 ≤ id then some (2 ^ 36 * chip + id % 2 ^ 36)
    else some (2 ^ 36 * chipOf (physicalId c.place (BitVec.ofNat 32 (2 ^ 15 * pkg + 2 ^ 14 * (chip / 4) + 2 ^ 12 * (chip % 4)))) + id % 2 ^ 36)

/-- The entries of a page table that point into DRAM take the new chiplet of each old one (R455 step 2). -/
def State.retable (pasid : Nat) (moved : Nat → Nat) : List Level → Nat → State → State
  | [], _, s => s
  | l :: ls, node, s => (List.range (2 ^ l.bits)).foldl (fun (s : State) k =>
      let pa := node + 8 * k
      let e := (s.readPte pasid pa).1
      if (pteFault l e).isSome || (pteBit e 3 && pteBit e 7) then s
      else
        let a := pteAddr e
        let a' := if a < 2 ^ 39 then 2 ^ 36 * moved (a / 2 ^ 36) + a % 2 ^ 36 else a
        let e' := (e &&& ~~~0x000FFFFFFFFFF000) ||| BitVec.ofNat 64 a'
        let s := if e = e' then s else s.rootWrite pasid pa (natBytes 8 e'.toNat)
        if pteBit e 3 then s else State.retable pasid moved ls a' s) s

/-- The parts of a block image that other records of a snapshot hold (R451). -/
def snapParts (recs : List SnapRec) (ext : List Nat) (img : List Byte) : Parts :=
  let xs := sectionsOf img
  if (sectionAt xs 3).length ≠ 0 then ownParts 0 img
  else
    let id := field img 0x18 4
    let lin := field img 0x1C 4
    let locs := blockPart ext 0
    let row (loc k : Nat) : List Byte := ((recs.find? fun r => r.kind == 3 && r.launch == id && r.id == 2 ^ 32 * (loc - 1) + k).map (·.bytes)).getD []
    let groups := locs.map fun loc => if loc = 0 then zeros 5376 else (List.range 21).flatMap fun k => row loc (0x1000 + k)
    let segs := recs.filter fun r => r.kind == 2 && r.launch == id && r.id / 2 ^ 32 == lin
    let off (r : SnapRec) : Nat := r.id % 2 ^ 32
    let marks (o : Nat) : List Nat := (segs.flatMap fun r => (bitsIn ((r.bytes.drop o).take 32)).map (off r / 16 + ·)).foldl (fun l x => insertNat x l) []
    let unit (u : Nat) : Option (List Byte) := (recs.find? fun r => r.kind == 5 && r.launch == id && r.id % 2 ^ 32 == u).map (·.bytes)
    { recs := groups
      rows := (locs.zip groups).flatMap fun (loc, g) => (List.range (field g 4 1)).flatMap fun v => row loc v
      vault := { Alloc.empty with
        size := field (sectionAt xs 2) 0x20 4
        bytes := segs.foldl (fun (m : Memory) r => m.write (off r) (r.bytes.take 4096)) []
        full := marks 4096
        poison := marks 4128 }
      matrix := fun a =>
        let tiles := a.tiles.map fun (t : MxTile) => (List.range 128).foldl (fun (t : MxTile) r => match unit (rowUnit t.num r) with
          | none => t
          | some bs =>
            let t := (t.setRow r ((List.range 128).map fun k => BitVec.ofNat 32 (field bs (4 * k) 4))).setBad r (field bs 512 1 % 2 == 1)
            if r = 0 then { t with mism := BitVec.ofNat 64 (field bs 520 8) } else t) t
        { a with tiles := tiles, weights := a.cells.map fun c =>
            let bank (k : Nat) : MxBank × Bool := match unit (a.bankUnit c.1 c.2 k) with
              | none => (.clean, false)
              | some bs =>
                (.parse (bs.take 0x8000 ++ zeros 0x8000 ++ (bs.drop 0x8000).take 0x4000 ++ zeros 0x4000 ++ (bs.drop 0xC000).take 0x800 ++ zeros 0x800 ++
                  (bs.drop 0xC800).take 4) 0, field bs 0xC804 1 == 1)
            ⟨c.1, c.2, (bank 0).1, (bank 1).1, (bank 1).2⟩ } }

/-- The state after the pages and lines of a snapshot have been loaded. Of the pool's pages, with which the package of logical package 0 deals, those go back
that the restored page table maps: they are granted to the context (log 65). -/
def State.loadPages (s : State) (c : Context) (recs : List SnapRec) (old : List Nat) : State :=
  let page (s : State) (pa : Nat) (r : SnapRec) : State :=
    { s with mem := s.mem.write pa r.bytes, poison := s.poison.filter fun g => g / 256 != pa / 4096 }
  let pooled (r : SnapRec) : Bool := r.id / 2 ^ 62 % 2 == 1
  let s := (recs.filter fun r => r.kind == 1 && !pooled r).foldl (fun (s : State) r => match s.ofLogicalId c r.id with
    | some pa => page s pa r
    | none => s) s
  let moved (chip : Nat) : Nat := match natOpt (nth old chip) with
    | some k => chipOf (physicalId c.place (BitVec.ofNat 32 (2 ^ 15 * s.ownPackage c.pasid + 2 ^ 14 * (k / 4) + 2 ^ 12 * (k % 4))))
    | none => chip
  let s := State.retable c.pasid moved (if c.ptroot.getLsbD 0 then flatLevels else fiveLevels) (pteAddr c.ptroot) s
  let granted := s.mappedPages c.pasid
  let s := if !s.isOwn c.pasid 0 then s else (recs.filter fun r => r.kind == 1 && pooled r).foldl (fun (s : State) r =>
    if granted.contains (r.id % 2 ^ 52) then page s (r.id % 2 ^ 52) r else s) s
  (recs.filter fun r => r.kind == 4 && r.pkg == s.ownPackage c.pasid).foldl (fun (s : State) r => match s.ofLogicalId c r.id with
    | some pa =>
      if pooled r && !granted.contains (pageOf pa) then s
      else (bitsIn (r.bytes.drop 128)).foldl (fun (s : State) j => s.rootWrite c.pasid (pa + j) [(r.bytes[j]?).getD 0]) s
    | none => s) s

/-- A logged packet arrives again (R455 step 4). -/
def State.replayPacket (s : State) (pasid : Nat) (bs : List Byte) : State :=
  match unflits bs with
  | (0 :: sender :: tag :: win :: off :: n :: at_ :: port :: bad, data) => s.arrive ⟨true, port, pasid, sender, tag, win, off, n, at_, data, bad, []⟩
  | (1 :: sender :: tag :: win :: off :: n :: at_ :: port :: _, _) => s.arrive ⟨false, port, pasid, sender, tag, win, off, n, at_, [], [], []⟩
  | (2 :: seq :: chunk :: member :: digest :: bad, data) => { s with chunks := s.chunks ++ [⟨pasid, seq, chunk, member, digest, data, bad⟩] }
  | ([6, seq], _) => { s with chunks := s.chunks ++ [⟨pasid, seq, 0, 128, 0, [], []⟩] }
  | _ => s

/-- A logged packet arrives again at a pool node: bytes written back, an NMO, or an atomic, on a page that the context is granted. What it answered has
reached its sender's record, as state or as a logged response (R443). -/
def State.replayAtNode (s : State) (granted : List Nat) (bs : List Byte) : State :=
  let may (pa : Nat) : Bool := granted.contains (pageOf pa)
  match unflits bs with
  | (3 :: pas, data) => (pas.zip data).foldl (fun (s : State) x => if may x.1 then { s with mem := s.mem.set x.1 x.2 } else s) s
  | ([4, _, _, pa, arena, asize], parm) => if may pa then (s.nodeAct pa arena asize parm).2 else s
  | ([5, _, _, pa, op, wide, data, expect], _) =>
    let n := if wide = 1 then 8 else 4
    match atomNew op (wide == 1) (BitVec.ofNat 64 (leNat (s.mem.read pa n))) (BitVec.ofNat 64 data) (BitVec.ofNat 64 expect) with
    | some v => if may pa then { s with mem := s.mem.write pa (natBytes n v.toNat) } else s
    | none => s
  | _ => s

/-- A logged response arrives again for the request that it names; names begin at `base`. -/
def State.replayResponse (s : State) (base : Nat) (bs : List Byte) : State :=
  let key := base + (unflits bs).1.headD 0
  match s.fabReq? key with
  | none => s
  | some r => match ((unflits bs).1.tail, (unflits bs).2) with
    | (0 :: code :: off :: _, _) => (s.onCounts r.pasid r.win fun c => { c with src := c.src - 1 }).endReq r code off []
    | (1 :: 1 :: code :: off :: _, _) => s.fabFail key code off
    | (1 :: 0 :: off :: bad, data) => s.getWrite key ⟨off, data, bad⟩
    | (2 :: st :: ws, _) => s.onReq key fun r => { r with result := some (ws.map fun (x : Nat) => BitVec.ofNat 64 x, st) }
    | _ => s

/-- The pages of a context's owned segments take the bytes that a snapshot recorded in their stead (R182), for its blocks to map them again. -/
def State.fillOwned (s : State) (pasid : Nat) (recs : List SnapRec) : State :=
  s.parked.foldl (fun (s : State) p => match s.block? p.block with
    | none => s
    | some b =>
      if b.pasid != pasid then s
      else p.segs.foldl (fun (s : State) x => match (s.translate deviceUnit pasid (BitVec.ofNat 64 x.2.2) .engineRead).1 with
        | .ok pa _ _ _ =>
          let lin := recs.any fun r => r.kind == 2 && r.id == 2 ^ 32 * b.lin + x.1 && r.launch == ((s.launch? b.launch).map (·.rc.launchId)).getD 0
          if x.2.1 || !lin || recs.any (fun r => r.kind == 1 && r.id == s.logicalId pasid pa) then s
          else s.rootWrite pasid pa (b.vault.bytes.read x.1 4096)
        | _ => s) s) s

/-- A snapshot is loaded into a created context (R455 steps 2 to 4); SEQ goes on from the record's. -/
def State.loadSnapshot (s : State) (c : Context) (area : List Byte) : State :=
  let recs := snapRecords area
  let img := ((recs.find? fun r => r.kind == 7 && r.pkg == s.ownPackage c.pasid).map (·.bytes)).getD []
  let old := firmwareList img 8
  let s := s.loadPages c recs old
  let base := s.nextKey
  let s := s.loadContext c.pasid img fun k i => snapParts recs (firmwareBlock img k) i
  let s := s.fillOwned c.pasid recs
  let inOrder (p : SnapRec → Bool) : List SnapRec := (recs.filter p).mergeSort fun a b => decide (a.pkg < b.pkg) || (a.pkg == b.pkg && decide (a.id ≤ b.id))
  let granted := s.mappedPages c.pasid
  let s := if !s.isOwn c.pasid 0 then s
    else (inOrder fun r => r.kind == 6 && decide (128 ≤ r.pkg)).foldl (fun (s : State) r => s.replayAtNode granted r.bytes) s
  let s := (inOrder fun r => r.kind == 6 && r.pkg == s.ownPackage c.pasid).foldl (fun (s : State) r => s.replayPacket c.pasid r.bytes) s
  let s := (inOrder fun r => r.kind == 8 && r.pkg == s.ownPackage c.pasid).foldl (fun (s : State) r => s.replayResponse base r.bytes) s
  let num := field area 6 1
  let seq := field area 8 8
  let done := Colour.over c.pasid num seq (zeros 64) 0
  { s with colours := s.colours.filter (fun x => !(x.pasid == c.pasid && x.num == num)) ++ [done] }

/-- The statuses of R409 for a snapshot (R455 step 1). -/
def State.snapshotStatus (s : State) (c : Context) (area : List Byte) : Nat :=
  if snapHeaderBad area then 2
  else
    let recs := snapRecords area
    let img := ((recs.find? fun r => r.kind == 7 && r.pkg == s.ownPackage c.pasid).map (·.bytes)).getD []
    if field area 4 2 != 1 then 3
    else if field area 0x10 4 != c.shape.toNat then 4
    else imageStatus c.shape img

end Sys2Proof.Machine
end

