-- ==== Sys2Proof/Machine/Reliability.lean ====
section
/-! DEFINITION. Errors and their fates (R461 to R468), failed ports (R311, R312), containment and the removal of contexts (R124, R466, R479), resets
and thermal events (R474, R475). -/

namespace Sys2Proof.Machine

/-! ## Firmware's records -/

/-- An answer to a management command. -/
def State.reply (s : State) (command : String) (status : Nat) (bytes : List Byte) : State :=
  { s with mgmt := { s.mgmt with replies := s.mgmt.replies ++ [⟨command, status, bytes⟩] } }

/-- A page or segment is quarantined (R467); with a full list the package is degraded and lists no more. -/
def State.quarantine (s : State) (page : Nat) : State :=
  let q := s.mgmt.quarantine
  if q.contains page || s.mgmt.failed.contains page then s
  else if 4096 ≤ q.length + s.mgmt.failed.length then { s with mgmt := { s.mgmt with degraded := true } }
  else { s with mgmt := { s.mgmt with quarantine := q ++ [page], degraded := s.mgmt.degraded || q.length + s.mgmt.failed.length == 4095 } }

/-! ## Contexts go: R124, R466, R479 -/

/-- What bears a context's name leaves the package once its blocks have gone, but for the context, its translations, its window counters and the stores that
it still owes. Its dirty lines are written back first (log 71). The arbiter goes on where it stands (R374). -/
def State.purgeWork (s : State) (p : Nat) : State :=
  let s := (List.range 128).foldl (fun (s : State) core => s.release core p 0 6) s
  let keys := (s.launches.filter fun l => l.pasid == p).map (·.key)
  { s with
    l1 := s.l1.filter fun c => c.pasid != p
    l2 := s.l2.filter fun c => c.pasid != p
    homes := s.homes.filter fun c => c.pasid != p
    icache := s.icache.filter fun c => c.pasid != p
    vlines := s.vlines.filter fun l => l.pasid != p
    views := s.views.filter fun v => v.pasid != p
    sibs := s.sibs.filter fun x => x.pasid != p
    aliases := s.aliases.filter fun a => a.1 != p
    sharing := s.sharing.filter fun g => g.pasid != p
    unpresPages := s.unpresPages.filter fun u => u.1 != p
    unpresLines := s.unpresLines.filter fun u => u.1 != p
    items := s.items.filter fun i => i.pasid != p
    inbox := s.inbox.filter fun a => a.pasid != p
    inPuts := s.inPuts.filter fun a => a.pasid != p
    sched := s.sched.filter fun e => e.pasid != p
    mails := s.mails.filter fun m => m.pasid != p
    fabric := s.fabric.filter fun r => r.pasid != p
    chunks := s.chunks.filter fun c => c.pasid != p
    queues := s.queues.filter fun q => q.pasid != p
    arbiter := s.arbiter.filter fun a => a.1 != p
    arbAt := s.arbAt - ((s.arbiter.take s.arbAt).filter fun a => a.1 == p).length
    preempts := s.preempts.filter fun x => x.pasid != p
    colours := s.colours.filter fun c => c.pasid != p
    launches := s.launches.filter fun l => !keys.contains l.key
    toContain := s.toContain.filter (· != p) }

/-- The rest goes too. The window counters stay until the PASID is free (R315, R466). -/
def State.purge (s : State) (p : Nat) : State :=
  let s := s.purgeWork p
  { s with
    tlb := s.tlb.filter fun e => e.pasid != p
    ats := s.ats.filter fun a => a.pasid != p
    owed := s.owed.filter fun o => o.pasid != p
    dying := s.dying.filter fun x => x.1 != p
    ctxs := s.ctxs.filter fun c => c.pasid != p }

/-- Every block of a context goes. -/
def State.dropBlocks (s : State) (p : Nat) : State :=
  let mine := s.blocks.filter fun b => b.pasid == p
  let gone := mine.map (·.key)
  let s := mine.foldl (fun (s : State) b => if b.launch = 0 then s.forget b.key else s.dropBlock b.key) s
  { s with
    mxAllocs := s.mxAllocs.filter fun a => !gone.contains a.block
    mxEntries := s.mxEntries.filter fun e => !gone.contains e.block }

/-- A PASID is torn down (R124): its busy colours fail (R452), what is outstanding for it ends as "context gone" without a trap, and it is reported free once
the host's ATS invalidation for it has completed. -/
def State.tearPasid (s : State) (p : Nat) (destroy : Bool) : State :=
  let s := ((s.failColours p 4).dropBlocks p).purge p
  { s with leaving := s.leaving ++ [(p, destroy)] }

/-- The removal of a context comes to its end (step 6 of R466): the PASID is torn down, and the host is told. -/
def State.finishRemoval (s : State) (x : Nat × Bool × Bool) : State :=
  let vf := ((s.ctx? x.1).map (·.vf)).getD 0
  let s := s.tearPasid x.1 x.2.1
  if x.2.2 then s.send ⟨6, vf, x.1, 64, 0, 0, [], []⟩ else s

/-- Removals whose reports have all been stored come to their ends. -/
def State.finishRemovals (s : State) : State :=
  (s.dying.filter fun x => !s.owed.any fun o => o.pasid == x.1).foldl State.finishRemoval s

/-- What saved blocks of a context hold at engines reports with what stands there (step 3 of R466). -/
def State.unpark (s : State) (p : Nat) : State :=
  let mine := s.parked.filter fun x => s.blocks.any fun b => b.key == x.block && b.pasid == p
  { s with
    items := s.items ++ mine.flatMap (·.items)
    mxEntries := s.mxEntries ++ mine.flatMap (·.entries)
    parked := s.parked.map fun x => if mine.any (·.block == x.block) then { x with items := [], entries := [] } else x }

/-- Firmware contains a context, or removes one (R466 steps 1 to 6, R479): queues stop with a code, requests and engine work end and are reported, each
live launch takes STATE 3, busy colours fail, and the PASID is torn down once what reports this has been stored; `tell` sends the virtual function's error
vector. -/
def State.removeContext (s : State) (c : Context) (code : Nat) (destroy tell : Bool) : State :=
  let p := c.pasid
  if s.dying.any (·.1 == p) then { s with dying := s.dying.map fun x => if x.1 == p then (p, x.2.1 || destroy, x.2.2 || tell) else x }
  else
    let s := (s.queues.filter fun q => q.pasid == p).foldl (fun (s : State) q =>
      s.stopQueue p q.num code ((q.head.map (·.idx)).getD q.rd)) s
    let s := (s.fabric.filter fun r => r.pasid == p).foldl (fun (s : State) r =>
      s.onCounts p r.win fun w => { w with err := w.err ||| 0x10 }) s
    let s := s.unpark p
    let s := (s.blocks.filter fun b => b.pasid == p).foldl (fun (s : State) b => s.cancelWork b.key) s
    let s := (s.items.filter fun i => i.pasid == p).foldl (fun (s : State) it => match it.kind with
      | .tier k => s.endTier it k 4
      | _ => s.endItem it 6) s
    let s := (s.launches.filter fun l => l.pasid == p).foldl (fun (s : State) l => s.endLaunchAs l 3) s
    let s := ((s.failColours p 4).dropBlocks p).purgeWork p
    let s := s.onCtx p fun c => { c with qbase := 0, tsbase := 0, winbase := 0, begun := false }
    ({ s with dying := s.dying ++ [(p, destroy, tell)] } : State).finishRemovals

/-- A context is contained (R466). -/
def State.contain (s : State) (p : Nat) : State :=
  match s.ctx? p with
  | some c => (s.removeContext c 0x05 false true).logError ErrKind.contained p []
  | none => { s with toContain := s.toContain.filter (· != p) }
/-- Every context that firmware has to contain is contained. -/
def State.containAll (s : State) : State := s.toContain.foldl State.contain s
/-- Every resident context is contained. -/
def State.containEvery (s : State) : State := (s.ctxs.map (·.pasid)).foldl State.contain s

/-- PASID_TEARDOWN (R124): the host tears down the PASID of the cue's key. -/
def execPasidTeardown (s : State) : Host.Outcome State Fault Refusal :=
  .next (match (s.ctx? s.cue.key : Option Context), (s.dying.find? fun x => x.1 == s.cue.key : Option (Nat × Bool × Bool)) with
    | some _, some x => s.finishRemoval x
    | some _, none => s.tearPasid s.cue.key false
    | none, _ => s).wake

/-- ATS_INVALIDATION (R123): translations of a range of a PASID are dropped everywhere, once what they served has been performed: `nums` the PASID, the
address and the length, a length of 0 being every address. The addresses are taken as the context's virtual ones (DESIGN CHOICE, log 89). A PASID torn down is free then (R124), and a DESTROY completes (R479). -/
def execAtsInvalidation (s : State) : Host.Outcome State Fault Refusal :=
  .next (match s.cue.nums with
    | [p, va, len] =>
      let s := ((List.range 128).foldl (fun (s : State) core => s.release core p 0 5) s).tlbDrop (fun _ => true) p (if len = 0 then 0 else va)
        (if len = 0 then 2 ^ 57 else len)
      match (s.leaving.find? fun x => x.1 == p : Option (Nat × Bool)) with
      | some (_, destroy) =>
        let s : State := { s with leaving := s.leaving.filter fun x => x.1 != p, windows := s.windows.filter fun w => w.pasid != p }
        if destroy then s.reply "DESTROY" 0 [] else s
      | none => s
    | _ => s).wake

/-! ## Ports: R311, R312 -/

/-- What has left on a failed port leaves again on the next one in use, with the same bytes (R311); none is left where the package has lost every port. -/
def State.sendAgain (s : State) (port : Nat) (x : Sent) : Option State := if x.port = port then (s.portFrom port).map fun q => s.send { x with port := q } else some s

/-- Requests outstanding on a failed port are sent again: chunks of PUTs, an empty PUT among them, requests of GETs whose data has not come, and the chunks
of collectives that go on. -/
def State.resend (s : State) (port : Nat) : State :=
  let s := s.fabric.foldl (fun (s : State) (r : FabReq) =>
    if r.host || s.isOwn r.pasid r.target || r.kind == .nmo then s
    else
      let kind := if r.kind == .put then 0 else 1
      (r.left.filter fun o => !r.data.any fun d => d.off == o).foldl (fun (s : State) o =>
        match (s.sent.filter fun x => x.kind == kind && x.pasid == r.pasid && x.a == r.win && x.b == o && (unflits x.bytes).1.head? == some r.key).getLast? with
        | some x => (s.sendAgain port x).getD (s.fabFail r.key 0x14 (o / 16 * 16))
        | none => s) s) s
  let going (x : Sent) : Bool := x.kind == 5 && s.items.any fun i => i.kind == .coll && i.pasid == x.pasid && field i.coll 0x18 8 == x.a
  (s.sent.filter going).foldl (fun (s : State) x => (s.sendAgain port x).getD s) s

/-- PORT_FAILURE (R311, R312): the port of the cue's key is out of use until a reset; requests that were outstanding on it go to the next one, NMOs on
its pool node end with code 0x14, and a colour whose markers have not all crossed it fails. -/
def execPortFailure (s : State) : Host.Outcome State Fault Refusal :=
  let p := s.cue.key
  .next (if 32 ≤ p ∨ s.ports.contains p then s
    else
      let s : State := { s with ports := insertNat p s.ports, stops := s.stops.filter (· != p) }
      let s := (s.resend p).logError ErrKind.port 0 [p]
      let s := (s.fabric.filter fun (r : FabReq) => r.kind == FabKind.nmo && s.lostNode r.pa && r.result.isNone).foldl
        (fun (s : State) r => s.fabFail r.key 0x14 r.addr) s
      (s.colours.filter fun (c : Colour) => c.st != ColourState.free && !(c.markers.contains p && c.markers.contains (32 + p))).foldl
        (fun (s : State) c => s.failColour c.pasid c.num 3) s).wake

/-! ## Storage errors: R461 to R463 -/

/-- CORRECTED_ERROR (R461): repaired in place and counted in the error log. -/
def execCorrectedError (s : State) : Host.Outcome State Fault Refusal := .next (s.logError ErrKind.corrected s.cue.key s.cue.nums).wake

/-- A granule that a colour holds unpreserved is lost to it (R452). -/
def State.lostToColours (s : State) (hit : SnapRef → Bool) : State :=
  (s.colours.filter fun c => c.st != .free && (s.unpreserved c).any hit).foldl (fun (s : State) c => s.failColour c.pasid c.num 5) s

/-- Bytes of a cache in a granule of a view: clean ones are fetched again, and dirty ones are written back poisoned. -/
def State.cacheError (s : State) (dirty : Bool) (pasid view pa : Nat) : State := if dirty then s.poisonIn pasid view pa true else s

/-- A byte of a cache lies in a granule. -/
def CByte.inGranule (c : CByte) (pasid view pa : Nat) : Bool := c.pasid == pasid && c.view == view && c.pa / 16 == pa / 16

/-- Contexts with a block on a chiplet, or a line there. -/
def State.onChip (s : State) (chip : Nat) : List Nat :=
  ((s.groups.filter fun g => s.isResident g.block && chipOfCore (s.coreOfGroup g) == chip).map s.pasidOf ++
    (s.l1.filter fun c => chipOfCore c.unit == chip).map (·.pasid) ++ ((s.l2 ++ s.homes).filter fun c => c.unit == chip).map (·.pasid) ++
    (s.vlines.filter fun l => decide (l.pa < 2 ^ 52) && homeOf l.pa == chip).map (·.pasid)).eraseDups

/-- A register of a group is lost (R461), and its row to the colours that hold it unpreserved (R452): vector rows first, then those of R404. -/
def State.loseRegister (s : State) (block gidx row : Nat) (r : RegRef) : State :=
  (s.onGroup block gidx fun g => { g with poison := r :: g.poison.filter (· != r) }).lostToColours (· == .row block gidx row)

/-- Bytes of a core's L1 in a granule are lost. -/
def State.loseL1 (s : State) (core pasid view pa : Nat) : State :=
  let hit (c : CByte) : Bool := c.unit == core && c.inGranule pasid view pa
  (({ s with l1 := s.l1.filter fun c => !hit c, mended := s.mended.filter (· != (core, granOf pa)) } : State).cacheError
    (s.l1.any fun c => hit c && c.dirty) pasid view pa).lostToColours (· == .line core 0 (lineOf pa))

/-- Bytes of a chiplet's L2 and home copies in a granule are lost; `dirty` says what those of a line at its home were that the model keeps in memory. -/
def State.loseL2 (s : State) (chip pasid view pa : Nat) (dirty : Bool) : State :=
  let hit (c : CByte) : Bool := c.unit == chip && c.inGranule pasid view pa
  let held := s.l2.any hit || s.homes.any hit
  (({ s with l2 := s.l2.filter fun c => !hit c, homes := s.homes.filter fun c => !hit c, mended := s.mended.filter (· != (l2Place chip, granOf pa)) } : State).cacheError
    (if held then (s.l2 ++ s.homes).any fun c => hit c && c.dirty else dirty) pasid view pa).lostToColours fun r =>
      r == .line (256 + chip) 0 (lineOf pa) || r == .line (512 + chip) 0 (lineOf pa)

/-- The fate of an uncorrectable error in the storage that the numbers name (R461; log 70). -/
def State.storageError (s : State) (block gidx : Nat) (dirty : Bool) : List Nat → State
  | [0, r] => s.loseRegister block gidx (r % 128) (.vec (r % 128))
  | [1, r] => s.loseRegister block gidx (128 + (0x1200 + 8 * (r % 96)) / 256) (.sca (r % 96))
  | [2, r] => s.loseRegister block gidx 128 (.prd (r % 16))
  | [3, r] => s.loseRegister block gidx (128 + (0x400 + 64 * (r % 8)) / 256) (.wlk (r % 8))
  | [4, core, pasid, view, pa] => s.loseL1 core pasid view pa
  | [5, core, va] => { s with icache := s.icache.filter fun b => !(b.core == core && lineOf b.va == lineOf va) }
  | [6, chip, pasid, view, pa] => s.loseL2 chip pasid view pa dirty
  | [7, chip] => ({ s with toContain := (s.onChip chip).foldl (fun l p => insertNat p l) s.toContain } : State).containAll
  | [8, gran] =>
    match s.block? block with
    | none => s
    | some b =>
      let s := (s.poisonVault block gran true).lostToColours fun r => r == .segment block (gran / 256)
      s.quarantine (vaultPage b.vault.core (b.vault.base + 16 * gran))
  | [9, pa] =>
    let s := ({ s with poison := insertNat (pa / 16) s.poison } : State).lostToColours fun r => r == .page (pageOf pa)
    if pa < 2 ^ 39 then s.quarantine (pageOf pa) else s
  | [10, cluster, tile, row] =>
    let mark (t : MxTile) : MxTile := if t.num == tile then t.setBad row true else t
    ({ s with mxAllocs := s.mxAllocs.map fun a => if a.cluster == cluster then { a with tiles := a.tiles.map mark } else a } : State).lostToColours
      (· == .matrix cluster (rowUnit tile row))
  | [11, cluster, seg, col, bank, n, k] =>
    let mine (a : MxAlloc) : Bool := a.cluster == cluster && a.block == block
    let units := (s.mxAllocs.filter mine).map fun a => SnapRef.matrix cluster (a.bankUnit seg col (min 1 bank))
    ({ s with mxAllocs := s.mxAllocs.map fun a =>
        if mine a then
          let w := a.weight seg col
          a.putWeight (if bank = 0 then { w with b0 := w.b0.mark n k } else { w with b1 := w.b1.mark n k })
        else a } : State).lostToColours units.contains
  | [12, pasid, pa] =>
    let s : State := { s with poison := insertNat (pa / 16) s.poison, toContain := insertNat pasid s.toContain }
    (if pa < 2 ^ 39 then s.quarantine (pageOf pa) else s).containAll
  | [13, lane, kind] => s.onGroup block gidx fun g => if g.shadow then { g with differs := some (lane % 64, kind % 4) } else g
  | [14, r] =>
    let two := { s.mgmt.pair.2 with sregs := s.mgmt.pair.2.sregs.set! (r % 96) (s.freeWord 41000) }
    { s with mgmt := { s.mgmt with pair := (s.mgmt.pair.1, two) }, free := s.free + 1 }
  | _ => s

/-- UNCORRECTABLE_ERROR (R461): `nums` names the storage, with the cue's block and group where it is theirs; `yes` says that a granule of an L2 line at its
home was dirty. Two of them are what makes a shadow differ from its group (R464) and a Ridge core from its pair (R468; log 23, log 87). -/
def execUncorrectableError (s : State) : Host.Outcome State Fault Refusal :=
  .next ((s.storageError s.cue.block s.cue.gidx s.cue.yes s.cue.nums).logError ErrKind.uncorrectable s.cue.key s.cue.nums).wake

/-- A page or segment that a context still holds. -/
def State.pageHeld (s : State) (page : Nat) : Bool :=
  if page < vaultPage 0 0 then s.ctxs.any fun c => (s.mappedPages c.pasid).contains page
  else
    let core := (page - vaultPage 0 0) / 2 ^ 24
    let off := (page - vaultPage 0 0) % 2 ^ 24
    s.blocks.any fun b => b.resident && b.vault.core == core && decide (b.vault.base < off + 4096) && decide (off < b.vault.base + b.vault.size)

/-- PAGE_SCRUB (R467): a quarantined page that no context holds is written with zeros and read back clean twice, and its poison goes; with `yes` it
fails, and stays quarantined until the next cold reset. -/
def execPageScrub (s : State) : Host.Outcome State Fault Refusal :=
  let page := s.cue.key
  .next (if !s.mgmt.quarantine.contains page || s.pageHeld page then s
    else
      let left := s.mgmt.quarantine.filter (· != page)
      let m := { s.mgmt with quarantine := left, degraded := decide (4096 ≤ left.length + s.mgmt.failed.length + bit s.cue.yes) }
      if s.cue.yes then { s with mgmt := { m with failed := m.failed ++ [page] } }
      else if page < vaultPage 0 0 then
        { s with mgmt := m, mem := s.mem.write page (zeros 4096), poison := s.poison.filter fun g => g / 256 != page / 4096 }
      else { s with mgmt := m }).wake

/-! ## Opportunistic replay and lock step: R465, R468 -/

/-- OPPORTUNISTIC_REPLAY (R465): the partition of the cue's key executes again the instruction of its replay queue that the cue lists by its place, the latest
first; with `yes` the results differ. The eighth mismatch within 2^20 ticks retires the partition, and the blocks with groups there are saved and restored
elsewhere. -/
def execOpportunisticReplay (s : State) : Host.Outcome State Fault Refusal :=
  let p := s.cue.key
  .next (match s.cue.yes, ((s.replayQ.filter fun (x : Replayed) => x.part == p)[(s.cue.nums.head?).getD 0]? : Option Replayed) with
    | true, some x =>
      let t := s.hbeat.toNat
      let s := s.logError ErrKind.replay 0 [p, x.word.toNat]
      let rs := s.mgmt.replays ++ [(p, t)]
      let n := (rs.filter fun (x : Nat × Nat) => x.1 == p && decide (t ≤ x.2 + 2 ^ 20)).length
      let s : State := { s with mgmt := { s.mgmt with replays := rs } }
      if n < 8 ∨ s.mgmt.retired.contains p then s
      else
        let on := ((s.groups.filter fun (g : Group) => !g.front && s.isResident g.block && s.partitionOf g == p).map fun (g : Group) => g.block).eraseDups
        on.foldl (fun (s : State) k => s.saveTogether k (some 0)) { s with mgmt := { s.mgmt with retired := s.mgmt.retired ++ [p] } }
    | _, _ => s).wake

/-- An update that has not been committed is rolled back (R472), and with it what it would have emulated. -/
def State.rollBack (s : State) : State := { s with mgmt := { s.mgmt with update := .idle, newEmu := s.mxemu } }

/-- The Ridge pair differs (R468): it is reloaded from its journal and every act since is repeated, which changes nothing; a trial is rolled back (R472). A
second mismatch within 2^22 ticks contains every resident context. -/
def State.ridgeMismatch (s : State) : State :=
  let t := s.hbeat.toNat
  let again := match s.mgmt.ridge with | some u => decide (t ≤ u + 2 ^ 22) | none => false
  let s := s.logError ErrKind.ridge 0 [t]
  let s : State := { s with mgmt := { s.mgmt with ridge := some t, pair := (s.mgmt.pair.1, s.mgmt.pair.1) } }
  let s := if s.mgmt.update == .trial then s.rollBack else s
  if again then s.containEvery.reply "RIDGE_MISMATCH" 1 [] else s

/-- RIDGE_MISMATCH (R468). -/
def execRidgeMismatch (s : State) : Host.Outcome State Fault Refusal := .next s.ridgeMismatch.wake

/-- The two Ridge cores agree. -/
def State.agrees (s : State) : Bool := s.mgmt.pair.1.sregs.toList == s.mgmt.pair.2.sregs.toList
/-- They are compared before an act of firmware takes effect (R372, R468). -/
def State.compared (s : State) : State := if s.agrees then s else s.ridgeMismatch

/-! ## Resets and power: R469, R474, R475 -/

/-- The parts of a Guldanen image as firmware stores it (log 72): key, signature, security version, and the rest. -/
def imageKey (img : List Byte) : List Byte := img.take 57
def imageSig (img : List Byte) : List Byte := (img.drop 57).take 114
def imageVersion (img : List Byte) : Nat := field img 171 4

/-- Steps 2 to 4 of R469: the image's digest, its signature against a key whose digest lies in one of the four fuse slots that is not revoked, and its
security version. -/
def Management.passes (m : Management) (img : List Byte) : Bool :=
    (((m.keys.take 4).zipIdx).any fun k => !m.revoked.getLsbD k.2 && k.1 == shake256 (imageKey img) 64) &&
      Config.ed448Verify (imageKey img) (shake256 (img.take 57 ++ img.drop 171) 64) (imageSig img) &&
      decide (m.minimum ≤ imageVersion img)

/-- The image of a slot. -/
def Management.image (m : Management) (slot : Nat) : List Byte := if slot = 0 then m.image0 else m.image1

/-- The boot ROM chooses an image (R469): the active slot's, or the other's; with neither the package stays in recovery. -/
def Management.boot (m : Management) : Management :=
  if m.passes (m.image m.active) then { m with recovery := false }
  else if m.passes (m.image (1 - m.active)) then { m with active := 1 - m.active, recovery := false }
  else { m with recovery := true }

/-- COLD_RESET (R474): everything, and the boot ROM runs. Fuses, flash, and memory outside the package remain. -/
def execColdReset (s : State) : Host.Outcome State Fault Refusal :=
  let m := s.mgmt
  .next { State.reset with
    slot := s.slot
    nextKey := s.nextKey
    free := s.free
    agenda := s.agenda
    mem := s.mem.filter fun c => decide (2 ^ 39 ≤ c.1)
    poison := s.poison.filter fun g => decide (2 ^ 35 ≤ g)
    hdmNext := s.hdmNext
    mgmt := ({ Management.reset with
      rom := m.rom, active := m.active, image0 := m.image0, image1 := m.image1, config := m.config, minimum := m.minimum, keys := m.keys
      revoked := m.revoked } : Management).boot }

/-- A warm reset (R474): every context is contained, and firmware restarts without measuring again. Ports are back in use (R312). -/
def State.warmReset (s : State) : State :=
  let s := if s.mgmt.update == .trial then s.containEvery.rollBack else s.containEvery
  { s with ports := [], stops := [], stopping := [], mgmt := { s.mgmt with update := .idle, spdm := 0, script := [], ridge := none } }

/-- WARM_RESET (R474). -/
def execWarmReset (s : State) : Host.Outcome State Fault Refusal := .next s.warmReset.wake

/-- FUNCTION_LEVEL_RESET (R474, R479): of the virtual function of the cue's key. -/
def execFunctionLevelReset (s : State) : Host.Outcome State Fault Refusal :=
  .next (match (s.ctxs.find? fun (c : Context) => c.vf == s.cue.key : Option Context) with
    | some c => s.removeContext c 0x06 false true
    | none => s).wake

/-- THERMAL_TRIP (R475): a warm reset, held. -/
def execThermalTrip (s : State) : Host.Outcome State Fault Refusal :=
  .next (({ s.warmReset with mgmt := { s.warmReset.mgmt with tripped := true } } : State).wake)
/-- TRIP_RELEASE (R475): the junction is below 85 °C. -/
def execTripRelease (s : State) : Host.Outcome State Fault Refusal := .next (({ s with mgmt := { s.mgmt with tripped := false } } : State).wake)
/-- THROTTLE (R475): the device gates partition issue and matrix plane cycles while `yes`; what is done stays the same (log 2). -/
def execThrottle (s : State) : Host.Outcome State Fault Refusal := .next (({ s with mgmt := { s.mgmt with gated := s.cue.yes } } : State).wake)

end Sys2Proof.Machine
end

