-- ==== Sys2Proof/Machine/Management.lean ====
section
/-! DEFINITION. SPDM (R470), live firmware updates (R472, R473), and the management commands (R476): images, creating, removing and restoring contexts
(R409, R477 to R479), the power cap, telemetry, the error log and the quarantine list. -/

namespace Sys2Proof.Machine

/-! ## SPDM: R470 -/

/-- An SPDM request is answered; the request and the answer join the transcript. -/
def State.spdmReply (s : State) (name : String) (code status : Nat) (bytes : List Byte) : State :=
  let s := s.reply name status bytes
  { s with mgmt := { s.mgmt with script := s.mgmt.script ++ natBytes 1 code ++ s.cue.bytes ++ bytes } }

/-- SPDM requests wait while firmware updates itself (R473) and while a thermal trip holds the package (R475). -/
def State.spdmWaits (s : State) : Bool := s.updating || s.mgmt.tripped

/-- The stage of the exchange at least that a request needs; otherwise it is answered with status 1 (log 73). -/
def spdmAt (n : Nat) (act : State → State) (name : String) (s : State) : Host.Outcome State Fault Refusal :=
  .next (if s.spdmWaits then s else if s.mgmt.spdm < n then s.reply name 1 [] else act s).wake

/-- The measurement block of an index. -/
def Management.block (m : Management) (k : Nat) : List Byte :=
  match k with
  | 1 => natBytes 4 m.rom
  | 2 => shake256 (m.image m.active) 64
  | 3 => shake256 m.config 64
  | 4 => natBytes 4 (imageVersion (m.image m.active)) ++ natBytes 4 m.minimum
  | 5 => natBytes 4 m.active ++ natBytes 4 m.updates
  | _ => []

/-- The answers of the exchange, as SPDM lays them out (PRESUMED, log 73): the one version, 1.3; certificates, challenges and signed measurements; and raw
measurements, EdDSA Ed448 and SHA3-512. -/
def versionReply : List Byte := [0x10, 0x04, 0, 0, 0, 1, 0x00, 0x13]
def capabilitiesReply : List Byte := record 12 [(0, 1, 0x13), (1, 1, 0x61), (8, 4, 0x16)]
def algorithmsReply : List Byte := record 36 [(0, 1, 0x13), (1, 1, 0x63), (4, 2, 36), (6, 1, 1), (8, 4, 1), (12, 4, 2 ^ 11), (16, 4, 2 ^ 5)]

/-- GET_VERSION (R470): SPDM 1.3; a new transcript begins. -/
def execGetVersion (s : State) : Host.Outcome State Fault Refusal :=
  .next (if s.spdmWaits then s
    else ({ s with mgmt := { s.mgmt with spdm := 1, script := [] } } : State).spdmReply "GET_VERSION" 0x84 0 versionReply).wake
/-- GET_CAPABILITIES (R470). -/
def execGetCapabilities (s : State) : Host.Outcome State Fault Refusal :=
  spdmAt 1 (fun s => ({ s with mgmt := { s.mgmt with spdm := max 2 s.mgmt.spdm } } : State).spdmReply "GET_CAPABILITIES" 0xE1 0 capabilitiesReply)
    "GET_CAPABILITIES" s
/-- NEGOTIATE_ALGORITHMS (R470). -/
def execNegotiateAlgorithms (s : State) : Host.Outcome State Fault Refusal :=
  spdmAt 2 (fun s => ({ s with mgmt := { s.mgmt with spdm := 3 } } : State).spdmReply "NEGOTIATE_ALGORITHMS" 0xE3 0 algorithmsReply) "NEGOTIATE_ALGORITHMS" s
/-- GET_DIGESTS (R470): the digest of the chain in slot 0. -/
def execGetDigests (s : State) : Host.Outcome State Fault Refusal :=
  spdmAt 3 (fun s => s.spdmReply "GET_DIGESTS" 0x81 0 (sha3 Config.certChain)) "GET_DIGESTS" s
/-- GET_CERTIFICATE (R470): the chain in slot 0. -/
def execGetCertificate (s : State) : Host.Outcome State Fault Refusal :=
  spdmAt 3 (fun s => s.spdmReply "GET_CERTIFICATE" 0x82 0 Config.certChain) "GET_CERTIFICATE" s
/-- CHALLENGE (R470): the transcript, the request among it, is signed. -/
def execChallenge (s : State) : Host.Outcome State Fault Refusal :=
  spdmAt 3 (fun s => s.spdmReply "CHALLENGE" 0x83 0 (Config.ed448Sign (sha3 (s.mgmt.script ++ s.cue.bytes)))) "CHALLENGE" s
/-- What GET_MEASUREMENTS asks for, with its index: their number, every block, or one of them, each after its index; none of another index. -/
def Management.measured (m : Management) (k : Nat) : Option (List Byte) :=
  let one (k : Nat) : List Byte := natBytes 1 k ++ m.block k
  if k = 0 then some (natBytes 1 5)
  else if k = 0xFF then some ([1, 2, 3, 4, 5].flatMap one)
  else if k ≤ 5 then some (one k) else none

/-- GET_MEASUREMENTS (R470): the blocks of the index that the cue lists, all of them where it lists none, and a signature over them and the transcript; another
index is answered with status 1 (log 73). -/
def execGetMeasurements (s : State) : Host.Outcome State Fault Refusal :=
  spdmAt 3 (fun s => match s.mgmt.measured ((s.cue.nums.head?).getD 0xFF) with
    | none => s.reply "GET_MEASUREMENTS" 1 []
    | some bs => s.spdmReply "GET_MEASUREMENTS" 0xE0 0 (bs ++ Config.ed448Sign (sha3 (s.mgmt.script ++ s.cue.bytes ++ bs)))) "GET_MEASUREMENTS" s

/-! ## Live update: R472 -/

/-- Changes the management state. -/
def State.onMgmt (s : State) (f : Management → Management) : State := { s with mgmt := f s.mgmt }

/-- A management command is an act of the Ridge pair, compared before it takes effect (R468, R476). One that firmware does not serve now waits (R473, R475); in
recovery, too, it is served (R469). -/
def State.command (s : State) (act : State → State) : Host.Outcome State Fault Refusal := .next (if s.serving then act s.compared else s).wake

/-- IMAGE_STAGE (R472): the host writes an image to the inactive slot; one that passes steps 2 to 4 of R469 is staged. -/
def execImageStage (s : State) : Host.Outcome State Fault Refusal :=
  s.command fun s => s.onMgmt fun m =>
    let m := if m.active = 0 then { m with image1 := s.cue.bytes } else { m with image0 := s.cue.bytes }
    { m with update := if m.passes s.cue.bytes then .staged else .idle }

/-- FIRMWARE_UPDATE (R472): the host's update command. -/
def execFirmwareUpdate (s : State) : Host.Outcome State Fault Refusal :=
  s.command fun s => if s.mgmt.update == .staged then s.onMgmt fun m => { m with update := .quiescing } else s

/-- Every queue has stopped at a packet boundary: no packet is in the middle of its prologue. -/
def State.atBoundary (s : State) : Bool := s.queues.all fun q => q.packets.all fun p => p.pro.isNone

/-- HANDOVER (R472): from Quiescing once every queue has stopped, then the old image writes its handover structure, `bytes`, and the new one starts with
the emulated formats that `nums` gives: MXEMU, then the words of its format page (R99); with `yes` it does not know the structure's version (R473). -/
def execHandover (s : State) : Host.Outcome State Fault Refusal :=
  .next (if s.mgmt.tripped then s else match s.mgmt.update with
    | .quiescing => if s.atBoundary then s.onMgmt fun m => { m with update := .handing } else s
    | .handing => s.onMgmt fun m =>
        if s.cue.yes then { m with update := .idle, handover := s.cue.bytes, newEmu := s.mxemu }
        else
          { m with
            update := .trial
            handover := s.cue.bytes
            trial := s.hbeat.toNat
            newEmu := match s.cue.nums with | x :: _ => BitVec.ofNat 64 x &&& 0xFFFFFFC0 | [] => s.mxemu
            newPage := words s.cue.nums.tail }
    | _ => s).wake

/-- The descriptor of an emulable code (R99): those of the image as shipped, of which PLANES is 8 (log 74), or the one of a page that a later image brings. -/
def formatDescriptor (mxemu : DWord) (page : List Byte) (k : Nat) : List Byte :=
  if !mxemu.getLsbD k then zeros 16
  else if page != [] then (page ++ zeros 4096).drop (16 * k) |>.take 16
  else match k with
    | 6 => record 16 [(0, 1, 2), (1, 1, 8), (7, 1, 8)]
    | 7 => record 16 [(0, 1, 2), (1, 1, 4), (7, 1, 8)]
    | 8 => record 16 [(0, 1, 3), (1, 1, 6), (2, 1, 3), (3, 1, 2), (4, 2, 3), (7, 1, 8)]
    | _ => zeros 16
/-- The matrix format page (R99): the descriptors, and the tables that those of KIND 4 name. -/
def formatPageBytes (mxemu : DWord) (page : List Byte) : List Byte :=
  zeros 96 ++ ((List.range 26).flatMap fun k => formatDescriptor mxemu page (6 + k)) ++ ((page ++ zeros 4096).drop 512).take 3584

/-- The format page of a context is written. -/
def State.writeFormats (s : State) (c : Context) : State := s.firmwarePage c.pasid c.mxfmt.toNat (formatPageBytes s.mxemu s.mgmt.page)

/-- Every block is saved, and no prologue runs (R98). -/
def State.allSaved (s : State) : Bool := s.blocks.all fun b => !b.resident

/-- What a committed image emulates otherwise than the one before it comes into force while every block is saved: with the commit, or at a later restore
(R98, R99). -/
def State.adoptFormats (s : State) : State :=
  if s.mgmt.newEmu == s.mxemu || s.mgmt.update == .trial || !s.allSaved then s
  else
    let s : State := { s with mxemu := s.mgmt.newEmu, mgmt := { s.mgmt with page := s.mgmt.newPage } }
    s.ctxs.foldl (fun (s : State) c => s.writeFormats c) s

/-- TRIAL_HEARTBEAT (R472): the new image's first heartbeat, in time, commits it. -/
def execTrialHeartbeat (s : State) : Host.Outcome State Fault Refusal :=
  let m := s.mgmt
  .next (if m.update != .trial || decide (m.trial + 65536 < s.hbeat.toNat) then s
    else (s.onMgmt fun m => { m with update := .idle, active := 1 - m.active, updates := m.updates + 1 }).adoptFormats).wake

/-- UPDATE_ROLLBACK (R472): no heartbeat in 65,536 ticks, or, with `yes`, a structure that the new image refuses: the old image resumes. -/
def execUpdateRollback (s : State) : Host.Outcome State Fault Refusal :=
  .next (if s.mgmt.update == .trial && (s.cue.yes || decide (s.mgmt.trial + 65536 < s.hbeat.toNat)) then s.rollBack else s).wake

/-! ## Power, telemetry and lists: R475, R476, R467 -/

/-- POWER_CAP (R475): 1,500 W to 3,000 W in steps of 50 W; any other value is refused with status 1. -/
def execPowerCap (s : State) : Host.Outcome State Fault Refusal :=
  s.command fun s =>
    let w := nth s.cue.nums 0
    if 1500 ≤ w ∧ w ≤ 3000 ∧ w % 50 = 0 then (s.onMgmt fun m => { m with cap := w }).reply "POWER_CAP" 0 [] else s.reply "POWER_CAP" 1 []

/-- TELEMETRY (R476): the cap, whether the device gates, whether it is degraded, HBEAT, and what its sensors read, `bytes`. -/
def execTelemetry (s : State) : Host.Outcome State Fault Refusal :=
  s.command fun s => s.reply "TELEMETRY" 0 (words [s.mgmt.cap, bit s.mgmt.gated, bit s.mgmt.degraded, s.hbeat.toNat] ++ s.cue.bytes)

/-- ERROR_LOG (R476, R471). -/
def execErrorLog (s : State) : Host.Outcome State Fault Refusal :=
  s.command fun s => s.reply "ERROR_LOG" 0 (words (s.mgmt.errors.flatMap fun e => counted (e.kind :: e.pasid :: e.nums)))

/-- QUARANTINE_LIST (R467). -/
def execQuarantineList (s : State) : Host.Outcome State Fault Refusal :=
  s.command fun s => s.reply "QUARANTINE_LIST" (bit s.mgmt.degraded) (words (s.mgmt.quarantine ++ s.mgmt.failed))

/-- IMAGE_TRANSFER (R409): `nums` says what is done with the save area of a context: 0 the host reads from an offset a length, 1 it writes `bytes` at an
offset, 2 firmware writes the context's image there, at its start. -/
def execImageTransfer (s : State) : Host.Outcome State Fault Refusal :=
  s.command fun s => match s.cue.nums with
    | op :: pasid :: xs => match s.ctx? pasid with
      | none => s.reply "IMAGE_TRANSFER" 1 []
      | some c => match op, xs with
        | 0, [off, n] => if off + n ≤ c.saveSize then s.reply "IMAGE_TRANSFER" 0 (s.mem.read (c.saveBase + off) n) else s.reply "IMAGE_TRANSFER" 1 []
        | 1, [off] =>
          if off + s.cue.bytes.length ≤ c.saveSize then
            ({ s with mem := s.mem.write (c.saveBase + off) s.cue.bytes } : State).reply "IMAGE_TRANSFER" 0 []
          else s.reply "IMAGE_TRANSFER" 1 []
        | 2, _ =>
          match s.storeImage pasid 3 with
          | some s => s.reply "IMAGE_TRANSFER" 0 []
          | none => s.reply "IMAGE_TRANSFER" 1 []
        | _, _ => s.reply "IMAGE_TRANSFER" 1 []
    | _ => s.reply "IMAGE_TRANSFER" 1 []

/-! ## Creating contexts: R477, R478 -/

/-- Host memory at a host physical address (R101). -/
def hostBase : Nat := 2 * 2 ^ 48

/-- The placement table entry of its 16 bytes (R21). -/
def PlEntry.parse (bs : List Byte) : PlEntry :=
  ⟨BitVec.ofNat 8 (field bs 0 1), BitVec.ofNat 8 (field bs 1 1), BitVec.ofNat 16 (field bs 2 2), BitVec.ofNat 8 (field bs 4 1), BitVec.ofNat 16 (field bs 5 2)⟩

/-- A list names something twice. -/
def twice (xs : List Nat) : Bool := xs.eraseDups.length != xs.length

/-- The placement is rejected (R23). -/
def placementBad (sh : Shape) (t : List PlEntry) : Bool :=
  let t := t.take sh.pkg
  let chips (e : PlEntry) (r : Nat) : List Nat := (List.range sh.chip).map fun c => natBits e.chipmap.toNat (2 * (4 * r + c)) 2
  t.length != sh.pkg || t.any (fun e => !e.phys.getLsbD 7) || twice (t.map fun e => e.phys.toNat % 128) ||
    t.any fun e => twice ((List.range sh.ret).map fun r => natBits e.retmap.toNat r 1) || (List.range sh.ret).any fun r => twice (chips e r)

/-- A virtual address field is misaligned or not canonical (R111). -/
def baseBad (v : DWord) (align : Nat) : Bool := v.toNat % align != 0 || (v >>> 56 != 0 && v >>> 56 != 0xFF)

/-- The context of a descriptor (R477). -/
def Context.parse (bs : List Byte) (place : List PlEntry) (cycle : Nat) : Context :=
  let w (o : Nat) : DWord := BitVec.ofNat 64 (field bs o 8)
  { pasid := field bs 4 4, ptroot := w 8, shape := BitVec.ofNat 32 (field bs 0x10 4), place := place, sdtbase := w 0x20, mxfmt := w 0x28
    tsbase := w 0x30, winbase := w 0x38, qbase := w 0x40, budget := BitVec.ofNat 8 (field bs 0x17 1), live := 0
    grant := BitVec.ofNat 8 (field bs 0x16 1), vpbase := w 0x58, vpsize := BitVec.ofNat 32 (field bs 0x60 4), xvec := w 0x48, xdump := w 0x50
    rights := BitVec.ofNat 32 (field bs 0x15 1), vf := field bs 0x14 1, saveBase := field bs 0x68 8, saveSize := field bs 0x70 8, gen := 1
    qdue := cycle, begun := decide ((Shape.of (BitVec.ofNat 32 (field bs 0x10 4))).pkg = 1) }

/-- Status 3 (R478): the descriptor is ill-formed. -/
def descriptorBad (bs : List Byte) : Bool :=
  let c := Context.parse bs [] 0
  let save := c.saveBase + c.saveSize
  field bs 0 4 != 1 || decide (2 ^ 20 ≤ c.pasid) || decide (1 < c.rights.toNat) || field bs 0x64 4 != 0 || field bs 0x78 8 != 0 ||
    c.ptroot &&& 0xFFF0000000000FFE != 0 || (c.ptroot.getLsbD 0 && pteAddr c.ptroot % 2 ^ 21 != 0) || decide (2 ^ 12 ≤ c.shape.toNat) || decide (63 < c.vf) ||
    field bs 0x18 8 % 16 != 0 || baseBad c.sdtbase 4096 || baseBad c.mxfmt 4096 || baseBad c.tsbase 64 || baseBad c.winbase 131072 ||
    baseBad c.qbase 4096 || baseBad c.xvec 2 || baseBad c.xdump 2 || baseBad c.vpbase 4096 || decide (c.grant < c.budget) || c.saveBase % 4096 != 0 ||
    c.saveSize == 0 || c.saveSize % 4096 != 0 || !(decide (save ≤ 2 ^ 39) || (decide (hostBase ≤ c.saveBase) && decide (save ≤ 3 * 2 ^ 48)))

/-- A context would hold a quarantined page, in its save area or mapped by its table (R467). -/
def State.quarantined (s : State) (c : Context) : Bool :=
  let bad := s.mgmt.quarantine ++ s.mgmt.failed
  bad != [] && (bad.any (fun p => decide (pageOf c.saveBase ≤ p) && decide (p < c.saveBase + c.saveSize)) ||
    ((({ s with ctxs := s.ctxs ++ [c] } : State).mappedPages c.pasid).any bad.contains))

/-- The status with which CREATE completes (R478), in the order 3, 2, 1, 4 (log 75); a package that is degraded or in recovery, and pages that are
quarantined, leave no room (R467, R469). -/
def State.createStatus (s : State) (bs : List Byte) (c : Context) : Nat :=
  if descriptorBad bs then 3
  else if c.pasid = 0 ∨ (s.ctx? c.pasid).isSome ∨ s.leaving.any (fun x => x.1 == c.pasid) then 2
  else if placementBad (Shape.of c.shape) c.place then 1
  else if 64 ≤ s.ctxs.length ∨ s.ctxs.any (fun x => x.vf == c.vf) ∨ 255 < ((s.ctxs.map fun x => x.grant.toNat).sum + c.grant.toNat) ∨
      s.mgmt.degraded ∨ s.mgmt.recovery ∨ s.quarantined c then 4
  else 0

/-- A context as CREATE makes it: its window counters are zero, its pages are written, and the scanner reads its queue table. -/
def State.addContext (s : State) (c : Context) : State :=
  let s : State := { s with ctxs := s.ctxs ++ [c], windows := s.windows.filter fun w => w.pasid != c.pasid }
  (s.writeDiscovery c).writeFormats c

/-- CREATE (R478): `nums` the host physical address of the descriptor, then the HDM decoders committed now, base and size (R101), which take effect where no
context is resident. With nothing listed and `yes`, every package of the placement of the context of the cue's key has reported status 0: it runs. -/
def execCreate (s : State) : Host.Outcome State Fault Refusal :=
  s.command fun s => match s.cue.nums with
    | a :: ds =>
      let pairs := (inChunks 2 ds).map fun x => (nth x 0, nth x 1)
      let s : State := { s with hdmNext := if ds = [] then s.hdmNext else pairs }
      let s : State := if s.ctxs = [] then { s with hdm := s.hdmNext } else s
      let bs := s.mem.read (hostBase + a) 128
      let table := field bs 0x18 8
      let n := field bs 0x10 4 % 128 + 1
      let place := (List.range n).map fun k => PlEntry.parse (s.mem.read (hostBase + table + 16 * k) 16)
      let c := Context.parse bs place s.cycle
      let st := s.createStatus bs c
      (if st = 0 then s.addContext c else s).reply "CREATE" st []
    | [] => if s.cue.yes && !s.dying.any (·.1 == s.cue.key) then s.onCtx s.cue.key fun c => { c with begun := true } else s

/-- DESTROY (R479) of the PASID of the cue's key: it completes with status 0 once the PASID is free, and with 2 where no context holds it. -/
def execDestroy (s : State) : Host.Outcome State Fault Refusal :=
  s.command fun s => match s.ctx? s.cue.key with
    | some c => s.removeContext c 0x06 true true
    | none => s.reply "DESTROY" 2 []

/-- No copy engine holds more items than its slots (R151). -/
def State.enginesFit (s : State) : Bool := ((s.items.map (·.unit)).eraseDups).all fun u => !decide (64 < (s.items.filter (·.unit == u)).length)

/-- A restore of a context ends: both pages are written (R32, R99), the scanner reads its queue table, every queue's interval state is 0 (R371), and the host
has its answer. -/
def State.restored (s : State) (pasid : Nat) : State :=
  let s : State := { s with queues := s.queues.map fun q => if q.pasid == pasid then { q with k := 0, due := min q.due (s.cycle + 800) } else q }
  let s := ((s.onCtx pasid fun c => { c with qdue := s.cycle }).adoptFormats).regenerate pasid
  (match s.ctx? pasid with | some c => s.writeFormats c | none => s).reply "RESTORE" 0 []

/-- RESTORE (R478): `nums` the PASID, then 0 with the offset of an image in the save area (R409), or 1 with the destination area of a snapshot in
`bytes` (R455); into a context in which no launch has started. Where every block of the context is saved, the image ends the requests that hold them; in a
context in which a launch has started otherwise it is refused with status 1 (DESIGN CHOICE, log 61). A host physical address after the offset is that of a
placement table that firmware puts in force (R25), as every block is saved. What finds no slot in a copy engine (R151) waits. -/
def execRestore (s : State) : Host.Outcome State Fault Refusal :=
  s.command fun s => match s.cue.nums with
    | pasid :: xs => match s.ctx? pasid with
      | none => s.reply "RESTORE" 1 []
      | some old =>
        let begun := s.launches.any (fun l => l.pasid == pasid) || s.blocks.any fun b => b.pasid == pasid
        let table (t : Nat) : List PlEntry := (List.range (old.shape.toNat % 128 + 1)).map fun k => PlEntry.parse (s.mem.read (hostBase + t + 16 * k) 16)
        let c : Context := match xs with
          | [0, _, t] => { old with place := table t }
          | _ => old
        let load (t : State) : State := if t.enginesFit then t.restored pasid else s
        if placementBad (Shape.of c.shape) c.place then s.reply "RESTORE" 1 []
        else match xs with
          | 0 :: off :: _ =>
            let n := field (s.mem.read (c.saveBase + off) 16) 8 8
            let bs := s.mem.read (c.saveBase + off) (min n (c.saveSize - off))
            let st := imageStatus c.shape bs
            let placed := s.onCtx pasid fun x => { x with place := c.place }
            if st ≠ 0 then s.reply "RESTORE" st []
            else if !begun then load (placed.loadContext pasid bs ownParts)
            else if s.blocks.any fun b => b.pasid == pasid && b.res != .saved then s.reply "RESTORE" 1 []
            else ({ placed with preempts := s.preempts.filter fun p => p.pasid != pasid } : State).restored pasid
          | [1] =>
            let st := s.snapshotStatus c s.cue.bytes
            if st ≠ 0 then s.reply "RESTORE" st [] else if begun then s.reply "RESTORE" 1 [] else load (s.loadSnapshot c s.cue.bytes)
          | _ => s.reply "RESTORE" 1 []
    | [] => s

end Sys2Proof.Machine
end

