-- ==== Sys2Proof/Machine/Ready.lean ====
section
/-! DEFINITION. Which groups may issue (R378, R379), the words they fetch (R183), the cycles at which they are ready (R57), and what hold runs ask
of time (R61). -/

namespace Sys2Proof.Machine

/-! ## Code that a core holds -/

/-- The byte of an instruction that a core holds (R183). -/
def State.codeByte (s : State) (core pasid va : Nat) : Option Byte :=
  (s.icache.find? fun b => b.core == core && b.pasid == pasid && b.va == va).map (·.val)

/-- Bytes from an address up, as far as the core holds them. -/
def State.codeBytes (s : State) (core pasid : Nat) : Nat → Nat → List Byte
  | 0, _ => []
  | n + 1, va =>
    match s.codeByte core pasid va with
    | none => []
    | some b => b :: s.codeBytes core pasid n (va + 1)

/-- The word at a PC, or the address of the first byte that the core lacks (R41). -/
def State.codeWord (s : State) (core pasid : Nat) (pc : BitVec 57) : Except Nat DWord :=
  let bs := s.codeBytes core pasid 8 pc.toNat
  let w := leWord bs
  if bs.length < 2 ∨ bs.length < lengthOf w then .error (pc.toNat + bs.length) else .ok w

/-! ## Groups that may issue -/

/-- A group does not wait on a WAIT, or its wait is over: the counters read zero, or a deferred fault is due at it (R43, R131). -/
def Group.waitOver (g : Group) : Bool :=
  match g.hold with
  | .wait m => countersZero g m || (g.dueDeferred { names := m }).isSome
  | _ => true

/-- A group of the block stands in a FORKW or a SPAWN: the block's groups stop at the ends of their hold runs (R360, R429). -/
def State.blockStops (s : State) (block : Nat) : Bool :=
  (s.groupsOf block).any fun g => match g.hold with
    | .fork _ _ => true
    | .spawn => true
    | _ => false

/-- A block's groups may begin new hold runs: it is not being taken off its cores, its launch goes on, and its context does not stand still for a cut
(R379, R386, R394 to R398, R439). -/
def State.blockRuns (s : State) (b : Block) : Bool :=
  (match b.res with
    | .running => true
    | .draining n _ => n != 0
    | _ => false) &&
  !s.cutHolds b.pasid && !s.blockStops b.key &&
  (match s.launch? b.launch with
    | some l => !l.torn && !(s.queues.any fun q => q.preempt.isSome && q.pasid == b.pasid && l.queue == some q.num)
    | none => b.launch == 0)

/-- Another group of the partition is in a hold run (R61). -/
def State.partitionHeld (s : State) (g : Group) : Bool :=
  s.groups.any fun h => h.run.pos != 0 && !h.is g.block g.gidx && s.isResident h.block && s.partitionOf h == s.partitionOf g

/-- A group may issue the next instruction of its run (R378, R379, R446), its distance and its fetch aside. -/
def State.mayIssue (s : State) (g : Group) : Bool :=
  g.live && !s.mgmt.tripped && !s.mgmt.recovery && (match g.hold with | .free => true | .wait _ => true | _ => false) && g.nextRun.isSome && !s.partitionHeld g && !s.rowsWait g &&
  match s.blockOf g with
  | some b => b.resident && (g.run.pos != 0 || s.blockRuns b)
  | none => false

/-- The word that a group fetches next (R183), none where it has no run or its core lacks it; a group that waits is at its WAIT (R43). -/
def State.nextWord (s : State) (g : Group) : Option DWord :=
  match g.hold with
  | .wait m => some ((m ++ 0x2#4).setWidth 64)
  | _ =>
    match g.nextRun with
    | none => none
    | some r => match s.codeWord (s.coreOfGroup g) (s.pasidOf g) r.pc with
      | .ok w => some w
      | .error _ => none

/-- DIST of a word (R48, R50). -/
def distOf (w : DWord) : Nat := if w.getLsbD 0 then (w.extractLsb' 2 3).toNat else 0

/-- The first cycle after the last issue of a group's partition (R379). -/
def State.slotFree (s : State) (g : Group) : Nat :=
  let there := (s.groups.filter fun h => s.partitionOf h == s.partitionOf g).map fun (h : Group) => match h.last with | some t => t + 1 | none => 0
  let left := (s.gone.filter fun x => x.1 == s.partitionOf g).map fun (x : Nat × Nat) => x.2 + 1
  (there ++ left).foldl max 0

/-- The cycle at which a group is ready for the word (R57, R379). -/
def State.readyAt (s : State) (g : Group) (w : DWord) : Nat :=
  max s.cycle (max (s.slotFree g) (match g.last with | some t => t + 1 + distOf w | none => 0))

/-- The cycle at which a group is ready to issue, none where it is not (R378). -/
def State.readyCycle (s : State) (g : Group) : Option Nat :=
  if s.mayIssue g && g.waitOver then (s.nextWord g).map (s.readyAt g) else none

/-- A group is ready before a cycle: it issues then, and time does not pass it (R379). The cycles that the distance leaves empty in a hold run stay idle,
since no other group of its partition is ready meanwhile (R61). -/
def State.readyBefore (s : State) (t : Nat) : Bool := s.groups.any fun g => match s.readyCycle g with
  | some n => decide (n < t)
  | none => false

/-- Of the groups of its partition that are ready at a cycle a group is the oldest (R379). -/
def State.oldestAt (s : State) (g : Group) (t : Nat) : Bool :=
  !s.groups.any fun h => decide (h.age < g.age) && s.partitionOf h == s.partitionOf g && s.readyCycle h == some t

end Sys2Proof.Machine
end

