-- ==== Sys2Proof/Machine/Events.lean ====
section
/-! DEFINITION. Events of the cores and of time: the heartbeat tick (R8, R16), results and completions (R58, R60), instruction fetch (R132,
R183, R184), walks and answers to faults (R114, R123, R128), accesses at banks (R167) and transits of segments (R180). -/

namespace Sys2Proof.Machine

/-! ## The heartbeat -/

/-- A .sc fence that holds a group completes in the cycle of the tick that it waits for, with its acquire made again (R203). -/
def State.endFence (s : State) (g : Group) : State :=
  match g.hold with
  | .fence ord scope pro (some t) =>
    if s.hbeat.toNat < t ∨ !s.isResident g.block then s
    else
      let core := s.coreOfGroup g
      let pasid := s.pasidOf g
      let view := s.viewOf g
      let s := if pro then s.probe core pasid (worldScope view scope) everyLine else s
      (s.acquire core pasid view scope).onGroup g.block g.gidx fun g => { g with hold := if ord = 0 then .free else g.hold }
  | .fence _ _ _ none => if s.isResident g.block then s.tryFence g.block g.gidx else s
  | _ => s

/-- Packets that wait for a word read it at each tick (R369). -/
def State.pollWaits (s : State) : State :=
  (s.queues.flatMap fun q => (q.packets.filter fun p => p.started && p.type == 4).map fun p => (q.pasid, q.num, p.idx)).foldl
    (fun (s : State) x => match s.packet? [x.1, x.2.1, x.2.2] with
      | some (q, p) => s.waitGe q p false
      | none => s) s

/-- The next heartbeat tick begins (R8, R16): tick k at cycle 256 k. Fences end, matrix engines note what is eligible (R265), queues are charged
(R375) and waiting packets read their words. -/
def State.tick (s : State) : State :=
  let s : State := { s with cycle := max s.cycle (Config.tick * (s.hbeat.toNat + 1)), hbeat := s.hbeat + 1 }
  (((s.groups.foldl State.endFence s).mxNote.arbitrate.chargeQueues.arbitrate).pollWaits).wake

/-- So many ticks begin. -/
def State.ticks : Nat → State → State
  | 0, s => s
  | n + 1, s => State.ticks n s.tick

/-- Time passes to a cycle, and the ticks on the way begin (R8, R16). -/
def State.reach (s : State) (t : Nat) : State :=
  let s := State.ticks (t / Config.tick - s.hbeat.toNat) s
  { s with cycle := max s.cycle t }

/-- HEARTBEAT_TICK: none begins before the next issue of a hold run in progress (R61). -/
def execHeartbeatTick (s : State) : Host.Outcome State Fault Refusal :=
  .next (if s.readyBefore (Config.tick * (s.hbeat.toNat + 1)) then s.wake else s.tick)

/-! ## Results and completions -/

/-- RESULT_WRITEBACK (R58): the class F result of the cue's flight is written at its cycle, after those due before it. -/
def execResultWriteback (s : State) : Host.Outcome State Fault Refusal :=
  .next (match (s.group? s.cue.block s.cue.gidx).bind fun (g : Group) => (g.flight? s.cue.key).bind fun (f : Flight) => f.due with
    | some (t : Nat) =>
      if s.isResident s.cue.block && !s.readyBefore t then
        (s.reach t).onGroup s.cue.block s.cue.gidx fun g => g.land s t
      else s
    | none => s).wake

/-- What remains of a class V instruction in flight is done where nothing holds it. -/
def State.finish (s : State) (g : Group) (r : FRef) (op : FlightOp) : State :=
  match op with
  | .result => s.land r []
  | .access _ => (s.perform r []).finishAccess r
  | .wcnt _ _ _ _ => s.finishFabric r op
  | .tcancel _ => s.finishCopy r op
  | .tstat _ _ => s.finishCopy r op
  | .tsched _ _ => s.finishCopy r op
  | .mxfree => s.finishMx r op
  | .mxfence => s.finishMx r op
  | .mxstat _ _ _ => s.finishMx r op
  | .mxcancel _ => s.finishMx r op
  | .fetchw _ => s.finishFetch r op
  | .tlbinv _ base len scope => (s.finishTlbinv (s.coreOfGroup g) (s.pasidOf g) base len scope).land r []
  | .icinv scope => (s.finishIcinv (s.coreOfGroup g) (s.pasidOf g) scope).land r []
  | .choose _ _ _ => s.finishWorld r op
  | .snapst _ _ _ => s.finishSnap r op
  | op => s.finishVault r op

/-- INSTRUCTION_COMPLETION (R60) of the cue's flight: of class V, where what it waits for has happened. Items, matrix entries, fabric requests and
SNAPs complete by their own events. What has been done may let later entries of the group's log replay (R128). -/
def execInstructionCompletion (s : State) : Host.Outcome State Fault Refusal :=
  let r : FRef := ⟨s.cue.block, s.cue.gidx, s.cue.key⟩
  .next (match (s.group? r.block r.gidx : Option Group) with
    | none => s
    | some g => match (g.flight? r.flight : Option Flight) with
      | none => s
      | some f =>
        if f.due.isSome || !s.isResident r.block then s
        else ((s.finish g r f.op).replayAll r.block r.gidx).tryFence r.block r.gidx).wake

/-! ## Instruction fetch -/

/-- The bytes of a line as a fetch reads them through the chiplet's L2 in the root view; a poisoned byte reads as a free one. -/
def State.codeLine (s : State) (core pasid pa : Nat) : List Byte × State :=
  let (bs, s) := s.l2Read (chipOfCore core) pasid 0 pa 128
  ((bs.zipIdx).map fun p => if s.readsPoison core pasid 0 (pa + p.2) 1 then (s.freeWord (40000 + p.2)).setWidth 8 else p.1, { s with free := s.free + 1 })

/-- A line goes into a core's instruction cache where it does not hold it; where that holds its 2,048 lines, a free choice of them leaves it (R183, log 6). -/
def State.codeFill (s : State) (core pasid va : Nat) (bs : List Byte) : State :=
  let line (b : IByte) : Nat × Nat := (b.pasid, lineOf b.va)
  let held := ((s.icache.filter fun b => b.core == core).map line).eraseDups
  if held.contains (pasid, va) then s
  else
    let out : Option (Nat × Nat) := match held with
      | x :: xs => if held.length < Config.codeLines then none else some (s.freePick (10 ^ 15 * (core + 1) + va / 128) x xs)
      | [] => none
    { s with icache := (s.icache.filter fun b => !(b.core == core && out == some (line b))) ++ (bs.zipIdx).map fun p => ⟨core, pasid, va + p.2, p.1⟩ }

/-- The cores that one fill serves: the one that misses, and those of its chiplet with a group of the launch (R184). -/
def State.codeCores (s : State) (g : Group) : List Nat :=
  let core := s.coreOfGroup g
  let launch := (s.launchOf g).map (·.key)
  if g.front then [core]
  else (core :: (s.groups.filter fun x => !x.front && s.isResident x.block && (s.launchOf x).map (·.key) == launch &&
    chipOfCore (s.coreOfGroup x) == chipOfCore core).map s.coreOfGroup).eraseDups

/-- A fatal fetch fault is delivered on the run that fetches (R132): XPC and XINFO hold its address. -/
def State.fetchTrap (s : State) (g : Group) (r : Run) (va reason level : Nat) : State :=
  let s := s.choose g.block g.gidx
  let t := s.issueCycle 0
  let s := s.reach t
  let s : State := { s with cur := s.cur.land s t }
  s.takeTrap ⟨reasonCause reason, BitVec.ofNat 64 va, r.pc.setWidth 64, faultStat reason level false true false 0, false, none, none⟩ r t

/-- INSTRUCTION_FETCH_FILL (R132, R184) of the cue's group: the line that its next instruction lacks is read, or the fetch fails. Reason 0x01
waits for system software unless its answer was fatal. -/
def execInstructionFetchFill (s : State) : Host.Outcome State Fault Refusal :=
  .next (match (s.group? s.cue.block s.cue.gidx : Option Group) with
    | none => s
    | some g => match (g.nextRun : Option Run) with
      | none => s
      | some r =>
        let core := s.coreOfGroup g
        let pasid := s.pasidOf g
        match (s.codeWord core pasid r.pc : Except Nat DWord) with
        | .ok _ => s
        | .error va =>
          if !s.isResident g.block then s
          else
            let at_ : DWord := (BitVec.ofNat 57 va).signExtend 64
            match s.translate core pasid at_ .code with
            | (.host e, s) => s.askHost e
            | (.fault reason level fw, s) =>
              if answerable reason fw && !g.refused then s else s.fetchTrap g r at_.toNat reason level
            | (.ok pa _ _ _, s) =>
              if s.inTransit pa then s
              else
                let (bs, s) := s.codeLine core pasid (lineOf pa)
                (s.codeCores g).foldl (fun (s : State) c => s.codeFill c pasid (lineOf va) bs) s).wake

/-! ## Walks and answers -/

/-- A walk may be made ahead of need (R121): by a fetch agent for a context with a group on the core, or by a copy engine for a page that an item there will
read or write (R149). It sets A, and D only the write itself (R118, R121). -/
def State.mayWalk (s : State) (unit pasid va : Nat) (way : Nat) : Bool :=
  if unit < 128 then way == 2 && (s.groupsOn unit).any fun g => s.pasidOf g == pasid
  else way == 0 && s.items.any fun it => it.unit == unit && it.pasid == pasid && it.state != 0 && it.pagesAhead.contains (pageOf va)

/-- PAGE_WALK (R114): for the lanes of the cue's flight; or, ahead of need (R121), the walk that the cue lists: the unit, the context, the address, and
0 for a read, 2 for a fetch. -/
def execPageWalk (s : State) : Host.Outcome State Fault Refusal :=
  .next (match s.cue.nums with
    | [unit, pasid, va, k] =>
      if (s.ctx? pasid).isNone || !s.mayWalk unit pasid va k then s
      else match s.translate unit pasid (BitVec.ofNat 64 va) ⟨k == 1, k == 2, decide (unit < 128)⟩ with
        | (.host e, s) => s.askHost e
        | (_, s) => s
    | _ => s.walkLanes ⟨s.cue.block, s.cue.gidx, s.cue.key⟩).wake

/-- The first lane of a flight that its log entry holds, with its address. -/
def State.loggedLane (s : State) (r : FRef) : Option (Flight × LaneAcc) :=
  (s.group? r.block r.gidx).bind fun g => (g.flight? r.flight).bind fun f => match f.op with
    | .access a => (a.lanes.find? fun l => match l.st with | .logged _ _ _ => true | _ => false).map fun l => (f, l)
    | _ => none

/-- It is the log entry of a flight. -/
def LogEntry.is (e : LogEntry) (r : FRef) : Bool := e.block == r.block && e.gidx == r.gidx && e.flight == r.flight
/-- The log entry of a flight of a saved block changes. -/
def State.onParkedLog (s : State) (r : FRef) (f : LogEntry → LogEntry) : State :=
  { s with parked := s.parked.map fun p => { p with logs := p.logs.map fun x => if x.is r then f x else x } }

/-- The pending entry of a flight of a saved block is answered: it replays or is delivered once the block has come back (R133). -/
def State.answerParked (s : State) (r : FRef) (f : Flight) (e : LogEntry) (l : LaneAcc) (yes : Bool) : State :=
  if yes then s.onParkedLog r fun x => { x with state := .resolved }
  else ({ (s.makeFatal r f e l.lane l.addr) with olog := s.olog } : State).onParkedLog r fun x => { x with state := .fatal, reason := e.reason }

/-- The pending entry of a flight of a saved block. -/
def State.parkedLog? (s : State) (r : FRef) : Option LogEntry := (s.parked.flatMap (·.logs)).find? fun e => e.is r && e.state == .pending

/-- System software has answered for a log entry (R128): resolved entries replay in SEQ order, those behind a fatal one too, which waits for its delivery;
those of a saved block wait for its restore (R133). -/
def State.answerLog (s : State) (r : FRef) (yes : Bool) : State :=
  match s.olog.find? fun e => e.is r && e.state == .pending, s.loggedLane r with
  | some e, some (f, l) =>
    (if yes then s.putLog r { e with state := .resolved } else s.makeFatal r f e l.lane l.addr).replayAll r.block r.gidx
  | none, some (f, l) =>
    match s.parkedLog? r with
    | none => s
    | some e => s.answerParked r f e l yes
  | _, none => s

/-- PAGE_FAULT_ANSWER (R128, R132, R150, R155): `yes` for resolved, otherwise fatal. The fault is that of the log entry of the cue's flight; with
`nums` 0, of the group's stalled instruction or fetch; with 1 and a key, of a copy item; with 2, a key and an address, of a fabric request; with 3, a
context and an address, of what engines and the device have still to store and of other packages' requests: a store that is refused is dropped (log 16). -/
def execPageFaultAnswer (s : State) : Host.Outcome State Fault Refusal :=
  let yes := s.cue.yes
  .next (if s.updating then s
    else match s.cue.nums with
      | [] => s.answerLog ⟨s.cue.block, s.cue.gidx, s.cue.key⟩ yes
      | [0] => if yes then s else s.onGroup s.cue.block s.cue.gidx fun g => { g with refused := true }
      | [1, k] => s.onItem k fun (i : CopyItem) =>
          if i.waitva = 0 then i
          else { i with waitva := 0, refused := if yes then i.refused else pageOf (i.waitva - 1) :: i.refused }
      | [2, k, va] =>
        if yes then s
        else { s with fabric := s.fabric.map fun (q : FabReq) => if q.key == k then { q with refused := pageOf va :: q.refused } else q }
      | [3, pasid, va] =>
        if yes then s
        else ({ s with owed := s.owed.filter fun o => !(o.pasid == pasid && o.block.isNone && pageOf o.va == pageOf va) } : State).refuseIn pasid (pageOf va)
      | _ => s).wake

/-- The answer to a request concerns a group: it runs at the unit that asked; or, for accesses held as deferred faults, it has been saved, or it runs at a
core that has no Page Request of its own for the page (R123, R399). -/
def State.answersTo (s : State) (a : AtsReq) (held : Bool) (g : Group) : Bool :=
  s.pasidOf g == a.pasid && ((s.coreOfGroup g == a.unit && s.isResident g.block) ||
    (held && (!s.isResident g.block || !s.ats.any fun x => x.pri && x.unit == s.coreOfGroup g && x.pasid == a.pasid && x.va == a.va)))

/-- Lanes in flight that wait for a page of the host: those not yet translated, or held as deferred faults. -/
def State.hostLanes (s : State) (a : AtsReq) (held : Bool) : List (FRef × LaneAcc) :=
  s.groups.flatMap fun g =>
    if !s.answersTo a held g then []
    else g.flights.flatMap fun f => match f.op with
      | .access x =>
        if x.loc then []
        else (x.lanes.filter fun l =>
            decide (a.va ≤ l.addr.toNat % 2 ^ 57) && decide (l.addr.toNat % 2 ^ 57 < a.va + a.size) &&
              (match l.st with | .todo => !held | .logged reason _ _ => held && reason == 0x01 | _ => false)).map
          fun l => ((⟨g.block, g.gidx, f.key⟩ : FRef), l)
      | _ => []

/-- Items that wait for a page of the host go on. -/
def State.wakeItems (s : State) (a : AtsReq) : State :=
  { s with items := s.items.map fun i =>
      if i.unit == a.unit && i.pasid == a.pasid && decide (a.va < i.waitva) && decide (i.waitva ≤ a.va + a.size) then { i with waitva := 0 } else i }

/-- Lanes are logged under a reason, and their entries are settled; those of a flight for which no entry is free wait (R126). -/
def State.logLanes (s : State) (ls : List (FRef × LaneAcc)) (reason : Nat) (fw : Bool) : State :=
  ((ls.map (·.1)).eraseDups).foldl (fun (s : State) r =>
    match s.group? r.block r.gidx with
    | none => s
    | some g =>
      if s.canLog r (s.coreOfGroup g) then
        ((ls.filter (·.1 == r)).foldl (fun (s : State) x => s.onLane r x.2.lane fun l => { l with st := .logged reason 0 fw }) s).settleLog r
      else s) s

/-- ATS_TRANSLATION_COMPLETION (R123): the host answers the request of the cue's key, with `yes` and the host address that the cue lists, which the
unit's TLB takes, and a second number, 0 where it may not be written; otherwise the page is not present: a Page Request goes out, and the
accesses that wait are held as deferred faults. -/
def execAtsTranslationCompletion (s : State) : Host.Outcome State Fault Refusal :=
  .next (match (s.ats.find? fun (a : AtsReq) => a.key == s.cue.key && !a.pri && !a.refused : Option AtsReq) with
    | none => s
    | some a =>
      if s.cue.yes then
        match s.cue.nums with
        | [] => s
        | hpa :: more =>
          let e : TlbEntry :=
            { kind := .engine, unit := a.unit, pasid := a.pasid, va := a.va, size := a.size, pa := hostBase + hpa / a.size * a.size % 2 ^ 48
              w := a.w && more != [0], x := a.x, h := true, attr := a.attr, f := a.f, d := a.d }
          let s : State := { s with ats := s.ats.filter fun (x : AtsReq) => x.key != a.key }
          (if a.unit < 128 then s.tlbFill e else s.tlbPut e).wakeItems a
      else
        ({ s with ats := s.ats.map fun (x : AtsReq) => if x.key == a.key then { x with pri := true } else x } : State).logLanes
          (s.hostLanes a false) 0x01 a.f).wake

/-- What a saved block's flights have in the log for a page is answered (R123, R133). -/
def State.answerHeld (s : State) (ls : List (FRef × LaneAcc)) (yes : Bool) : State :=
  ((ls.map (·.1)).eraseDups).foldl (fun (s : State) r =>
    match s.parkedLog? r, (s.group? r.block r.gidx).bind fun g => g.flight? r.flight, ls.find? fun x => x.1 == r with
    | some e, some f, some (_, l) => s.answerParked r f (if yes then e else { e with reason := 0x09, level := 0 }) l yes
    | _, _, _ => s) s

/-- PAGE_REQUEST_GROUP_RESPONSE (R123) to the Page Request of the cue's key: `yes` replays the held accesses, whose translation is asked for again;
otherwise their fault is fatal with reason 0x09, which what else waits for the page finds at its next translation. -/
def execPageRequestGroupResponse (s : State) : Host.Outcome State Fault Refusal :=
  .next (match (s.ats.find? fun (a : AtsReq) => a.key == s.cue.key && a.pri : Option AtsReq) with
    | none => s
    | some a =>
      let all := s.hostLanes a true
      let ls := all.filter fun (x : FRef × LaneAcc) => (s.logOf x.1).isSome
      let gone : State := ({ s with ats := s.ats.filter fun (x : AtsReq) => x.key != a.key } : State).answerHeld
        (all.filter fun (x : FRef × LaneAcc) => (s.logOf x.1).isNone) s.cue.yes
      if s.cue.yes then
        let s := (((ls.map fun x : FRef × LaneAcc => x.1).eraseDups).foldl (fun (s : State) r => match (s.logOf r : Option LogEntry) with
          | some e => s.putLog r { e with state := LogState.resolved }
          | none => s) gone).wakeItems a
        ((ls.map fun x : FRef × LaneAcc => (x.1.block, x.1.gidx)).eraseDups).foldl (fun (s : State) (p : Nat × Nat) => s.replayAll p.1 p.2) s
      else if all = [] then
        ({ gone with ats := gone.ats ++ [{ a with pri := false, refused := true }] } : State).wakeItems a
      else (gone.logLanes ls 0x09 a.f).wakeItems a).wake

/-! ## Banks and transits -/

/-- VAULT_BANK_ACCESS (R167): the lanes that the cue lists, or all, of the cue's local access are performed at their banks. -/
def execVaultBankAccess (s : State) : Host.Outcome State Fault Refusal :=
  let r : FRef := ⟨s.cue.block, s.cue.gidx, s.cue.key⟩
  .next (match (s.access? r : Option (Group × Flight × Access)) with
    | some (_, _, a) => if a.loc then s.perform r s.cue.nums else s
    | none => s).wake

/-- SEGMENT_TRANSIT_END (R180): of the page at the physical address of the cue's key. -/
def execSegmentTransitEnd (s : State) : Host.Outcome State Fault Refusal := .next (s.endTransit s.cue.key).wake

end Sys2Proof.Machine
end

