-- ==== Sys2Proof/Machine/Exchange.lean ====
section
/-! DEFINITION. Lane exchange (R235 to R239). -/

namespace Sys2Proof.Machine

/-- The lane that lane i of SHFL reads, where it exists (R235). -/
def shflLane (mode : Nat) (i n : Nat) : Option Nat :=
  match mode with
  | 0 => some n
  | 1 => if n ≤ i then some (i - n) else none
  | 2 => some (i + n)
  | _ => some (i ^^^ n)

/-- SHFL (R235): MOD[61:60] the mode, MOD[62] .64. -/
def execShfl (f : F64) (s : State) : Host.Outcome State Fault Refusal :=
  let w := f.modBit 2
  laneResult (hdr64 0x08 0x00 f) w f.dst [(f.s1, w), (f.s2, false)]
    (fun c i =>
      let v := c.src w f.s1
      match shflLane f.modLow.toNat i ((c.src false f.s2).get i).toNat with
      | some j => (if j < 64 && lane c.en j then v.get j else v.get i, 0)
      | none => (v.get i, 0)) s

/-- VOTE (R236): MOD[61:60] the form, MOD[62] .64 for .uni. -/
def execVote (f : F64) (s : State) : Host.Outcome State Fault Refusal :=
  let h := hdr64 0x08 0x01 f
  let w := f.modBit 2
  match f.modLow.toNat with
  | 2 =>
    issue h
      { ops := fun _ => sregOk f.dst && predOk f.s1
        also := [.prd f.s1.toNat]
        eff := fun c s => c.finish h [.sca (f.dst.toNat - 0x80) (c.preg f.s1.toNat &&& c.en)] 0 s } s
  | 3 =>
    issue h
      { ops := fun c => predOk f.dst && c.srcOk w f.s1
        uses := [(f.s1, w)]
        eff := fun c s =>
          let v := (lanesOf c.en).map fun i => (c.src w f.s1).get i
          let same := match v with
            | [] => true
            | x :: xs => xs.all (· == x)
          c.finish h [.prd f.dst.toNat c.en (if same then allOnes else 0)] 0 s } s
  | k =>
    issue h
      { ops := fun _ => predOk f.dst && predOk f.s1
        also := [.prd f.s1.toNat]
        eff := fun c s =>
          let m := c.preg f.s1.toNat &&& c.en
          let b := if k = 0 then m != 0 else m == c.en
          c.finish h [.prd f.dst.toNat c.en (if b then allOnes else 0)] 0 s } s

/-- Minimum and maximum of floating-point values under R237: NaNs are ignored, all NaN gives the canonical NaN. -/
def fpExtreme (f : Fmt) (wantMax : Bool) (xs : List DWord) : DWord × BitVec 5 :=
  let nv := flagIf (xs.any fun x => (f.decode x).isSnan) flagNV
  match xs.filter fun x => !(f.decode x).isNan with
  | [] => (f.nan, nv)
  | y :: ys => (ys.foldl (fun a b => (fpMinMax f .plain wantMax a b).1) y, nv)

/-- The exact sum of floating-point values, rounded once (R237). DEDUCED: beside a quiet NaN nothing but a signalling NaN sets NV,
infinities of both signs included, since the sum is then the NaN and no ∞ − ∞ is formed (R87 is silent; log 4). -/
def fpTotal (f : Fmt) (xs : List DWord) : DWord × BitVec 5 :=
  let vs := xs.map f.decode
  let snan := flagIf (vs.any Fp.isSnan) flagNV
  if vs.any Fp.isNan then (f.nan, snan)
  else
    let pos := vs.any (· == .inf false)
    let neg := vs.any (· == .inf true)
    if pos && neg then (f.nan, flagNV)
    else if pos then (f.inf false, 0)
    else if neg then (f.inf true, 0)
    else sumRound f .plain (vs.filterMap fun | .num n m e => some (n, m, e) | _ => none)

/-- The reduction of R237 over values held as lanes hold them. -/
def reduceOf (t : BitVec 4) (op : Nat) (xs : List DWord) : DWord × BitVec 5 :=
  match typeFmt t with
  | some f => if op = 0 then fpTotal f xs else fpExtreme f (op == 2) xs
  | none =>
    let w := typeBits t == 64
    let u := !typeSigned t
    let g : DWord → DWord → DWord := match op with
      | 0 => addSat w false false
      | 1 => minInt w u
      | 2 => maxInt w u
      | 3 => (· &&& ·)
      | 4 => (· ||| ·)
      | _ => (· ^^^ ·)
    match xs with
    | [] => (0, 0)
    | y :: ys => (ys.foldl g y, 0)

/-- The identity of an empty exclusive prefix (R238). -/
def identityOf (t : BitVec 4) (op : Nat) : DWord :=
  match typeFmt t with
  | some f => if op = 0 then 0 else f.inf (op == 2)
  | none =>
    let w := typeBits t == 64
    match op with
    | 1 => ofInt w (typeMax t)
    | 2 => ofInt w (typeMin t)
    | 3 => ofInt w (-1)
    | _ => 0

/-- REDUX, class V (R237). A 32-bit result is sign-extended for I32 and zero-extended otherwise. -/
def execRedux (f : F64) (s : State) : Host.Outcome State Fault Refusal :=
  let h := hdr64 0x08 0x02 f
  let w := typeBits f.type == 64
  issue h
    { ops := fun c => sregOk f.dst && c.srcOk w f.s1
      uses := [(f.s1, w)]
      eff := fun c s =>
        let r := reduceOf f.type (f.mod.extractLsb' 0 3).toNat ((lanesOf c.en).map fun i => (c.src w f.s1).get i)
        let v := if f.type = 4 then (r.1.setWidth 32).signExtend 64 else r.1
        c.finish h [.sca (f.dst.toNat - 0x80) v] r.2 s } s

/-- SCAN, class V (R238): MOD[63] .excl. -/
def execScan (f : F64) (s : State) : Host.Outcome State Fault Refusal :=
  let w := typeBits f.type == 64
  let op := (f.mod.extractLsb' 0 3).toNat
  laneResult (hdr64 0x08 0x03 f) w f.dst [(f.s1, w)]
    (fun c i =>
      let js := (lanesOf c.en).filter fun j => if f.modBit 3 then j < i else j ≤ i
      if js.isEmpty then (identityOf f.type op, 0)
      else reduceOf f.type op (js.map fun j => (c.src w f.s1).get j)) s

/-- MATCH, class V (R239): the mask of the enabled lanes of equal value, in an even pair. -/
def execMatchLanes (f : F64) (s : State) : Host.Outcome State Fault Refusal :=
  let w := f.modBit 2
  laneResult (hdr64 0x08 0x04 f) true f.dst [(f.s1, w)]
    (fun c i =>
      let v := c.src w f.s1
      (maskOf fun j => lane c.en j && v.get j == v.get i, 0)) s

end Sys2Proof.Machine
end

