-- ==== Sys2Proof/Machine/Dispatch.lean ====
section
/-! DEFINITION. The meaning of every instruction and event: one arm for each row of spec/opcode_table.json. -/

namespace Sys2Proof.Machine

/-- One instruction or event, executed. -/
def exec (i : Instr) (s : State) : Host.Outcome State Fault Refusal :=
  match i with
  | .mov16 vd vs => Sys2Proof.Machine.execMov16 vd vs s
  | .iadd16 vd vs => Sys2Proof.Machine.execIadd16 vd vs s
  | .isub16 vd vs => Sys2Proof.Machine.execIsub16 vd vs s
  | .imul16 vd vs => Sys2Proof.Machine.execImul16 vd vs s
  | .and16 vd vs => Sys2Proof.Machine.execAnd16 vd vs s
  | .or16 vd vs => Sys2Proof.Machine.execOr16 vd vs s
  | .xor16 vd vs => Sys2Proof.Machine.execXor16 vd vs s
  | .shl16 vd vs => Sys2Proof.Machine.execShl16 vd vs s
  | .shr16 vd vs => Sys2Proof.Machine.execShr16 vd vs s
  | .sar16 vd vs => Sys2Proof.Machine.execSar16 vd vs s
  | .imin16 vd vs => Sys2Proof.Machine.execImin16 vd vs s
  | .imax16 vd vs => Sys2Proof.Machine.execImax16 vd vs s
  | .faddF32_16 vd vs => Sys2Proof.Machine.execFaddF32_16 vd vs s
  | .fsubF32_16 vd vs => Sys2Proof.Machine.execFsubF32_16 vd vs s
  | .fmulF32_16 vd vs => Sys2Proof.Machine.execFmulF32_16 vd vs s
  | .fmaxF32_16 vd vs => Sys2Proof.Machine.execFmaxF32_16 vd vs s
  | .wait m => Sys2Proof.Machine.execWait m s
  | .nop16 imm => Sys2Proof.Machine.execNop16 imm s
  | .brk16 imm => Sys2Proof.Machine.execBrk16 imm s
  | .trap16 imm => Sys2Proof.Machine.execTrap16 imm s
  | .brs o => Sys2Proof.Machine.execBrs o s
  | .iadd32 f => Sys2Proof.Machine.execIadd32 f s
  | .isub32 f => Sys2Proof.Machine.execIsub32 f s
  | .imul32 f => Sys2Proof.Machine.execImul32 f s
  | .imulh32 f => Sys2Proof.Machine.execImulh32 f s
  | .imad32 f => Sys2Proof.Machine.execImad32 f s
  | .imin32 f => Sys2Proof.Machine.execImin32 f s
  | .imax32 f => Sys2Proof.Machine.execImax32 f s
  | .iabs32 f => Sys2Proof.Machine.execIabs32 f s
  | .and32 f => Sys2Proof.Machine.execAnd32 f s
  | .or32 f => Sys2Proof.Machine.execOr32 f s
  | .xor32 f => Sys2Proof.Machine.execXor32 f s
  | .andn32 f => Sys2Proof.Machine.execAndn32 f s
  | .not32 f => Sys2Proof.Machine.execNot32 f s
  | .shl32 f => Sys2Proof.Machine.execShl32 f s
  | .shr32 f => Sys2Proof.Machine.execShr32 f s
  | .sar32 f => Sys2Proof.Machine.execSar32 f s
  | .rotl32 f => Sys2Proof.Machine.execRotl32 f s
  | .popc32 f => Sys2Proof.Machine.execPopc32 f s
  | .clz32 f => Sys2Proof.Machine.execClz32 f s
  | .ctz32 f => Sys2Proof.Machine.execCtz32 f s
  | .brev32 f => Sys2Proof.Machine.execBrev32 f s
  | .lea32 f => Sys2Proof.Machine.execLea32 f s
  | .mov32 f => Sys2Proof.Machine.execMov32 f s
  | .faddF32_32 f => Sys2Proof.Machine.execFaddF32_32 f s
  | .fsubF32_32 f => Sys2Proof.Machine.execFsubF32_32 f s
  | .fmulF32_32 f => Sys2Proof.Machine.execFmulF32_32 f s
  | .ffmaF32_32 f => Sys2Proof.Machine.execFfmaF32_32 f s
  | .fminF32_32 f => Sys2Proof.Machine.execFminF32_32 f s
  | .fmaxF32_32 f => Sys2Proof.Machine.execFmaxF32_32 f s
  | .fscaleF32_32 f => Sys2Proof.Machine.execFscaleF32_32 f s
  | .faddF64_32 f => Sys2Proof.Machine.execFaddF64_32 f s
  | .fsubF64_32 f => Sys2Proof.Machine.execFsubF64_32 f s
  | .fmulF64_32 f => Sys2Proof.Machine.execFmulF64_32 f s
  | .ffmaF64_32 f => Sys2Proof.Machine.execFfmaF64_32 f s
  | .fminF64_32 f => Sys2Proof.Machine.execFminF64_32 f s
  | .fmaxF64_32 f => Sys2Proof.Machine.execFmaxF64_32 f s
  | .faddX2_32 f => Sys2Proof.Machine.execFaddX2_32 f s
  | .fsubX2_32 f => Sys2Proof.Machine.execFsubX2_32 f s
  | .fmulX2_32 f => Sys2Proof.Machine.execFmulX2_32 f s
  | .ffmaX2_32 f => Sys2Proof.Machine.execFfmaX2_32 f s
  | .fminX2_32 f => Sys2Proof.Machine.execFminX2_32 f s
  | .fmaxX2_32 f => Sys2Proof.Machine.execFmaxX2_32 f s
  | .nop32 f => Sys2Proof.Machine.execNop32 f s
  | .iadd wide f => Sys2Proof.Machine.execIadd wide f s
  | .isub wide f => Sys2Proof.Machine.execIsub wide f s
  | .imul wide f => Sys2Proof.Machine.execImul wide f s
  | .imulh wide f => Sys2Proof.Machine.execImulh wide f s
  | .imad wide f => Sys2Proof.Machine.execImad wide f s
  | .idiv wide f => Sys2Proof.Machine.execIdiv wide f s
  | .irem wide f => Sys2Proof.Machine.execIrem wide f s
  | .imin wide f => Sys2Proof.Machine.execImin wide f s
  | .imax wide f => Sys2Proof.Machine.execImax wide f s
  | .iabs wide f => Sys2Proof.Machine.execIabs wide f s
  | .and wide f => Sys2Proof.Machine.execAnd wide f s
  | .or wide f => Sys2Proof.Machine.execOr wide f s
  | .xor wide f => Sys2Proof.Machine.execXor wide f s
  | .andn wide f => Sys2Proof.Machine.execAndn wide f s
  | .not wide f => Sys2Proof.Machine.execNot wide f s
  | .shl wide f => Sys2Proof.Machine.execShl wide f s
  | .shr wide f => Sys2Proof.Machine.execShr wide f s
  | .sar wide f => Sys2Proof.Machine.execSar wide f s
  | .rotl wide f => Sys2Proof.Machine.execRotl wide f s
  | .bfx wide f => Sys2Proof.Machine.execBfx wide f s
  | .bfi wide f => Sys2Proof.Machine.execBfi wide f s
  | .popc wide f => Sys2Proof.Machine.execPopc wide f s
  | .clz wide f => Sys2Proof.Machine.execClz wide f s
  | .ctz wide f => Sys2Proof.Machine.execCtz wide f s
  | .brev wide f => Sys2Proof.Machine.execBrev wide f s
  | .lea wide f => Sys2Proof.Machine.execLea wide f s
  | .icmp wide f => Sys2Proof.Machine.execIcmp wide f s
  | .sel wide f => Sys2Proof.Machine.execSel wide f s
  | .mov wide f => Sys2Proof.Machine.execMov wide f s
  | .iaddImm f => Sys2Proof.Machine.execIaddImm f s
  | .imulImm f => Sys2Proof.Machine.execImulImm f s
  | .iminImm f => Sys2Proof.Machine.execIminImm f s
  | .imaxImm f => Sys2Proof.Machine.execImaxImm f s
  | .andImm f => Sys2Proof.Machine.execAndImm f s
  | .orImm f => Sys2Proof.Machine.execOrImm f s
  | .xorImm f => Sys2Proof.Machine.execXorImm f s
  | .shlImm f => Sys2Proof.Machine.execShlImm f s
  | .shrImm f => Sys2Proof.Machine.execShrImm f s
  | .sarImm f => Sys2Proof.Machine.execSarImm f s
  | .rotlImm f => Sys2Proof.Machine.execRotlImm f s
  | .bfxImm f => Sys2Proof.Machine.execBfxImm f s
  | .bfiImm f => Sys2Proof.Machine.execBfiImm f s
  | .icmpImm f => Sys2Proof.Machine.execIcmpImm f s
  | .movi f => Sys2Proof.Machine.execMovi f s
  | .moviHi f => Sys2Proof.Machine.execMoviHi f s
  | .fadd wide f => Sys2Proof.Machine.execFadd wide f s
  | .fsub wide f => Sys2Proof.Machine.execFsub wide f s
  | .fmul wide f => Sys2Proof.Machine.execFmul wide f s
  | .ffma wide f => Sys2Proof.Machine.execFfma wide f s
  | .fmin wide f => Sys2Proof.Machine.execFmin wide f s
  | .fmax wide f => Sys2Proof.Machine.execFmax wide f s
  | .fcmp wide f => Sys2Proof.Machine.execFcmp wide f s
  | .fclass wide f => Sys2Proof.Machine.execFclass wide f s
  | .frcp wide f => Sys2Proof.Machine.execFrcp wide f s
  | .frsq wide f => Sys2Proof.Machine.execFrsq wide f s
  | .fsqrt wide f => Sys2Proof.Machine.execFsqrt wide f s
  | .fdiv wide f => Sys2Proof.Machine.execFdiv wide f s
  | .fexp2 wide f => Sys2Proof.Machine.execFexp2 wide f s
  | .flog2 wide f => Sys2Proof.Machine.execFlog2 wide f s
  | .fsin wide f => Sys2Proof.Machine.execFsin wide f s
  | .fcos wide f => Sys2Proof.Machine.execFcos wide f s
  | .frnd wide f => Sys2Proof.Machine.execFrnd wide f s
  | .fscale wide f => Sys2Proof.Machine.execFscale wide f s
  | .fgetexp wide f => Sys2Proof.Machine.execFgetexp wide f s
  | .faddX2 f => Sys2Proof.Machine.execFaddX2 f s
  | .fsubX2 f => Sys2Proof.Machine.execFsubX2 f s
  | .fmulX2 f => Sys2Proof.Machine.execFmulX2 f s
  | .ffmaX2 f => Sys2Proof.Machine.execFfmaX2 f s
  | .fminX2 f => Sys2Proof.Machine.execFminX2 f s
  | .fmaxX2 f => Sys2Proof.Machine.execFmaxX2 f s
  | .fcmpX2 f => Sys2Proof.Machine.execFcmpX2 f s
  | .cvt f => Sys2Proof.Machine.execCvt f s
  | .pack f => Sys2Proof.Machine.execPack f s
  | .unpack f => Sys2Proof.Machine.execUnpack f s
  | .amax f => Sys2Proof.Machine.execAmax f s
  | .quant f => Sys2Proof.Machine.execQuant f s
  | .plpack f => Sys2Proof.Machine.execPlpack f s
  | .plunpack f => Sys2Proof.Machine.execPlunpack f s
  | .shfl f => Sys2Proof.Machine.execShfl f s
  | .vote f => Sys2Proof.Machine.execVote f s
  | .redux f => Sys2Proof.Machine.execRedux f s
  | .scan f => Sys2Proof.Machine.execScan f s
  | .matchLanes f => Sys2Proof.Machine.execMatchLanes f s
  | .pand f => Sys2Proof.Machine.execPand f s
  | .por f => Sys2Proof.Machine.execPor f s
  | .pxor f => Sys2Proof.Machine.execPxor f s
  | .pnot f => Sys2Proof.Machine.execPnot f s
  | .pmov f => Sys2Proof.Machine.execPmov f s
  | .sadd f => Sys2Proof.Machine.execSadd f s
  | .ssub f => Sys2Proof.Machine.execSsub f s
  | .smul f => Sys2Proof.Machine.execSmul f s
  | .sand f => Sys2Proof.Machine.execSand f s
  | .sor f => Sys2Proof.Machine.execSor f s
  | .sxor f => Sys2Proof.Machine.execSxor f s
  | .sshl f => Sys2Proof.Machine.execSshl f s
  | .sshr f => Sys2Proof.Machine.execSshr f s
  | .scmp f => Sys2Proof.Machine.execScmp f s
  | .ssel f => Sys2Proof.Machine.execSsel f s
  | .smov f => Sys2Proof.Machine.execSmov f s
  | .bcast f => Sys2Proof.Machine.execBcast f s
  | .rdlane f => Sys2Proof.Machine.execRdlane f s
  | .saddImm f => Sys2Proof.Machine.execSaddImm f s
  | .ssubImm f => Sys2Proof.Machine.execSsubImm f s
  | .smulImm f => Sys2Proof.Machine.execSmulImm f s
  | .sandImm f => Sys2Proof.Machine.execSandImm f s
  | .sorImm f => Sys2Proof.Machine.execSorImm f s
  | .sxorImm f => Sys2Proof.Machine.execSxorImm f s
  | .sshlImm f => Sys2Proof.Machine.execSshlImm f s
  | .sshrImm f => Sys2Proof.Machine.execSshrImm f s
  | .scmpImm f => Sys2Proof.Machine.execScmpImm f s
  | .smovi f => Sys2Proof.Machine.execSmovi f s
  | .smoviMid f => Sys2Proof.Machine.execSmoviMid f s
  | .smoviTop f => Sys2Proof.Machine.execSmoviTop f s
  | .wset f => Sys2Proof.Machine.execWset f s
  | .wstat f => Sys2Proof.Machine.execWstat f s
  | .wrew f => Sys2Proof.Machine.execWrew f s
  | .ldg f => Sys2Proof.Machine.execLdg f s
  | .stg f => Sys2Proof.Machine.execStg f s
  | .pref f => Sys2Proof.Machine.execPref f s
  | .atomg f => Sys2Proof.Machine.execAtomg f s
  | .redg f => Sys2Proof.Machine.execRedg f s
  | .ldl f => Sys2Proof.Machine.execLdl f s
  | .stl f => Sys2Proof.Machine.execStl f s
  | .atoml f => Sys2Proof.Machine.execAtoml f s
  | .sld f => Sys2Proof.Machine.execSld f s
  | .sst f => Sys2Proof.Machine.execSst f s
  | .fence f => Sys2Proof.Machine.execFence f s
  | .locid f => Sys2Proof.Machine.execLocid f s
  | .scopeof f => Sys2Proof.Machine.execScopeof f s
  | .scopecost f => Sys2Proof.Machine.execScopecost f s
  | .vmap f => Sys2Proof.Machine.execVmap f s
  | .vunmap f => Sys2Proof.Machine.execVunmap f s
  | .sjoin f => Sys2Proof.Machine.execSjoin f s
  | .sleave f => Sys2Proof.Machine.execSleave f s
  | .feset f => Sys2Proof.Machine.execFeset f s
  | .feclr f => Sys2Proof.Machine.execFeclr f s
  | .put f => Sys2Proof.Machine.execPut f s
  | .get f => Sys2Proof.Machine.execGet f s
  | .wcnt f => Sys2Proof.Machine.execWcnt f s
  | .nmo f => Sys2Proof.Machine.execNmo f s
  | .tcopy f => Sys2Proof.Machine.execTcopy f s
  | .tgather f => Sys2Proof.Machine.execTgather f s
  | .tscatter f => Sys2Proof.Machine.execTscatter f s
  | .tcoll f => Sys2Proof.Machine.execTcoll f s
  | .tcancel f => Sys2Proof.Machine.execTcancel f s
  | .tsched f => Sys2Proof.Machine.execTsched f s
  | .tstat f => Sys2Proof.Machine.execTstat f s
  | .mxalloc f => Sys2Proof.Machine.execMxalloc f s
  | .mxfree f => Sys2Proof.Machine.execMxfree f s
  | .mxwload f => Sys2Proof.Machine.execMxwload f s
  | .mxrun f => Sys2Proof.Machine.execMxrun f s
  | .mxdrain f => Sys2Proof.Machine.execMxdrain f s
  | .mxfill f => Sys2Proof.Machine.execMxfill f s
  | .mxzero f => Sys2Proof.Machine.execMxzero f s
  | .mxfence f => Sys2Proof.Machine.execMxfence f s
  | .mxstat f => Sys2Proof.Machine.execMxstat f s
  | .mxcancel f => Sys2Proof.Machine.execMxcancel f s
  | .bra f => Sys2Proof.Machine.execBra f s
  | .brc f => Sys2Proof.Machine.execBrc f s
  | .brx f => Sys2Proof.Machine.execBrx f s
  | .brw f => Sys2Proof.Machine.execBrw f s
  | .call f => Sys2Proof.Machine.execCall f s
  | .callx f => Sys2Proof.Machine.execCallx f s
  | .ret f => Sys2Proof.Machine.execRet f s
  | .exit f => Sys2Proof.Machine.execExit f s
  | .bar f => Sys2Proof.Machine.execBar f s
  | .bara f => Sys2Proof.Machine.execBara f s
  | .elect f => Sys2Proof.Machine.execElect f s
  | .sleep f => Sys2Proof.Machine.execSleep f s
  | .spawn f => Sys2Proof.Machine.execSpawn f s
  | .fetchw f => Sys2Proof.Machine.execFetchw f s
  | .reggrow f => Sys2Proof.Machine.execReggrow f s
  | .regshrink f => Sys2Proof.Machine.execRegshrink f s
  | .trap f => Sys2Proof.Machine.execTrap f s
  | .brk f => Sys2Proof.Machine.execBrk f s
  | .mfx f => Sys2Proof.Machine.execMfx f s
  | .forkw f => Sys2Proof.Machine.execForkw f s
  | .choose f => Sys2Proof.Machine.execChoose f s
  | .world f => Sys2Proof.Machine.execWorld f s
  | .abandon f => Sys2Proof.Machine.execAbandon f s
  | .xret f => Sys2Proof.Machine.execXret f s
  | .mtx f => Sys2Proof.Machine.execMtx f s
  | .mtxXpc f => Sys2Proof.Machine.execMtxXpc f s
  | .mtxVbudget f => Sys2Proof.Machine.execMtxVbudget f s
  | .mtxVpsize f => Sys2Proof.Machine.execMtxVpsize f s
  | .mtxVpbase f => Sys2Proof.Machine.execMtxVpbase f s
  | .tlbinv f => Sys2Proof.Machine.execTlbinv f s
  | .icinv f => Sys2Proof.Machine.execIcinv f s
  | .snap f => Sys2Proof.Machine.execSnap f s
  | .snapst f => Sys2Proof.Machine.execSnapst f s
  | .nop64 minor f => Sys2Proof.Machine.execNop64 minor f s
  | .illegalInstr w => Sys2Proof.Machine.execIllegalInstr w s
  | .yield => Sys2Proof.Machine.execYield s
  | .exit16 => Sys2Proof.Machine.execExit16 s
  | .sleepWake => Sys2Proof.Machine.execSleepWake s
  | .spawnResume => Sys2Proof.Machine.execSpawnResume s
  | .fetchwService => Sys2Proof.Machine.execFetchwService s
  | .mailboxWrite => Sys2Proof.Machine.execMailboxWrite s
  | .reggrowGrant => Sys2Proof.Machine.execReggrowGrant s
  | .forkwCopyPlacement => Sys2Proof.Machine.execForkwCopyPlacement s
  | .viewRetag => Sys2Proof.Machine.execViewRetag s
  | .heartbeatTick => Sys2Proof.Machine.execHeartbeatTick s
  | .resultWriteback => Sys2Proof.Machine.execResultWriteback s
  | .instructionCompletion => Sys2Proof.Machine.execInstructionCompletion s
  | .instructionFetchFill => Sys2Proof.Machine.execInstructionFetchFill s
  | .pageWalk => Sys2Proof.Machine.execPageWalk s
  | .pageFaultAnswer => Sys2Proof.Machine.execPageFaultAnswer s
  | .atsTranslationCompletion => Sys2Proof.Machine.execAtsTranslationCompletion s
  | .pageRequestGroupResponse => Sys2Proof.Machine.execPageRequestGroupResponse s
  | .atsInvalidation => Sys2Proof.Machine.execAtsInvalidation s
  | .pasidTeardown => Sys2Proof.Machine.execPasidTeardown s
  | .vaultBankAccess => Sys2Proof.Machine.execVaultBankAccess s
  | .segmentTransitEnd => Sys2Proof.Machine.execSegmentTransitEnd s
  | .tierEntryStart => Sys2Proof.Machine.execTierEntryStart s
  | .copyItemTurn => Sys2Proof.Machine.execCopyItemTurn s
  | .copyItemCompletion => Sys2Proof.Machine.execCopyItemCompletion s
  | .replicaRefetch => Sys2Proof.Machine.execReplicaRefetch s
  | .mxAllocGrant => Sys2Proof.Machine.execMxAllocGrant s
  | .mxEntryGrant => Sys2Proof.Machine.execMxEntryGrant s
  | .mxEntryCompletion => Sys2Proof.Machine.execMxEntryCompletion s
  | .linkReplay => Sys2Proof.Machine.execLinkReplay s
  | .portFailure => Sys2Proof.Machine.execPortFailure s
  | .putDelivery => Sys2Proof.Machine.execPutDelivery s
  | .putAcknowledgement => Sys2Proof.Machine.execPutAcknowledgement s
  | .getRequest => Sys2Proof.Machine.execGetRequest s
  | .getResponse => Sys2Proof.Machine.execGetResponse s
  | .nmoRequest => Sys2Proof.Machine.execNmoRequest s
  | .nmoResponse => Sys2Proof.Machine.execNmoResponse s
  | .poolAtomicRequest => Sys2Proof.Machine.execPoolAtomicRequest s
  | .collectiveChunk => Sys2Proof.Machine.execCollectiveChunk s
  | .hostMemoryAccess => Sys2Proof.Machine.execHostMemoryAccess s
  | .queueTableRead => Sys2Proof.Machine.execQueueTableRead s
  | .scannerRead => Sys2Proof.Machine.execScannerRead s
  | .nop => Sys2Proof.Machine.execNop s
  | .launch => Sys2Proof.Machine.execLaunch s
  | .indirect => Sys2Proof.Machine.execIndirect s
  | .prologueLaunch => Sys2Proof.Machine.execPrologueLaunch s
  | .prologueCancel => Sys2Proof.Machine.execPrologueCancel s
  | .prologueRepeat => Sys2Proof.Machine.execPrologueRepeat s
  | .prologueBudgetExceeded => Sys2Proof.Machine.execPrologueBudgetExceeded s
  | .signal => Sys2Proof.Machine.execSignal s
  | .waitge => Sys2Proof.Machine.execWaitge s
  | .arbiterVisit => Sys2Proof.Machine.execArbiterVisit s
  | .blockPlacement => Sys2Proof.Machine.execBlockPlacement s
  | .groupCompletion => Sys2Proof.Machine.execGroupCompletion s
  | .queueRestart => Sys2Proof.Machine.execQueueRestart s
  | .preemptionRequest => Sys2Proof.Machine.execPreemptionRequest s
  | .drainExhausted => Sys2Proof.Machine.execDrainExhausted s
  | .drainTimeout => Sys2Proof.Machine.execDrainTimeout s
  | .blockSave => Sys2Proof.Machine.execBlockSave s
  | .blockRestore => Sys2Proof.Machine.execBlockRestore s
  | .snapshotClaim => Sys2Proof.Machine.execSnapshotClaim s
  | .snapshotCut => Sys2Proof.Machine.execSnapshotCut s
  | .markerArrival => Sys2Proof.Machine.execMarkerArrival s
  | .eaveSweep => Sys2Proof.Machine.execEaveSweep s
  | .streamerWrite => Sys2Proof.Machine.execStreamerWrite s
  | .colourClosing => Sys2Proof.Machine.execColourClosing s
  | .snapshotFailure => Sys2Proof.Machine.execSnapshotFailure s
  | .uncorrectableError => Sys2Proof.Machine.execUncorrectableError s
  | .pageScrub => Sys2Proof.Machine.execPageScrub s
  | .opportunisticReplay => Sys2Proof.Machine.execOpportunisticReplay s
  | .ridgeMismatch => Sys2Proof.Machine.execRidgeMismatch s
  | .coldReset => Sys2Proof.Machine.execColdReset s
  | .warmReset => Sys2Proof.Machine.execWarmReset s
  | .functionLevelReset => Sys2Proof.Machine.execFunctionLevelReset s
  | .thermalTrip => Sys2Proof.Machine.execThermalTrip s
  | .getVersion => Sys2Proof.Machine.execGetVersion s
  | .getCapabilities => Sys2Proof.Machine.execGetCapabilities s
  | .negotiateAlgorithms => Sys2Proof.Machine.execNegotiateAlgorithms s
  | .getDigests => Sys2Proof.Machine.execGetDigests s
  | .getCertificate => Sys2Proof.Machine.execGetCertificate s
  | .challenge => Sys2Proof.Machine.execChallenge s
  | .getMeasurements => Sys2Proof.Machine.execGetMeasurements s
  | .imageStage => Sys2Proof.Machine.execImageStage s
  | .firmwareUpdate => Sys2Proof.Machine.execFirmwareUpdate s
  | .handover => Sys2Proof.Machine.execHandover s
  | .trialHeartbeat => Sys2Proof.Machine.execTrialHeartbeat s
  | .updateRollback => Sys2Proof.Machine.execUpdateRollback s
  | .powerCap => Sys2Proof.Machine.execPowerCap s
  | .telemetry => Sys2Proof.Machine.execTelemetry s
  | .errorLog => Sys2Proof.Machine.execErrorLog s
  | .quarantineList => Sys2Proof.Machine.execQuarantineList s
  | .imageTransfer => Sys2Proof.Machine.execImageTransfer s
  | .create => Sys2Proof.Machine.execCreate s
  | .destroy => Sys2Proof.Machine.execDestroy s
  | .restore => Sys2Proof.Machine.execRestore s
  | .correctedError => Sys2Proof.Machine.execCorrectedError s
  | .throttle => Sys2Proof.Machine.execThrottle s
  | .tripRelease => Sys2Proof.Machine.execTripRelease s
  | .hdmDecoderCommit => Sys2Proof.Machine.execHdmDecoderCommit s
  | .windowOfArrivalEnd => Sys2Proof.Machine.execWindowOfArrivalEnd s

end Sys2Proof.Machine
end

