-- ==== Sys2Proof/Machine/Schedule.lean ====
section
/-! DEFINITION. What moves next (R378, R379; log 1): which group may issue, the group that a partition issues, the events that are due inside the
package, one issue, and the place where a first instruction stands. -/

namespace Sys2Proof.Machine

/-! ## The group that is ready first -/

/-- A ready group goes before another: the earlier cycle, then the older (R379). -/
def State.readyGroup (s : State) : Option Group :=
  let ready := s.groups.filterMap fun g => (s.readyCycle g).map fun t => (g, t)
  (ready.foldl (fun (best : Option (Group × Nat)) x => match best with
    | none => some x
    | some b => if x.2 < b.2 || (x.2 == b.2 && decide (x.1.age < b.1.age)) then some x else some b) none).map (·.1)

/-! ## Events inside the package -/

/-- An event with a cue. -/
def turnOf (i : Instr) (c : Cue) : Turn := .event i c
/-- A cue that names a group, or a flight of it. -/
def Cue.flight (g : Group) (k : Nat) : Cue := { Cue.none with block := g.block, gidx := g.gidx, key := k }
/-- A cue that names an object by its key. -/
def Cue.object (k : Nat) : Cue := { Cue.none with key := k }
/-- A cue of numbers. -/
def Cue.list (ns : List Nat) : Cue := { Cue.none with nums := ns }

/-- What a group on its cores waits for. -/
def State.groupTurns (s : State) (g : Group) : List Turn :=
  let me := Cue.flight g 0
  (g.flights.map fun f => turnOf (if f.due.isSome then .resultWriteback else .instructionCompletion) (.flight g f.key)) ++
  (g.flights.filterMap fun f => match f.op with
    | .snap none _ _ _ => some (turnOf .snapshotClaim (.flight g f.key))
    | _ => none) ++
  (match g.hold with
    | .sleep t => if t ≤ s.hbeat.toNat then [turnOf .sleepWake me] else []
    | .grow _ => [turnOf .reggrowGrant me]
    | .fork _ _ => [turnOf .forkwCopyPlacement me]
    | _ => []) ++
  (if g.nextRun.isSome && (s.nextWord g).isNone then [turnOf .instructionFetchFill me] else []) ++
  if g.act == 0 || g.etrap.isSome || ((s.launchOf g).map (·.torn)).getD false then [turnOf .groupCompletion me] else []

/-- What a block waits for. -/
def State.blockTurns (s : State) (b : Block) : List Turn :=
  let me := Cue.object b.key
  match b.res with
  | .saved => if (s.groupsOf b.key).any fun g => g.hold == .spawn then [turnOf .spawnResume me] else [turnOf .blockRestore me]
  | .saving => [turnOf .blockSave me]
  | .suspending => [turnOf .blockSave me]
  | .flushing => [turnOf .blockSave me]
  | .draining 0 _ => [turnOf .drainExhausted me]
  | .draining _ t => if t + 4096 ≤ s.hbeat.toNat then [turnOf .drainTimeout me] else []
  | _ => []

/-- What a packet of a queue waits for (R369, R373). -/
def State.packetTurns (s : State) (q : Queue) (p : Packet) : List Turn :=
  let me := Cue.list [q.pasid, q.num, p.idx]
  if !s.starts q p then []
  else match p.type with
    | 0 => [turnOf .nop me]
    | 1 => if p.started && p.launch.isNone then [turnOf .launch me] else []
    | 2 =>
      if !p.started || p.launch.isSome then []
      else if p.pro.isNone then [turnOf .indirect me]
      else [turnOf .prologueBudgetExceeded me] ++ (if (s.prologueCode p).isSome then
        [turnOf .prologueLaunch me, turnOf .prologueCancel me, turnOf .prologueRepeat me] else [])
    | 3 => [turnOf .signal me]
    | _ => if p.started then [] else [turnOf .waitge me]

/-- What a queue waits for. -/
def State.queueTurns (s : State) (q : Queue) : List Turn :=
  let me := Cue.list [q.pasid, q.num]
  let placed := s.blocks.any fun b => ((s.launch? b.launch).map fun l => l.pasid == q.pasid && l.queue == some q.num).getD false
  (match q.preempt with
    | some w => if placed then [turnOf .preemptionRequest { me with key := w }] else []
    | none => []) ++
  (if s.mayScan q then [turnOf .scannerRead me] else []) ++
  q.packets.flatMap (s.packetTurns q)

/-- What a copy item waits for. -/
def CopyItem.turns (it : CopyItem) : List Turn :=
  let me := Cue.object it.key
  if it.ended then []
  else match it.kind with
  | .coll => [turnOf .collectiveChunk me]
  | _ => if it.waitva != 0 then [] else [turnOf .copyItemTurn me, turnOf .copyItemCompletion me]

/-- What a fabric request waits for; another package's part in it comes from outside. -/
def FabReq.turns (r : FabReq) : List Turn :=
  let me := Cue.object r.key
  match r.kind with
  | .put => [turnOf .putDelivery me, turnOf .putAcknowledgement me]
  | .get => [turnOf .getRequest me, turnOf .getResponse me]
  | .nmo => [turnOf .nmoRequest me, turnOf .nmoResponse me]

/-- What a context waits for: its queue table, its tier schedule, its FETCHW requests. -/
def State.contextTurns (s : State) (c : Context) : List Turn :=
  (if c.begun && c.qbase != 0 && decide (c.qdue ≤ s.cycle) then [turnOf .queueTableRead (.object c.pasid)] else []) ++
  (match s.tierHead? c.pasid with
    | some h => (((List.range h.count).filter fun k => !s.tierStarted c.pasid k).take 64).map fun k =>
        turnOf .tierEntryStart { Cue.none with gidx := c.pasid, key := k }
    | none => []) ++
  if s.mails.any fun m => m.pasid == c.pasid && m.here && m.bytes == [] then [turnOf .fetchwService (.object c.pasid)] else []

/-- What a colour waits for (R437 to R453); markers come by themselves where the placement is this package alone. -/
def State.colourTurns (s : State) (c : Colour) : List Turn :=
  let me := Cue.list [c.pasid, c.num]
  let alone := ((s.ctx? c.pasid).map fun x => (Shape.of x.shape).pkg == 1).getD false
  let marks : List Turn :=
    if !alone || !c.cut then []
    else (List.range 32).flatMap fun p =>
      if !c.markers.contains (32 + p) then [turnOf .markerArrival (.list [c.pasid, c.num, c.seq, p, 1])]
      else if c.markers.contains p then [] else [turnOf .markerArrival (.list [c.pasid, c.num, c.seq, p, 0])]
  let work : List Turn := (if s.unpreserved c = [] then [] else [turnOf .eaveSweep { me with key := 0 }]) ++
    ((c.recs.zipIdx).filter fun r => r.1.out.isNone && !s.unstaged c r.1.ref && s.streamerFree (s.streamerOf c r.1)).map fun r =>
      turnOf .streamerWrite { me with key := r.2 }
  match c.st with
  | .free => []
  | .cutting => (if c.cut then work else [turnOf .snapshotCut me]) ++ marks
  | .recording => marks ++ work
  | .closing => work ++ [turnOf .colourClosing me]

/-- Every event inside the package that something waits for (log 1). What comes from outside (the host, system software, other packages, errors of
the hardware) is not among them. -/
def State.backgrounds (s : State) : List Turn :=
  ((s.groups.filter fun g => s.isResident g.block).flatMap s.groupTurns) ++
  (s.blocks.flatMap s.blockTurns) ++
  ((List.range 128).filter s.pressed).map (fun k => turnOf .preemptionRequest { Cue.none with key := k, yes := true }) ++
  (if s.launches.any fun l => (l.unplacedAll) != [] then [turnOf .blockPlacement Cue.none] else []) ++
  (s.items.flatMap CopyItem.turns) ++
  ((s.mxReqs.map (·.cluster)).eraseDups.map fun c => turnOf .mxAllocGrant (.object c)) ++
  (((s.mxEntries.filter fun e => e.granted.isNone && e.ended == 0).map (·.cluster)).eraseDups.map fun c => turnOf .mxEntryGrant (.object c)) ++
  ((s.mxEntries.filter fun e => e.granted.isSome && e.ended == 0).map fun e => turnOf .mxEntryCompletion (.object e.key)) ++
  (s.fabric.flatMap FabReq.turns) ++
  (if s.inbox = [] then [] else [turnOf .putDelivery { Cue.none with yes := true }]) ++
  (s.combine.map fun c => turnOf .windowOfArrivalEnd (.object c.pa)) ++
  (s.ctxs.flatMap s.contextTurns) ++
  (s.queues.flatMap s.queueTurns) ++
  (if s.queues.any fun q => s.activeQueue q then [turnOf .arbiterVisit Cue.none] else []) ++
  ((s.mails.filter fun m => m.bytes != []).map fun m => turnOf .mailboxWrite (.object m.key)) ++
  (s.aliases.map fun a => turnOf .viewRetag (.object a.2)) ++
  ((s.sibs.filter fun x => x.decision != .openSet && !x.merged).map fun x => turnOf .viewRetag (.object x.key)) ++
  ((s.segs.filter (·.transit)).map fun g => turnOf .segmentTransitEnd (.object g.pa)) ++
  (s.colours.flatMap s.colourTurns)

/-- What moves where the agenda names nothing (log 1): a tick that is overdue; then in turn the group that is ready first and the next of the
package's events; a tick where nothing else moves. -/
def State.defaultTurn (s : State) : Turn :=
  let tick : Turn := turnOf .heartbeatTick Cue.none
  if Config.tick * (s.hbeat.toNat + 1) ≤ s.cycle then tick
  else
    let bs := s.backgrounds
    match s.readyGroup with
    | some g =>
      if s.turn % 2 = 0 ∨ bs = [] then .issue g.block g.gidx else (bs[s.turn / 2 % bs.length]?).getD tick
    | none => ((bs ++ [tick])[s.turn / 2 % (bs.length + 1)]?).getD tick

/-! ## One issue -/

/-- A decoded word, executed; exec of its instruction (Laws: execWord_eq). -/
def execWord : Decoded → State → Host.Outcome State Fault Refusal
  | .common i, s => exec i s
  | .rare (.xret f), s => execXret f s
  | .rare (.mtx f), s => execMtx f s
  | .rare (.mtxXpc f), s => execMtxXpc f s
  | .rare (.mtxVbudget f), s => execMtxVbudget f s
  | .rare (.mtxVpsize f), s => execMtxVpsize f s
  | .rare (.mtxVpbase f), s => execMtxVpbase f s
  | .rare (.tlbinv f), s => execTlbinv f s
  | .rare (.icinv f), s => execIcinv f s
  | .rare (.snap f), s => execSnap f s
  | .rare (.snapst f), s => execSnapst f s
  | .rare (.nop64 m f), s => execNop64 m f s
  | .rare (.illegalInstr w), s => execIllegalInstr w s

/-- The state in which a group that may issue does: it is the chosen one, and the cycle has come at which it is ready (R57, R379). -/
def State.seat (s : State) (g : Group) : State :=
  let s := s.choose g.block g.gidx
  match s.nextWord s.cur with
  | some w => s.reach (s.readyAt s.cur w)
  | none => s

/-- A group has its turn at the cycle at which it is ready: none is ready earlier, nor an older one of its partition then (R379). -/
def State.turnComes (s : State) (g : Group) (w : DWord) : Bool :=
  s.mayIssue g && !s.readyBefore (s.readyAt g w) && s.oldestAt g (s.readyAt g w)

/-- A group may issue its next word: it has its turn, and no tick on the way holds it up. -/
def State.issues (s : State) (g : Group) (w : DWord) : Bool := s.turnComes g w && (s.seat g).mayIssue (s.seat g).cur

/-- A group issues the instruction at its PC, where it may and its core holds it; the fetch agent fills what the core lacks (R184). -/
def State.issueTurn (s : State) (block gidx : Nat) : Host.Outcome State Fault Refusal :=
  match s.group? block gidx with
  | none => .next s
  | some g =>
    match s.nextWord g with
    | some w =>
      if s.issues g w then execWord (readWord w) (s.seat g)
      else .next (if s.turnComes g w then s.seat g else s)
    | none => if s.mayIssue g then execInstructionFetchFill { s with cue := Cue.flight g 0 } else .next s

/-- A turn is taken: an event with its cue, an issue, or, in a set that is full, a replacement. An instruction of the set is no event. -/
def State.take (s : State) : Turn → Host.Outcome State Fault Refusal
  | .event i c => if i.isWord then .next s else exec i { s with cue := c }
  | .issue b g => s.issueTurn b g
  | .evict c unit pasid a => .next (if s.displaced c unit a then s.evict c unit pasid a else s)

/-- The issues of the present cycle by groups that leave their partitions in a step are kept: they count there (R379). -/
def State.noteGone (old s : State) : State :=
  let left := old.groups.filterMap fun g => match g.last with
    | some t =>
      let p := old.partitionOf g
      if t < s.cycle ∨ s.groups.any fun h => h.is g.block g.gidx && s.partitionOf h == p then none else some (p, t)
    | none => none
  { s with gone := s.gone.filter (fun x => decide (s.cycle ≤ x.2)) ++ left }

/-- What a word names as operands (R42, R47, R50). -/
def operandCodes (w : DWord) : List (BitVec 8) :=
  match lengthOf w with
  | 8 => let f := F64.ofWord w; [f.s1, f.s2, f.s3]
  | 4 => let f := F32.ofWord (w.setWidth 32); [widen6 f.dst, widen6 f.src1, widen6 f.src2]
  | _ => [(w.extractLsb' 6 5).setWidth 8, (w.extractLsb' 11 5).setWidth 8]

/-- The lanes into which a write goes, where its place is a vector register or a predicate. -/
def RegWrite.lanes? : RegWrite → Option DWord
  | .vec _ _ m _ => some m
  | .prd _ m _ => some m
  | _ => none

/-- The latest 16 of a partition stay. -/
def keep16 (p : Nat) (q : List Replayed) : List Replayed := (q.filter (·.part == p)).take 16 ++ q.filter (·.part != p)

/-- A vector instruction of class F4 or F6 that a step has issued enters the replay queue of its partition with its operands (R465). -/
def State.noteReplay (old s : State) : State :=
  match old.group? s.cur.block s.cur.gidx, s.cur.flights.getLast? with
  | some was, some f =>
    match f.due, s.cur.last, f.writes.head?.bind RegWrite.lanes? with
    | some t, some t0, some m =>
      if f.key < old.nextKey || s.cur.front || !(t == t0 + 4 || t == t0 + 6) then s
      else
        let c : Cx := ⟨{ s with cur := { s.cur with run := was.run } }, ⟨m, f.pc, 0⟩, t0, m⟩
        let p := s.partitionOf s.cur
        { s with replayQ := keep16 p (⟨p, f.word, m, (operandCodes f.word).map (c.src true)⟩ :: s.replayQ) }
    | _, _, _ => s
  | _, _ => s

/-- After every step stores that waited are tried again (R152, R179), what has thereby come to its end leaves (R147, R266), the matrix engines note what
has become eligible (R265), firmware contains what it has to, where a release ends that could not be made whole (R312, R466), and the dispatcher notes what
is ready to come back (R376). -/
def State.settleWork (s : State) : State := s.payOwed.leaveItems.mxLeaves.mxNote.containAll.finishRemovals.noteReturns

/-- Then lines of restored views whose pages have been mapped stand there, granules whose queues waited for staging space are served (R446), ports set and
clear their stop bits (R309, R444), and queues that have become active join the arbiter's list (R374). -/
def State.settleQueues (s : State) : State := s.bindLines.serveAll.setStops.arbitrate

/-- After every step that is done, with what the step has freed for a later cycle (R379, R380) and issued (R465); slots of view pools are written, and what
was written is preserved for the colours (R445, R446). -/
def State.settleStep (old s : State) : State :=
  let s := (State.noteReplay old (State.noteFreed old (State.noteGone old s.settleWork))).settleQueues
  State.preserveChanged old (State.writePools old s)

/-! ## Where a first instruction stands -/

/-- A context of this package alone, as a CREATE with nothing but its placement would make it. -/
def Context.plain (pasid slot : Nat) : Context where
  pasid := pasid
  ptroot := 0
  shape := 0xF80
  place := [⟨BitVec.ofNat 8 (128 + slot), 2, 0xE4E4, 0, 0⟩]
  sdtbase := 0
  mxfmt := 0
  tsbase := 0
  winbase := 0
  qbase := 0
  budget := 0
  live := 0
  grant := 0
  vpbase := 0
  vpsize := 0
  xvec := 0
  xdump := 0
  rights := 0
  vf := 0
  saveBase := 0
  saveSize := 0
  gen := 1
  qdue := 0
  begun := true

/-- A launch of one block of one group with every register row and 64 KiB of vault. -/
def LaunchRec.plain : LaunchRec := { LaunchRec.zero with regs := 128, vault := 0x10000, lbars := 1 }

/-- One group of such a launch stands ready on core 0; nothing else changes. -/
def State.withGroup (s : State) : State :=
  let p := 1
  let k := s.nextKey
  let l := Launch.of k p 0 LaunchRec.plain [] 0 none none
  let b : Block :=
    { key := k + 1, launch := k, pasid := p, lin := 0, bx := 0, byy := 0, bz := 0, ngroups := 1, home := 0, spread := false, res := .running
      vault := { Alloc.empty with size := 0x10000 }, issued := 0, wide := false, children := 0, share := none, bcells := [], xcells := [], view := 0
      worldIdx := 0, why := 0 }
  { s with
    nextKey := k + 2
    ctxs := s.ctxs ++ [Context.plain p s.slot]
    launches := s.launches ++ [{ l with nextBlk := 1 }]
    blocks := s.blocks ++ [b]
    cur := Group.start (k + 1) 0 0 128 0x1000 0 0 s.nextAge
    others := s.groups }

/-- The bytes of a word stand at a PC in a core's instruction cache. -/
def State.putCode (s : State) (core pasid : Nat) (pc : BitVec 57) (w : DWord) : State :=
  { s with icache := ((leBytes 8 w).zipIdx).map (fun p => ⟨core, pasid, pc.toNat + p.2, p.1⟩) ++
      s.icache.filter fun b => !(b.core == core && b.pasid == pasid && decide (pc.toNat ≤ b.va) && decide (b.va < pc.toNat + 8)) }

end Sys2Proof.Machine
end

