-- ==== Sys2Proof/Machine/Step.lean ====
section
/-! DEFINITION. One step (log 1): the turn at the head of the agenda, or, where it is empty, the one that the default order gives. -/

namespace Sys2Proof.Machine

/-- One step of the package. -/
def step (s : State) : Host.Outcome State Fault Refusal :=
  let r := match s.agenda with
    | t :: ts => ({ s with agenda := ts } : State).take t
    | [] => ({ s with turn := s.turn + 1 } : State).take s.defaultTurn
  match r with
  | .next t => .next (State.settleStep s t)
  | .fault f => .fault f
  | .refused f => .refused f

/-- The state in which the next step fetches and runs the instruction whose bits are `w` (bits above `nbits` are zero): it stands at the PC of the
issuing group, which is the next to issue; where no group may issue, one is placed first (log 1). -/
def State.withFetchWord (s : State) (nbits w : Nat) : State :=
  let s := if s.mayIssue s.cur && s.cur.hold == .free then s else s.withGroup
  let pc := (s.cur.nextRun.map (·.pc)).getD 0
  { s.putCode (s.coreOfGroup s.cur) (s.pasidOf s.cur) pc (BitVec.ofNat 64 (w % 2 ^ nbits)) with
    agenda := .issue s.cur.block s.cur.gidx :: s.agenda }

end Sys2Proof.Machine
end

