-- ==== Sys2Proof/WellFormed.lean ====
section
/-! DEFINITION. The well-formed instructions: those whose fields R55, R56 and R65 step 1 allow, so that their word decodes to them. -/

namespace Sys2Proof

/-- The constructor of an MTX is that of its register number. -/
def Instr.mtxOk : Instr → Bool
  | .mtx f => candMtx f == .mtx f
  | .mtxXpc f => candMtx f == .mtxXpc f
  | .mtxVbudget f => candMtx f == .mtxVbudget f
  | .mtxVpsize f => candMtx f == .mtxVpsize f
  | .mtxVpbase f => candMtx f == .mtxVpbase f
  | _ => true

/-- The code of an instruction keeps R65 step 1. A 16-bit form has no field to check; an undefined word must be one that no
instruction defines, with nothing above its own length; an event has no word. -/
def Code.ok : Code → Bool
  | .two _ _ _ => true
  | .half _ => true
  | .word major f => wordOk32 major.toNat f
  | .dword major minor f => wordOk64 major.toNat minor.toNat f
  | .raw w => (defined w).isNone && ownBits w == w
  | .event => true

/-- A well-formed instruction. -/
def Instr.wf (i : Instr) : Bool := i.code.ok && i.mtxOk

end Sys2Proof
end

