-- ==== Sys2Proof/Safety.lean ====
section
/-! DEFINITION. The terms in which claims speak of a run: when the next instruction of a group completes, when it traps, what every issue
does beside the instruction's own effect, and what an instruction on registers alone leaves as it was. -/

namespace Sys2Proof.Machine

/-! ## An instruction at its issue -/

/-- What an instruction sees as it issues by a run: the results that are due have landed (R58), and the guard has chosen the enabled lanes
(R36). -/
def State.issuing (s : State) (h : Hdr) (r : Run) : Cx :=
  let t := s.issueCycle h.dist
  let c : Cx := ⟨{ s with cur := (s.cur.clearYields).land s t }, r, t, 0⟩
  { c with en := enabledLanes c h }

/-- The state after what every instruction does: the run's PCs go on, the hold run and its time too, and the counter is claimed (R60, R61,
R332). -/
def Cx.onward (c : Cx) (h : Hdr) : State :=
  { c.s with cur := ({ (c.g.advance c.run h.len) with
      last := some c.t, lastPc := c.run.pc, lastRun := c.run.mask, run := c.g.run.after h } : Group).claim h.cnt }

/-- The group may issue, by this run, and no deferred fault is due at the instruction (R131, R331). -/
def State.tries (s : State) (h : Hdr) (p : Plan) (r : Run) : Bool :=
  s.cur.hold == .free && s.cur.nextRun == some r && ((s.issuing h r).g.dueDeferred p).isNone

/-- Steps 1 and 2 of R65 find nothing: the word is defined and its group may run it (R372, R384). -/
def Cx.lawful (c : Cx) (h : Hdr) (p : Plan) : Bool := !p.bad && (!c.g.front || h.front) && (!p.secret || c.g.priv)

/-- Steps 3 and 4 of R65 find nothing, and neither the guard nor a source is poisoned (R62, R462). -/
def Cx.operandsGood (c : Cx) (h : Hdr) (p : Plan) : Bool :=
  p.ops c && (c.badLatch p.uses).isNone && (poisoned c.g [RegRef.prd h.pred]).isNone

/-- The instruction completes: it passes every check of R65, a lane is enabled, it has no fault of its own, nothing stalls it (R60, R191, R378, R423), and no
shadow differs at it (R464). -/
def State.clears (s : State) (h : Hdr) (p : Plan) (r : Run) : Bool :=
  let c := s.issuing h r
  s.tries h p r && c.lawful h p && c.operandsGood h p && c.en != 0 &&
    (poisoned c.g (p.uses.flatMap Use.refs ++ p.also)).isNone && !p.reading c && (p.own c).isNone && !p.held h c && (p.strays c).isNone

/-- Wherever it passes its checks, the instruction of header `h` answers the state that `p` makes of the one in which every instruction has had
its share. -/
def Completes (i : Instr) (h : Hdr) (p : Plan) : Prop :=
  ∀ (s : State) (r : Run), s.clears h p r = true →
    exec i s = .next ((p.eff (s.issuing h r) ((s.issuing h r).onward h)).account (s.issueCycle h.dist))

/-- It takes a trap on the run that issues, at its cycle. -/
def TrapsAt (i : Instr) (h : Hdr) (s : State) (r : Run) (tr : Trap) : Prop :=
  exec i s = .next ((s.issuing h r).s.takeTrap tr r (s.issueCycle h.dist))

/-! ## Results -/

/-- An instruction with one result a lane, in a vector register or an even pair: `val` gives the value and the flags of each enabled lane
(R54, R58, R214). -/
def lanePlan (h : Hdr) (pair : Bool) (dst : BitVec 8) (uses : List Use) (val : Cx → Nat → DWord × BitVec 5) : Plan :=
  { ops := fun c => c.vecOk pair dst && uses.all fun u => c.srcOk u.2 u.1
    uses := uses
    eff := fun c s =>
      let r : Lanes (DWord × BitVec 5) := Lanes.ofFn fun i => if lane c.en i then val c i else (0, 0)
      c.finish h [.vec dst.toNat pair c.en (r.map (·.1))] (flagsOf c.en fun i => (r.get i).2) s }

/-- An instruction that compares in each lane, into the lane bits of a predicate (R218). -/
def testPlan (h : Hdr) (dst : BitVec 8) (uses : List Use) (val : Cx → Nat → Bool × BitVec 5) : Plan :=
  { ops := fun c => predOk dst && uses.all fun u => c.srcOk u.2 u.1
    uses := uses
    eff := fun c s =>
      let r : Lanes (Bool × BitVec 5) := Lanes.ofFn fun i => if lane c.en i then val c i else (false, 0)
      c.finish h [.prd dst.toNat c.en (maskOf fun i => (r.get i).1)] (flagsOf c.en fun i => (r.get i).2) s }

/-- An instruction with one scalar result (R214, R241). -/
def scalarPlan (h : Hdr) (dst : BitVec 8) (uses : List (BitVec 8)) (val : Cx → DWord) : Plan :=
  { ops := fun _ => sregOk dst && uses.all ssrcOk
    uses := uses.map fun u => (u, true)
    eff := fun c s => c.finish h [.sca (dst.toNat - 0x80) (val c)] 0 s }

/-- Lane `i` of a source. -/
def Cx.at (c : Cx) (u : Use) (i : Nat) : DWord := (c.src u.2 u.1).get i

/-- A lane instruction of a number of sources, whose operation takes one lane of each in order. -/
def Completes1 (i : Instr) (h : Hdr) (pair : Bool) (dst : BitVec 8) (a : Use) (f : DWord → DWord × BitVec 5) : Prop :=
  Completes i h (lanePlan h pair dst [a] fun c k => f (c.at a k))
def Completes2 (i : Instr) (h : Hdr) (pair : Bool) (dst : BitVec 8) (a b : Use) (f : DWord → DWord → DWord × BitVec 5) : Prop :=
  Completes i h (lanePlan h pair dst [a, b] fun c k => f (c.at a k) (c.at b k))
def Completes3 (i : Instr) (h : Hdr) (pair : Bool) (dst : BitVec 8) (a b d : Use)
    (f : DWord → DWord → DWord → DWord × BitVec 5) : Prop :=
  Completes i h (lanePlan h pair dst [a, b, d] fun c k => f (c.at a k) (c.at b k) (c.at d k))

/-! ## Frames -/

/-- The groups of 64-bit majors that work on registers alone: lanes, predicates, scalars and walkers (R67), without PLPACK and PLUNPACK. -/
def registerMajor (major minor : Nat) : Bool := decide (major ≤ 0x0D) && !(major == 0x07 && decide (5 ≤ minor))

end Sys2Proof.Machine

namespace Sys2Proof

/-- Instructions that work on registers alone. -/
def Instr.onRegisters (i : Instr) : Bool :=
  match i.code with
  | .two _ _ _ => true
  | .word _ _ => true
  | .dword major minor _ => Machine.registerMajor major.toNat minor.toNat
  | _ => false

/-- DIST of an instruction; the 16-bit forms have distance 0 (R47, R48, R50). -/
def Instr.dist (i : Instr) : Nat :=
  match i.code with
  | .word _ f => f.dist.toNat
  | .dword _ _ f => f.dist.toNat
  | _ => 0

end Sys2Proof

namespace Sys2Proof.Machine

/-- A block with its accounts of issues set aside (R395, R396). -/
def Block.still (b : Block) : Block :=
  { b with issued := 0, res := match b.res with | .draining _ k => .draining 0 k | r => r }

/-- A launch with its charge and its end set aside (R375, R386). -/
def Launch.still (l : Launch) : Launch := { l with owed := 0, torn := false }

/-- Between two states nothing has changed but the issuing group, the time, the model's own counters, the accounts of blocks and
launches, and operand-log entries that a delivered fault has freed (R131). -/
def State.sameElsewhere (s t : State) : Prop :=
  { t with
    cur := s.cur
    cycle := s.cycle
    free := s.free
    nextKey := s.nextKey
    olog := s.olog
    blocks := s.blocks
    launches := s.launches } = s ∧
    t.olog.Sublist s.olog ∧ t.blocks.map Block.still = s.blocks.map Block.still ∧ t.launches.map Launch.still = s.launches.map Launch.still

/-- Two groups hold the same registers: vectors, scalars, predicates, walkers and FPST. -/
def Group.sameRegisters (g h : Group) : Prop :=
  g.vregs = h.vregs ∧ g.sregs = h.sregs ∧ g.preds = h.preds ∧ g.walkers = h.walkers ∧ g.fpst = h.fpst

/-! ## Snapshots -/

/-- Where a colour is in use, none holds unpreserved a segment of a block off its cores, or, of what colours list by name, anything but a matrix
unit that is allocated (R446). -/
def State.snapshotsSound (s : State) : Prop :=
  (∀ c ∈ s.colours, c.st = .free) ∨
    (∀ b ∈ s.blocks, b.resident = false → b.vault.unpres0 = [] ∧ b.vault.unpres1 = []) ∧
      ∀ c ∈ s.colours, ∀ r ∈ c.unpres, ∃ cl u, r = .matrix cl u ∧ (s.matrixUnit cl u).isSome = true

end Sys2Proof.Machine
end

