-- ==== Sys2Proof/Certificates/Slice0/Obligations.lean ====
section
/-! DEFINITION. The statements about this model (OBLIGATIONS.json lists them). -/

open Sys2Proof Sys2Proof.Machine

/-! ## Completion of the lane instructions -/

/-- R42, R214: the 16-bit two-address forms. Each reads vd first and vs second, and writes vd; MOV reads vs alone. -/
def Obligations.TwoAddressForms : Prop :=
  ∀ vd vs : BitVec 5,
    let two (i : Instr) (op : BitVec 4) (f : DWord → DWord → DWord × BitVec 5) : Prop :=
      Completes2 i (hdrTwo op vd vs) false (vd.setWidth 8) (vd.setWidth 8, false) (vs.setWidth 8, false) f
    Completes1 (.mov16 vd vs) (hdrTwo 0 vd vs) false (vd.setWidth 8) (vs.setWidth 8, false) (fun y => (y, 0)) ∧
    two (.iadd16 vd vs) 1 (fun x y => (low32 (x + y), 0)) ∧
    two (.isub16 vd vs) 2 (fun x y => (low32 (x - y), 0)) ∧
    two (.imul16 vd vs) 3 (fun x y => (low32 (x * y), 0)) ∧
    two (.and16 vd vs) 4 (fun x y => (x &&& y, 0)) ∧
    two (.or16 vd vs) 5 (fun x y => (x ||| y, 0)) ∧
    two (.xor16 vd vs) 6 (fun x y => (x ^^^ y, 0)) ∧
    two (.shl16 vd vs) 7 (fun x y => (shlInt false x y, 0)) ∧
    two (.shr16 vd vs) 8 (fun x y => (shrInt false x y, 0)) ∧
    two (.sar16 vd vs) 9 (fun x y => (sarInt false x y, 0)) ∧
    two (.imin16 vd vs) 10 (fun x y => (minInt false false x y, 0)) ∧
    two (.imax16 vd vs) 11 (fun x y => (maxInt false false x y, 0)) ∧
    two (.faddF32_16 vd vs) 12 (fpAdd .fp32 ⟨.even, false⟩) ∧
    two (.fsubF32_16 vd vs) 13 (fpSub .fp32 ⟨.even, false⟩) ∧
    two (.fmulF32_16 vd vs) 14 (fpMul .fp32 ⟨.even, false⟩) ∧
    two (.fmaxF32_16 vd vs) 15 (fpMinMax .fp32 ⟨.even, false⟩ true)

/-- R66, R221: the 32-bit integer forms; IMAD accumulates into vd. -/
def Obligations.IntegerForms32 : Prop :=
  ∀ f : F32,
    let d := widen6 f.dst
    let a := (widen6 f.src1, false)
    let b := (widen6 f.src2, false)
    let one (i : Instr) (major : BitVec 6) (g : DWord → DWord) : Prop :=
      Completes1 i (hdr32 major f) false d a fun x => (g x, 0)
    let two (i : Instr) (major : BitVec 6) (g : DWord → DWord → DWord) : Prop :=
      Completes2 i (hdr32 major f) false d a b fun x y => (g x y, 0)
    two (.iadd32 f) 0x00 (addSat false f.mod false) ∧
    two (.isub32 f) 0x01 (subSat false f.mod false) ∧
    two (.imul32 f) 0x02 (fun x y => low32 (x * y)) ∧
    two (.imulh32 f) 0x03 (mulHigh false f.mod) ∧
    Completes3 (.imad32 f) (hdr32 0x04 f) false d a b (d, false) (fun x y z => (low32 (x * y + z), 0)) ∧
    two (.imin32 f) 0x05 (minInt false f.mod) ∧
    two (.imax32 f) 0x06 (maxInt false f.mod) ∧
    one (.iabs32 f) 0x07 (absInt false) ∧
    two (.and32 f) 0x08 (fun x y => x &&& y) ∧
    two (.or32 f) 0x09 (fun x y => x ||| y) ∧
    two (.xor32 f) 0x0A (fun x y => x ^^^ y) ∧
    two (.andn32 f) 0x0B (fun x y => x &&& ~~~y) ∧
    one (.not32 f) 0x0C (fun x => low32 (~~~x)) ∧
    two (.shl32 f) 0x0D (shlInt false) ∧
    two (.shr32 f) 0x0E (shrInt false) ∧
    two (.sar32 f) 0x0F (sarInt false) ∧
    two (.rotl32 f) 0x10 (rotlInt false) ∧
    one (.popc32 f) 0x11 (popcInt false) ∧
    one (.clz32 f) 0x12 (clzInt false) ∧
    one (.ctz32 f) 0x13 (ctzInt false) ∧
    one (.brev32 f) 0x14 (brevInt false) ∧
    two (.lea32 f) 0x15 (leaInt false false (if f.mod then 3 else 2)) ∧
    one (.mov32 f) 0x16 (fun x => x)

/-- R66, R221, R228: the 32-bit floating-point forms, rounding to nearest even; MOD flushes subnormals, or in the packed forms selects
FP16. FFMA accumulates into vd; FSCALE takes its exponent from SRC2 as an I32. -/
def Obligations.FloatForms32 : Prop :=
  ∀ f : F32,
    let d := widen6 f.dst
    let r : Rnd := ⟨.even, f.mod⟩
    let e : Fmt := if f.mod then .fp16 else .bf16
    let two (i : Instr) (major : BitVec 6) (w : Bool) (g : DWord → DWord → DWord × BitVec 5) : Prop :=
      Completes2 i (hdr32 major f) w d (widen6 f.src1, w) (widen6 f.src2, w) g
    let acc (i : Instr) (major : BitVec 6) (w : Bool) (g : DWord → DWord → DWord → DWord × BitVec 5) : Prop :=
      Completes3 i (hdr32 major f) w d (widen6 f.src1, w) (widen6 f.src2, w) (d, w) g
    two (.faddF32_32 f) 0x18 false (fpAdd .fp32 r) ∧
    two (.fsubF32_32 f) 0x19 false (fpSub .fp32 r) ∧
    two (.fmulF32_32 f) 0x1A false (fpMul .fp32 r) ∧
    acc (.ffmaF32_32 f) 0x1B false (fpFma .fp32 r) ∧
    two (.fminF32_32 f) 0x1C false (fpMinMax .fp32 r false) ∧
    two (.fmaxF32_32 f) 0x1D false (fpMinMax .fp32 r true) ∧
    two (.fscaleF32_32 f) 0x1E false (fun x y => fpScale .fp32 r x (y.setWidth 32).toInt) ∧
    two (.faddF64_32 f) 0x20 true (fpAdd .fp64 r) ∧
    two (.fsubF64_32 f) 0x21 true (fpSub .fp64 r) ∧
    two (.fmulF64_32 f) 0x22 true (fpMul .fp64 r) ∧
    acc (.ffmaF64_32 f) 0x23 true (fpFma .fp64 r) ∧
    two (.fminF64_32 f) 0x24 true (fpMinMax .fp64 r false) ∧
    two (.fmaxF64_32 f) 0x25 true (fpMinMax .fp64 r true) ∧
    two (.faddX2_32 f) 0x28 false (packed2 (fpAdd e ⟨.even, false⟩)) ∧
    two (.fsubX2_32 f) 0x29 false (packed2 (fpSub e ⟨.even, false⟩)) ∧
    two (.fmulX2_32 f) 0x2A false (packed2 (fpMul e ⟨.even, false⟩)) ∧
    acc (.ffmaX2_32 f) 0x2B false (packed3 (fpFma e ⟨.even, false⟩)) ∧
    two (.fminX2_32 f) 0x2C false (packed2 (fpMinMax e ⟨.even, false⟩ false)) ∧
    two (.fmaxX2_32 f) 0x2D false (packed2 (fpMinMax e ⟨.even, false⟩ true))

/-- R217: 64-bit forms of majors 0x00 and 0x01, arithmetic and logic. -/
def Obligations.IntegerArithmetic : Prop :=
  ∀ (w : Bool) (f : F64),
    let h (min : BitVec 6) : Hdr := hdr64 (if w then 0x01 else 0x00) min f
    let one (i : Instr) (min : BitVec 6) (g : DWord → DWord) : Prop := Completes1 i (h min) w f.dst (f.s1, w) fun x => (g x, 0)
    let two (i : Instr) (min : BitVec 6) (g : DWord → DWord → DWord) : Prop :=
      Completes2 i (h min) w f.dst (f.s1, w) (f.s2, w) fun x y => (g x y, 0)
    two (.iadd w f) 0x00 (addSat w (f.modBit 0) (f.modBit 1)) ∧
    two (.isub w f) 0x01 (subSat w (f.modBit 0) (f.modBit 1)) ∧
    two (.imul w f) 0x02 (fun x y => narrow w (x * y)) ∧
    two (.imulh w f) 0x03 (mulHigh w (f.modBit 0)) ∧
    Completes3 (.imad w f) (h 0x04) w f.dst (f.s1, w) (f.s2, w) (f.s3, w) (fun x y z => (narrow w (x * y + z), 0)) ∧
    two (.idiv w f) 0x05 (divInt w (f.modBit 0)) ∧
    two (.irem w f) 0x06 (remInt w (f.modBit 0)) ∧
    two (.imin w f) 0x07 (minInt w (f.modBit 0)) ∧
    two (.imax w f) 0x08 (maxInt w (f.modBit 0)) ∧
    one (.iabs w f) 0x09 (absInt w) ∧
    two (.and w f) 0x0A (fun x y => x &&& y) ∧
    two (.or w f) 0x0B (fun x y => x ||| y) ∧
    two (.xor w f) 0x0C (fun x y => x ^^^ y) ∧
    two (.andn w f) 0x0D (fun x y => x &&& ~~~y) ∧
    one (.not w f) 0x0E (fun x => narrow w (~~~x)) ∧
    one (.mov w f) 0x1C (fun x => x)

/-- R217, R218, R219: 64-bit forms of majors 0x00 and 0x01, on bits. Counts, field controls and indices are 32-bit sources; ICMP writes
lane bits of a predicate, and SEL chooses by one. -/
def Obligations.IntegerBits : Prop :=
  ∀ (w : Bool) (f : F64),
    let h (min : BitVec 6) : Hdr := hdr64 (if w then 0x01 else 0x00) min f
    let one (i : Instr) (min : BitVec 6) (g : DWord → DWord) : Prop := Completes1 i (h min) w f.dst (f.s1, w) fun x => (g x, 0)
    let count (i : Instr) (min : BitVec 6) (g : DWord → DWord → DWord) : Prop :=
      Completes2 i (h min) w f.dst (f.s1, w) (f.s2, false) fun x y => (g x y, 0)
    count (.shl w f) 0x0F (shlInt w) ∧
    count (.shr w f) 0x10 (shrInt w) ∧
    count (.sar w f) 0x11 (sarInt w) ∧
    count (.rotl w f) 0x12 (rotlInt w) ∧
    count (.bfx w f) 0x13 (bfxInt w (f.modBit 0)) ∧
    Completes3 (.bfi w f) (h 0x14) w f.dst (f.s1, w) (f.s2, w) (f.s3, false) (fun x y z => (bfiInt w x y z, 0)) ∧
    one (.popc w f) 0x15 (popcInt w) ∧
    one (.clz w f) 0x16 (clzInt w) ∧
    one (.ctz w f) 0x17 (ctzInt w) ∧
    one (.brev w f) 0x18 (brevInt w) ∧
    count (.lea w f) 0x19 (leaInt w (f.modBit 3) (f.mod.extractLsb' 0 3).toNat) ∧
    Completes (.icmp w f) (h 0x1A) (testPlan (h 0x1A) f.dst [(f.s1, w), (f.s2, w)] fun c k =>
      (intCond w f.mod.toNat (c.at (f.s1, w) k) (c.at (f.s2, w) k), 0)) ∧
    Completes (.sel w f) (h 0x1B)
      { ops := fun c => c.vecOk w f.dst && c.srcOk w f.s1 && c.srcOk w f.s2 && predOk f.s3
        uses := [(f.s1, w), (f.s2, w)]
        also := [.prd f.s3.toNat]
        eff := fun c s => c.finish (h 0x1B) [.vec f.dst.toNat w c.en (Lanes.ofFn fun k =>
          if lane (c.preg f.s3.toNat) k then c.at (f.s1, w) k else c.at (f.s2, w) k)] 0 s }

/-- R217 to R220: the immediate forms of majors 0x02 and 0x03. The sign-extended immediate stands for S2; BFI inserts S1 into the old
vD. -/
def Obligations.ImmediateForms : Prop :=
  ∀ f : F64,
    let m : DWord := (f.imm16.signExtend 32).setWidth 64
    let imm (i : Instr) (min : BitVec 6) (g : DWord → DWord → DWord) : Prop :=
      Completes1 i (hdr64 0x02 min f) false f.dst (f.s1, false) fun x => (g x m, 0)
    imm (.iaddImm f) 0x00 (addSat false (f.modBit 0) (f.modBit 1)) ∧
    imm (.imulImm f) 0x02 (fun x y => low32 (x * y)) ∧
    imm (.iminImm f) 0x07 (minInt false (f.modBit 0)) ∧
    imm (.imaxImm f) 0x08 (maxInt false (f.modBit 0)) ∧
    imm (.andImm f) 0x0A (fun x y => x &&& y) ∧
    imm (.orImm f) 0x0B (fun x y => x ||| y) ∧
    imm (.xorImm f) 0x0C (fun x y => x ^^^ y) ∧
    imm (.shlImm f) 0x0F (shlInt false) ∧
    imm (.shrImm f) 0x10 (shrInt false) ∧
    imm (.sarImm f) 0x11 (sarInt false) ∧
    imm (.rotlImm f) 0x12 (rotlInt false) ∧
    imm (.bfxImm f) 0x13 (bfxInt false (f.modBit 0)) ∧
    Completes2 (.bfiImm f) (hdr64 0x02 0x14 f) false f.dst (f.dst, false) (f.s1, false) (fun x y => (bfiInt false x y m, 0)) ∧
    Completes (.icmpImm f) (hdr64 0x02 0x1A f) (testPlan (hdr64 0x02 0x1A f) f.dst [(f.s1, false)] fun c k =>
      (intCond false f.mod.toNat (c.at (f.s1, false) k) m, 0)) ∧
    Completes (.movi f) (hdr64 0x03 0x00 f) (lanePlan (hdr64 0x03 0x00 f) false f.dst [] fun _ _ =>
      ((f.imm24.signExtend 32).setWidth 64, 0)) ∧
    Completes1 (.moviHi f) (hdr64 0x03 0x01 f) false f.dst (f.dst, false) (fun x => ((x &&& 0xFF) ||| (f.imm24.setWidth 64 <<< 8), 0))

/-- R222 to R225, R228: floating-point arithmetic and comparison, and the packed forms, which act on each element on its own. -/
def Obligations.FloatArithmetic : Prop :=
  ∀ (w : Bool) (f : F64),
    let h (min : BitVec 6) : Hdr := hdr64 (if w then 0x05 else 0x04) min f
    let t : Fmt := if w then .fp64 else .fp32
    let r : Rnd := ⟨Round.ofCode f.modLow, f.modBit 2⟩
    let e : Fmt := if f.modBit 3 then .fp16 else .bf16
    let n : Rnd := ⟨.even, false⟩
    let two (i : Instr) (min : BitVec 6) (g : DWord → DWord → DWord × BitVec 5) : Prop :=
      Completes2 i (h min) w f.dst (f.s1, w) (f.s2, w) g
    let x2 (i : Instr) (min : BitVec 6) (g : DWord → DWord → DWord × BitVec 5) : Prop :=
      Completes2 i (hdr64 0x06 min f) false f.dst (f.s1, false) (f.s2, false) (packed2 g)
    two (.fadd w f) 0x00 (fpAdd t r) ∧
    two (.fsub w f) 0x01 (fpSub t r) ∧
    two (.fmul w f) 0x02 (fpMul t r) ∧
    Completes3 (.ffma w f) (h 0x03) w f.dst (f.s1, w) (f.s2, w) (f.s3, w) (fpFma t r) ∧
    two (.fmin w f) 0x04 (fpMinMax t r false) ∧
    two (.fmax w f) 0x05 (fpMinMax t r true) ∧
    Completes (.fcmp w f) (h 0x06) (testPlan (h 0x06) f.dst [(f.s1, w), (f.s2, w)] fun c k =>
      fpTest t (f.modBit 3) (f.mod.extractLsb' 0 3).toNat (c.at (f.s1, w) k) (c.at (f.s2, w) k)) ∧
    Completes1 (.fclass w f) (h 0x07) false f.dst (f.s1, w) (fun x => (fpClass t x, 0)) ∧
    x2 (.faddX2 f) 0x00 (fpAdd e n) ∧
    x2 (.fsubX2 f) 0x01 (fpSub e n) ∧
    x2 (.fmulX2 f) 0x02 (fpMul e n) ∧
    Completes3 (.ffmaX2 f) (hdr64 0x06 0x03 f) false f.dst (f.s1, false) (f.s2, false) (f.s3, false) (packed3 (fpFma e n)) ∧
    x2 (.fminX2 f) 0x04 (fpMinMax e n false) ∧
    x2 (.fmaxX2 f) 0x05 (fpMinMax e n true) ∧
    x2 (.fcmpX2 f) 0x06 (fun x y =>
      (if (fpTest e false (f.mod.extractLsb' 0 3).toNat x y).1 then 0xFFFF else 0, (fpTest e false (f.mod.extractLsb' 0 3).toNat x y).2))

/-- R223, R226, R227: division, roots, the special functions, rounding and scaling. -/
def Obligations.FloatFunctions : Prop :=
  ∀ (w : Bool) (f : F64),
    let h (min : BitVec 6) : Hdr := hdr64 (if w then 0x05 else 0x04) min f
    let t : Fmt := if w then .fp64 else .fp32
    let r : Rnd := ⟨Round.ofCode f.modLow, f.modBit 2⟩
    let one (i : Instr) (min : BitVec 6) (g : DWord → DWord × BitVec 5) : Prop := Completes1 i (h min) w f.dst (f.s1, w) g
    one (.frcp w f) 0x08 (fpRcp w r) ∧
    one (.frsq w f) 0x09 (fpRsq w r) ∧
    one (.fsqrt w f) 0x0A (fpSqrt t r) ∧
    Completes2 (.fdiv w f) (h 0x0B) w f.dst (f.s1, w) (f.s2, w) (fpDiv t r) ∧
    one (.fexp2 w f) 0x0C (fpExp2 w r) ∧
    one (.flog2 w f) 0x0D (fpLog2 w r) ∧
    one (.fsin w f) 0x0E (fpTrig false w r) ∧
    one (.fcos w f) 0x0F (fpTrig true w r) ∧
    one (.frnd w f) 0x10 (fpRound t r) ∧
    Completes2 (.fscale w f) (h 0x11) w f.dst (f.s1, w) (f.s2, false) (fun x y => fpScale t r x (y.setWidth 32).toInt) ∧
    one (.fgetexp w f) 0x12 (fpGetExp t r)

/-- R229 to R232: conversion, packing, the largest magnitude of a group and quantisation. -/
def Obligations.Conversions : Prop :=
  ∀ f : F64,
    let h (min : BitVec 6) : Hdr := hdr64 0x07 min f
    let q : Fmt := if f.modBit 3 then Fmt.fe5m2 else Fmt.fe4m3
    let round := Round.ofCode f.modLow
    Completes1 (.cvt f) (h 0x00) (typeBits f.type == 64) f.dst (f.s1, typeBits f.type2 == 64)
      (cvtValue f.type f.type2 round (f.modBit 2)) ∧
    Completes3 (.pack f) (h 0x01) false f.dst (f.dst, false) (f.s1, false) (f.s2, false)
      (fun old x y => (packField f.modLow.toNat f.modHigh.toNat old x y, 0)) ∧
    Completes1 (.unpack f) (h 0x02) false f.dst (f.s1, false)
      (fun x => (unpackElem f.modLow.toNat (f.imm16.extractLsb' 0 3).toNat (f.imm16.getLsbD 3) x, 0)) ∧
    Completes (.amax f) (h 0x03)
      { ops := fun c => sregOk f.dst && c.srcOk false f.s1
        uses := [(f.s1, false)]
        eff := fun c s => c.finish (h 0x03) [.sca (f.dst.toNat - 0x80)
          (amaxOf f.type ((lanesOf c.en).flatMap fun k => laneElems f.type (c.at (f.s1, false) k)))] 0 s } ∧
    Completes (.quant f) (h 0x04)
      { lanePlan (h 0x04) false f.dst [(f.s1, false), (f.s2, false), (f.s3, false)] (fun c k =>
          let a := quantOne q round (f.modBit 2) (c.at (f.s1, false) k) (c.at (f.s3, false) k)
          let b := quantOne q round (f.modBit 2) (c.at (f.s2, false) k) (c.at (f.s3, false) k)
          (a.1 ||| (b.1 <<< 8), a.2 ||| b.2)) with
        ops := fun c => c.vecOk false f.dst && c.srcOk false f.s1 && c.srcOk false f.s2 && (c.vecOk false f.s3 || sregOk f.s3) }

/-- R235 to R239: exchange between the enabled lanes of a group. -/
def Obligations.LaneExchange : Prop :=
  ∀ f : F64,
    let h (min : BitVec 6) : Hdr := hdr64 0x08 min f
    let w := f.modBit 2
    let w64 := typeBits f.type == 64
    let op := (f.mod.extractLsb' 0 3).toNat
    Completes (.shfl f) (h 0x00) (lanePlan (h 0x00) w f.dst [(f.s1, w), (f.s2, false)] fun c k =>
      match shflLane f.modLow.toNat k (c.at (f.s2, false) k).toNat with
      | some j => (if j < 64 && lane c.en j then c.at (f.s1, w) j else c.at (f.s1, w) k, 0)
      | none => (c.at (f.s1, w) k, 0)) ∧
    (f.modLow = 0 → Completes (.vote f) (h 0x01)
      { ops := fun _ => predOk f.dst && predOk f.s1
        also := [.prd f.s1.toNat]
        eff := fun c s => c.finish (h 0x01) [.prd f.dst.toNat c.en (if c.preg f.s1.toNat &&& c.en != 0 then allOnes else 0)] 0 s }) ∧
    (f.modLow = 1 → Completes (.vote f) (h 0x01)
      { ops := fun _ => predOk f.dst && predOk f.s1
        also := [.prd f.s1.toNat]
        eff := fun c s => c.finish (h 0x01) [.prd f.dst.toNat c.en (if c.preg f.s1.toNat &&& c.en == c.en then allOnes else 0)] 0 s }) ∧
    (f.modLow = 2 → Completes (.vote f) (h 0x01)
      { ops := fun _ => sregOk f.dst && predOk f.s1
        also := [.prd f.s1.toNat]
        eff := fun c s => c.finish (h 0x01) [.sca (f.dst.toNat - 0x80) (c.preg f.s1.toNat &&& c.en)] 0 s }) ∧
    (f.modLow = 3 → Completes (.vote f) (h 0x01)
      { ops := fun c => predOk f.dst && c.srcOk w f.s1
        uses := [(f.s1, w)]
        eff := fun c s => c.finish (h 0x01) [.prd f.dst.toNat c.en
          (if (match (lanesOf c.en).map (c.at (f.s1, w)) with | [] => true | x :: xs => xs.all (· == x)) then allOnes else 0)] 0 s }) ∧
    Completes (.redux f) (h 0x02)
      { ops := fun c => sregOk f.dst && c.srcOk w64 f.s1
        uses := [(f.s1, w64)]
        eff := fun c s =>
          let r := reduceOf f.type op ((lanesOf c.en).map (c.at (f.s1, w64)))
          c.finish (h 0x02) [.sca (f.dst.toNat - 0x80) (if f.type = 4 then (r.1.setWidth 32).signExtend 64 else r.1)] r.2 s } ∧
    Completes (.scan f) (h 0x03) (lanePlan (h 0x03) w64 f.dst [(f.s1, w64)] fun c k =>
      let js := (lanesOf c.en).filter fun j => if f.modBit 3 then j < k else j ≤ k
      if js.isEmpty then (identityOf f.type op, 0) else reduceOf f.type op (js.map (c.at (f.s1, w64)))) ∧
    Completes (.matchLanes f) (h 0x04) (lanePlan (h 0x04) true f.dst [(f.s1, w)] fun c k =>
      (maskOf fun j => lane c.en j && c.at (f.s1, w) j == c.at (f.s1, w) k, 0))

/-! ## Completion of predicate, scalar and walker instructions -/

/-- R240, R356: predicates by lane; PMOV to or from a scalar register once for the group; ELECT all 64 bits. -/
def Obligations.PredicateForms : Prop :=
  ∀ f : F64,
    let h (min : BitVec 6) : Hdr := hdr64 0x09 min f
    let a := f.s1.toNat
    let b := f.s2.toNat
    let one (i : Instr) (min : BitVec 6) (g : DWord → DWord) : Prop := Completes i (h min)
      { ops := fun _ => predOk f.dst && predOk f.s1
        also := [.prd a]
        eff := fun c s => c.finish (h min) [.prd f.dst.toNat c.en (g (c.preg a))] 0 s }
    let two (i : Instr) (min : BitVec 6) (g : DWord → DWord → DWord) : Prop := Completes i (h min)
      { ops := fun _ => predOk f.dst && predOk f.s1 && predOk f.s2
        also := [.prd a, .prd b]
        eff := fun c s => c.finish (h min) [.prd f.dst.toNat c.en (g (c.preg a) (c.preg b))] 0 s }
    two (.pand f) 0x00 (fun x y => x &&& y) ∧
    two (.por f) 0x01 (fun x y => x ||| y) ∧
    two (.pxor f) 0x02 (fun x y => x ^^^ y) ∧
    one (.pnot f) 0x03 (fun x => ~~~x) ∧
    (f.modLow = 0 → one (.pmov f) 0x04 (fun x => x)) ∧
    (f.modLow = 1 → Completes (.pmov f) (h 0x04)
      { ops := fun _ => predOk f.dst && sregOk f.s1
        uses := [(f.s1, true)]
        eff := fun c s => c.finish (h 0x04) [.prd f.dst.toNat allOnes (c.ssrc f.s1)] 0 s }) ∧
    (f.modLow = 2 → Completes (.pmov f) (h 0x04)
      { ops := fun _ => sregOk f.dst && predOk f.s1
        also := [.prd a]
        eff := fun c s => c.finish (h 0x04) [.sca (f.dst.toNat - 0x80) (c.preg a)] 0 s }) ∧
    Completes (.elect f) (hdr64 0x19 0x02 f)
      { ops := fun _ => predOk f.dst
        eff := fun c s => c.finish (hdr64 0x19 0x02 f) [.prd f.dst.toNat allOnes
          (1#64 <<< (if f.modBit 0 then ((lanesOf c.en).getLast?).getD 0 else ((lanesOf c.en).head?).getD 0))] 0 s }

/-- R241: the scalar instructions of major 0x0A, BCAST and RDLANE among them. -/
def Obligations.ScalarForms : Prop :=
  ∀ f : F64,
    let h (min : BitVec 6) : Hdr := hdr64 0x0A min f
    let w := f.modBit 2
    let two (i : Instr) (min : BitVec 6) (g : DWord → DWord → DWord) : Prop :=
      Completes i (h min) (scalarPlan (h min) f.dst [f.s1, f.s2] fun c => g (c.ssrc f.s1) (c.ssrc f.s2))
    two (.sadd f) 0x00 (fun x y => x + y) ∧
    two (.ssub f) 0x01 (fun x y => x - y) ∧
    two (.smul f) 0x02 (fun x y => x * y) ∧
    two (.sand f) 0x03 (fun x y => x &&& y) ∧
    two (.sor f) 0x04 (fun x y => x ||| y) ∧
    two (.sxor f) 0x05 (fun x y => x ^^^ y) ∧
    two (.sshl f) 0x06 shl64 ∧
    two (.sshr f) 0x07 (shr64 (f.modBit 0)) ∧
    Completes (.scmp f) (h 0x08)
      { ops := fun _ => predOk f.dst && [f.s1, f.s2].all ssrcOk
        uses := [(f.s1, true), (f.s2, true)]
        eff := fun c s => c.finish (h 0x08) [.prd f.dst.toNat allOnes
          (if intCond true f.mod.toNat (c.ssrc f.s1) (c.ssrc f.s2) then allOnes else 0)] 0 s } ∧
    Completes (.ssel f) (h 0x09)
      { ops := fun _ => sregOk f.dst && ssrcOk f.s1 && ssrcOk f.s2 && predOk f.s3
        uses := [(f.s1, true), (f.s2, true)]
        also := [.prd f.s3.toNat]
        eff := fun c s => c.finish (h 0x09) [.sca (f.dst.toNat - 0x80)
          (if c.preg f.s3.toNat &&& c.en != 0 then c.ssrc f.s1 else c.ssrc f.s2)] 0 s } ∧
    Completes (.smov f) (h 0x0A) (scalarPlan (h 0x0A) f.dst [f.s1] fun c => c.ssrc f.s1) ∧
    Completes (.bcast f) (h 0x0B)
      { ops := fun c => c.vecOk w f.dst && c.vecOk w f.s1 && ssrcOk f.s2
        uses := [(f.s1, w), (f.s2, true)]
        eff := fun c s => c.finish (h 0x0B) [.vec f.dst.toNat w c.en (Lanes.const (c.at (f.s1, w) ((c.ssrc f.s2).toNat % 64)))] 0 s } ∧
    Completes (.rdlane f) (h 0x0C)
      { ops := fun c => sregOk f.dst && c.vecOk w f.s1 && ssrcOk f.s2
        uses := [(f.s1, w), (f.s2, true)]
        eff := fun c s => c.finish (h 0x0C) [.sca (f.dst.toNat - 0x80) (c.at (f.s1, w) ((c.ssrc f.s2).toNat % 64))] 0 s }

/-- R241, R242: the scalar instructions with immediates, majors 0x0B and 0x0C. -/
def Obligations.ScalarImmediates : Prop :=
  ∀ f : F64,
    let h (min : BitVec 6) : Hdr := hdr64 0x0B min f
    let m : DWord := f.imm16.signExtend 64
    let imm (i : Instr) (min : BitVec 6) (g : DWord → DWord → DWord) : Prop :=
      Completes i (h min) (scalarPlan (h min) f.dst [f.s1] fun c => g (c.ssrc f.s1) m)
    imm (.saddImm f) 0x00 (fun x y => x + y) ∧
    imm (.ssubImm f) 0x01 (fun x y => x - y) ∧
    imm (.smulImm f) 0x02 (fun x y => x * y) ∧
    imm (.sandImm f) 0x03 (fun x y => x &&& y) ∧
    imm (.sorImm f) 0x04 (fun x y => x ||| y) ∧
    imm (.sxorImm f) 0x05 (fun x y => x ^^^ y) ∧
    imm (.sshlImm f) 0x06 shl64 ∧
    imm (.sshrImm f) 0x07 (shr64 (f.modBit 0)) ∧
    Completes (.scmpImm f) (h 0x08)
      { ops := fun _ => predOk f.dst && [f.s1].all ssrcOk
        uses := [(f.s1, true)]
        eff := fun c s => c.finish (h 0x08) [.prd f.dst.toNat allOnes
          (if intCond true f.mod.toNat (c.ssrc f.s1) m then allOnes else 0)] 0 s } ∧
    Completes (.smovi f) (hdr64 0x0C 0x00 f) (scalarPlan (hdr64 0x0C 0x00 f) f.dst [] fun _ => f.imm24.signExtend 64) ∧
    Completes (.smoviMid f) (hdr64 0x0C 0x01 f) (scalarPlan (hdr64 0x0C 0x01 f) f.dst [f.dst] fun c =>
      (c.ssrc f.dst &&& 0xFFFFFF) ||| (f.imm24.signExtend 64 <<< 24)) ∧
    Completes (.smoviTop f) (hdr64 0x0C 0x02 f) (scalarPlan (hdr64 0x0C 0x02 f) f.dst [f.dst] fun c =>
      (c.ssrc f.dst &&& 0xFFFFFFFFFFFF) ||| (f.imm24.setWidth 64 <<< 48))

/-- R243 to R246: a walker is bound, read and rewound. -/
def Obligations.WalkerForms : Prop :=
  ∀ f : F64,
    let h (min : BitVec 6) : Hdr := hdr64 0x0D min f
    Completes (.wset f) (h 0x00)
      { wsetPlan f with
        eff := fun c s =>
          let part (k : Nat) (hi : Bool) : Word :=
            if k ≤ f.modHigh.toNat then
              (if hi then (c.sreg (f.s2.toNat - 0x80 + k) >>> 32).setWidth 32 else (c.sreg (f.s2.toNat - 0x80 + k)).setWidth 32)
            else 0
          c.finish (h 0x00) [.wlk f.dst.toNat
            { bound := true, base := c.ssrc f.s1, esize := f.modLow, ndim := f.modHigh
              count := #v[part 0 false, part 1 false, part 2 false, part 3 false]
              stride := #v[part 0 true, part 1 true, part 2 true, part 3 true], idx := #v[0, 0, 0, 0], endf := 0 }] 0 s } ∧
    Completes (.wstat f) (h 0x01)
      { ops := fun _ => sregOk f.dst && walkerOk f.s1
        also := [.wlk f.s1.toNat]
        eff := fun c s =>
          let w := c.walker f.s1.toNat
          c.finish (h 0x01) [.sca (f.dst.toNat - 0x80)
            (if !w.bound then 0
             else match f.modLow.toNat with
              | 0 => w.status
              | 1 => w.addr
              | 2 => vget w.idx 1 0 ++ vget w.idx 0 0
              | _ => vget w.idx 3 0 ++ vget w.idx 2 0)] 0 s } ∧
    Completes (.wrew f) (h 0x02)
      { ops := fun _ => walkerOk f.dst
        also := [.wlk f.dst.toNat]
        eff := fun c s =>
          let w := c.walker f.dst.toNat
          c.finish (h 0x02) (if w.bound then [.wlk f.dst.toNat { w with idx := #v[0, 0, 0, 0], endf := 0 }] else []) 0 s }

/-! ## Completion of memory, fence and barrier instructions -/

/-- R186 to R189, R193: loads and stores go into flight as one access, one lane for each enabled lane, or once for SLD and SST. -/
def Obligations.LoadsAndStores : Prop :=
  ∀ f : F64,
    let h (min : BitVec 6) : Hdr := hdr64 0x10 min f
    let pair := typeSize f.type == 8
    let d := f.dst.toNat
    let form (kind : AccKind) (loc once pro : Bool) (q : Qual) (dst : Dst) (data : Cx → Nat → DWord) : MemForm :=
      { kind := kind, loc := loc, once := once, wlk := f.wlk, type := f.type, size := typeSize f.type
        ofs := f.s2.signExtend 64 * BitVec.ofNat 64 (typeSize f.type), ord := f.ord, pro := pro, scope := f.scope, qual := q
        dst := dst, pod := false, data := data, expect := fun _ _ => 0 }
    let load (i : Instr) (min : BitVec 6) (loc pro : Bool) (q : Qual) : Prop := Completes i (h min)
      (memAccessPlan (h min) f (form .load loc false pro q (.vec d pair) fun _ _ => 0) (fun c => c.vecOk pair f.dst) [] (vecRefs d pair) false)
    let store (i : Instr) (min : BitVec 6) (loc : Bool) (q : Qual) : Prop := Completes i (h min)
      (memAccessPlan (h min) f (form .store loc false false q .none fun c k => c.at (f.dst, pair) k)
        (fun c => c.vecOk pair f.dst || sregOk f.dst) [(f.dst, pair)] [] false)
    load (.ldg f) 0x00 false f.pro .plain ∧
    store (.stg f) 0x01 false .plain ∧
    load (.ldl f) 0x08 true false (if f.s3Top then (if f.pro then .fec else .fe) else .plain) ∧
    store (.stl f) 0x09 true (if f.s3Top then (if f.pro then .fee else .fef) else .plain) ∧
    Completes (.sld f) (h 0x10) (memAccessPlan (h 0x10) f (form .load false true f.pro .plain (.sca (d - 0x80)) fun _ _ => 0)
      (fun _ => sregOk f.dst) [] [.sca (d - 0x80)] false) ∧
    Completes (.sst f) (h 0x11) (memAccessPlan (h 0x11) f (form .store false true false .plain .none fun c _ => c.ssrc f.dst)
      (fun _ => sregOk f.dst) [(f.dst, true)] [] false)

/-- R196 to R201, R233: atomics and reductions, prefetches, and the plane accesses. -/
def Obligations.AtomicsAndPlanes : Prop :=
  ∀ f : F64,
    let h (min : BitVec 6) : Hdr := hdr64 0x10 min f
    let wide := f.s3Top
    let d := f.dst.toNat
    let atomic (i : Instr) (min : BitVec 6) (loc old : Bool) : Prop :=
      let cas := old && f.type == 9
      Completes i (h min) (memAccessPlan (h min) f
        { kind := .atom, loc := loc, once := false, wlk := false, type := f.type, size := if wide then 8 else 4, ofs := 0
          ord := f.ord, pro := f.pro, scope := f.scope, qual := .plain, dst := if old then .vec d wide else .none, pod := !loc
          data := fun c k => c.at (f.s2, wide) k
          expect := fun c k => if cas then c.at (f.dst, wide) k else 0 }
        (fun c => c.srcOk wide f.s2 && (!old || c.vecOk wide f.dst))
        ([(f.s2, wide)] ++ if cas then [(f.dst, wide)] else []) (if old then vecRefs d wide else []) f.wlk)
    atomic (.atomg f) 0x03 false true ∧
    atomic (.redg f) 0x04 false false ∧
    atomic (.atoml f) 0x0A true true ∧
    Completes (.pref f) (h 0x02) (prefPlan f) ∧
    Completes (.plpack f) (hdr64 0x07 0x05 f) (planeAccessPlan 0x05 f .store) ∧
    Completes (.plunpack f) (hdr64 0x07 0x06 f) (planeAccessPlan 0x06 f .load)

/-- R202, R203, R345, R350: a fence holds its group until its condition is met; BAR and BARA arrive at a barrier, and BAR's threads wait
there. -/
def Obligations.FencesAndBarriers : Prop :=
  ∀ f : F64,
    Completes (.fence f) (hdr64 0x10 0x18 f)
      { fencePlan f with
        eff := fun c s =>
          let scope := (c.scope f.scope).getD 0
          let s : State := if f.ord != 1 && 1 < scope then { s with cur := { s.cur with fenced := true } } else s
          ({ s with cur := { s.cur with hold := .fence f.ord scope f.pro none } } : State).tryFence s.cur.block s.cur.gidx } ∧
    Completes (.bar f) (hdr64 0x19 0x00 f) (barrierPlan 0x00 true f) ∧
    Completes (.bara f) (hdr64 0x19 0x01 f) (barrierPlan 0x01 false f)

/-! ## Completion of scope, vault, fabric, copy and matrix instructions -/

/-- R206 to R213: where a group is, which scope encloses two places, and what a scope costs; segments are mapped and unmapped, blocks join and
leave sharing groups, and full-empty bits change over a range. -/
def Obligations.ScopeAndVaultInstructions : Prop :=
  ∀ f : F64,
    let q (min : BitVec 6) : Hdr := hdr64 0x11 min f
    let h (min : BitVec 6) : Hdr := hdr64 0x12 min f
    let shape (c : Cx) : Word := ((c.s.ctxOf c.g).map (·.shape)).getD 0
    let query (i : Instr) (min : BitVec 6) (srcs : List (BitVec 8)) (val : Cx → DWord) : Prop := Completes i (q min)
      { ops := fun _ => sregOk f.dst && srcs.all sregOk
        uses := srcs.map fun u => (u, true)
        eff := fun c s => c.finish (q min) [.sca (f.dst.toNat - 0x80) (val c)] 0 s }
    query (.locid f) 0x00 [] (fun c => c.g.locid.setWidth 64) ∧
    query (.scopeof f) 0x01 [f.s1, f.s2] (fun c => BitVec.ofNat 64
      (if inShape (Shape.of (shape c)) (c.ssrc f.s1) && inShape (Shape.of (shape c)) (c.ssrc f.s2) then
        lowestScope ((c.ssrc f.s1).setWidth 32) ((c.ssrc f.s2).setWidth 32) else 7)) ∧
    query (.scopecost f) 0x02 [f.s1] (fun c => costWord (shape c) ((c.ssrc f.s1).toNat % 8) f.mod.toNat) ∧
    Completes (.vmap f) (h 0x00) (vmapPlan f) ∧
    Completes (.vunmap f) (h 0x01) (vunmapPlan f) ∧
    Completes (.sjoin f) (h 0x02)
      { sjoinPlan f with
        eff := fun c s => c.launch (h 0x02) (.sjoin ((c.ssrc f.s1).setWidth 32) (f.dst.toNat - 0x80)) [] [.sca (f.dst.toNat - 0x80)] 0
          (if f.modBit 3 then s.pin else s).setWide } ∧
    Completes (.sleave f) (h 0x03)
      { sleavePlan f with
        eff := fun c s =>
          let s := if f.modBit 3 then s.pin else s
          c.launch (h 0x03) .sleave [] [] 0 (s.revoke s.cur.block) } ∧
    Completes (.feset f) (h 0x04) (feRangePlan 0x04 true f) ∧
    Completes (.feclr f) (h 0x05) (feRangePlan 0x05 false f)

/-- R316, R317, R320, R324 to R326, R426: transfers, window counters and near-memory operations. A PUT releases at .package, adds a request of its
source, window and chunks and counts it in SRC; a GET adds a request; a WCNT goes into flight with its selector, window and bound; an NMO
releases where it says so and adds a request with its record. In a world a PUT or an NMO without .irrev goes to the outbox, and one with it pins;
an NMO acts, releases and acquires for the root (R425). -/
def Obligations.FabricInstructions : Prop :=
  ∀ f : F64,
    let h (min : BitVec 6) : Hdr := hdr64 0x13 min f
    Completes (.put f) (h 0x00)
      { transferPlan 0x00 true f with
        eff := fun c s =>
          let s := (s.winAsked ((c.ssrc f.s2).toNat % 4096)).goesOn
          let view := s.viewOf s.cur
          let pasid := s.pasidOf s.cur
          let desc := c.ssrc f.s2
          if !f.modBit 1 && view != 0 then
            c.launch (h 0x00) .result [] [] 0 (s.outboxAdd (.put (f.modBit 0) (c.ssrc f.s1) desc (c.ssrc f.s3)))
          else
            let u := (if f.modBit 1 then s.pin else s).release (s.coreOfGroup s.cur) pasid view 5
            let v : State := { u with nextKey := u.nextKey + 1 }
            let r : FabReq := { FabReq.new u.nextKey .put pasid view u.cur.block u.cur.gidx (some (u.nextKey + 1)) with
              loc := f.modBit 0, slots := v.window v.cur.block, addr := (c.ssrc f.s1).toNat, win := desc.toNat % 4096
              off := (c.ssrc f.s3).toNat, n := desc.toNat / 2 ^ 32, target := natBits desc.toNat 16 7
              host := v.winHost pasid (desc.toNat % 4096), todo := chunksOf (c.ssrc f.s3).toNat (desc.toNat / 2 ^ 32) }
            c.launch (h 0x00) (.fabric u.nextKey) [] [] 0
              (({ v with fabric := v.fabric ++ [r] } : State).onCounts pasid (desc.toNat % 4096) fun w =>
                { w with src := w.src + 1 }) } ∧
    Completes (.get f) (h 0x01)
      { transferPlan 0x01 false f with
        eff := fun c s =>
          let s := (s.winAsked ((c.ssrc f.s2).toNat % 4096)).goesOn
          let pasid := s.pasidOf s.cur
          let desc := c.ssrc f.s2
          let v : State := { s with nextKey := s.nextKey + 1 }
          let r : FabReq := { FabReq.new s.nextKey .get pasid (s.viewOf s.cur) s.cur.block s.cur.gidx (some (s.nextKey + 1)) with
            loc := f.modBit 0, slots := v.window v.cur.block, addr := (c.ssrc f.s1).toNat, win := desc.toNat % 4096
            off := (c.ssrc f.s3).toNat, n := desc.toNat / 2 ^ 32, target := natBits desc.toNat 16 7
            host := v.winHost pasid (desc.toNat % 4096), todo := chunksOf (c.ssrc f.s3).toNat (desc.toNat / 2 ^ 32) }
          c.launch (h 0x01) (.fabric s.nextKey) [] [] 0 { v with fabric := v.fabric ++ [r] } } ∧
    Completes (.wcnt f) (h 0x02)
      { wcntPlan f with
        eff := fun c s => c.launch (h 0x02)
          (.wcnt f.modLow ((c.ssrc f.s1).toNat % 4096) (if f.modLow == 1 then c.ssrc f.s2 else 0) (f.dst.toNat - 0x80)) []
          [.sca (f.dst.toNat - 0x80)] 0 (s.winAsked ((c.ssrc f.s1).toNat % 4096)).goesOn } ∧
    Completes (.nmo f) (h 0x03)
      { nmoPlan f with
        eff := fun c s =>
          let view := s.viewOf s.cur
          let pasid := s.pasidOf s.cur
          let core := s.coreOfGroup s.cur
          let parm := mxParmBytes c (c.ssrc f.s1)
          let s := (nmoAsked s core pasid parm).goesOn
          if view != 0 && !f.modBit 1 then c.launch (h 0x03) .result [] [] 0 (s.outboxAdd (.nmo parm f.modHigh))
          else
            let u := if view != 0 then s.pin else s
            let u := if f.modHigh.getLsbD 1 then u.release core pasid 0 6 else u
            c.launch (h 0x03) (.fabric u.nextKey) [] [] 0
              (u.issueNmo 0 u.cur.block u.cur.gidx (some (u.nextKey + 1)) pasid (c.ssrc f.s1).toNat parm f.modHigh (f.modBit 0)) }

/-- R143, R155 to R161: the copy instructions queue an item, or act on the items there are. -/
def Obligations.CopyInstructions : Prop :=
  ∀ f : F64,
    let h (min : BitVec 6) : Hdr := hdr64 0x14 min f
    Completes (.tcopy f) (h 0x00) (copyInstrPlan 0x00 .copy f 0
      (fun _ d s _ => copyChecks d s) none) ∧
    Completes (.tgather f) (h 0x01) (copyInstrPlan 0x01 .gather f 128 (fun _ => rowChecks true) none) ∧
    Completes (.tscatter f) (h 0x02) (copyInstrPlan 0x02 .scatter f 128 (fun _ => rowChecks false) none) ∧
    Completes (.tcoll f) (h 0x03) (copyInstrPlan 0x03 .coll f 64
      (fun st d s c => (copyChecks d s).or ((collFault (packageOf st.cur.locid) (Tensor.parse s) c).map fun k => (k, 2)))
      (some (f.modBit 0))) ∧
    Completes (.tcancel f) (h 0x04) (tcancelPlan f) ∧
    Completes (.tsched f) (h 0x05) (tschedPlan f) ∧
    Completes (.tstat f) (h 0x06)
      { tstatPlan f with
        eff := fun c s => c.launch (h 0x06) (.tstat (c.ssrc f.s1) (f.dst.toNat - 0x80)) [] [.sca (f.dst.toNat - 0x80)] 0 s.setWide }

/-- R263, R267, R281 to R285: the matrix instructions take an entry, or ask for, give back, order or read the engine. -/
def Obligations.MatrixInstructions : Prop :=
  ∀ f : F64,
    let h (min : BitVec 6) : Hdr := hdr64 0x15 min f
    let sd := f.dst.toNat - 0x80
    let command (i : Instr) (min : BitVec 6) (op : Nat) : Prop := Completes i (h min)
      { mxCommandPlan min op f with eff := fun c s => mxArrive c (h min) op (mxParmBytes c (c.ssrc f.s1)) 0 s.setWide }
    Completes (.mxalloc f) (h 0x00) (mxallocPlan f) ∧
    Completes (.mxfree f) (h 0x01) { mxfreePlan f with eff := fun c s => c.launch (h 0x01) .mxfree [] [] 0 s.setWide } ∧
    command (.mxwload f) 0x02 1 ∧
    command (.mxrun f) 0x03 2 ∧
    command (.mxdrain f) 0x04 3 ∧
    command (.mxfill f) 0x05 4 ∧
    Completes (.mxzero f) (h 0x06)
      { mxzeroPlan f with eff := fun c s => mxArrive c (h 0x06) 5 [] ((c.ssrc f.s1).setWidth 32) s.setWide } ∧
    Completes (.mxfence f) (h 0x07) { mxfencePlan f with eff := fun c s => c.launch (h 0x07) .mxfence [] [] 0 s.setWide } ∧
    Completes (.mxstat f) (h 0x08)
      { mxstatPlan f with
        eff := fun c s => c.launch (h 0x08) (.mxstat f.modLow (c.ssrc f.s1) sd) [] [.sca sd] 0 s.setWide } ∧
    Completes (.mxcancel f) (h 0x09) (mxcancelPlan f)

/-! ## Completion of control, system, world and snapshot instructions -/

/-- R45, R352 to R354: branches, calls and returns. A taken branch of BRC and BRW moves the whole run, the others the enabled
lanes, which for BRS are the whole run too (R36). -/
def Obligations.Branches : Prop :=
  ∀ (f : F64) (o : BitVec 12),
    let h (min : BitVec 6) : Hdr := hdr64 0x18 min f
    let near (c : Cx) : BitVec 57 := c.run.pc + (f.imm24.signExtend 57 <<< 1)
    let far (c : Cx) (k : Nat) : BitVec 57 := (c.at (f.s1, true) k).setWidth 57
    let linked (c : Cx) (s : State) : State :=
      { s with cur := s.cur.writeNow (.vec f.dst.toNat true c.en (Lanes.const ((c.run.pc + 8).setWidth 64))) }
    Completes (.brs o) (hdr16 (o ++ 0xA#4) .c false true)
      { eff := fun c => goTo (fun _ => c.run.pc + (o.signExtend 57 <<< 1)) (fun _ => c.run.depth) c.en } ∧
    Completes (.bra f) (h 0x00) { eff := fun c => goTo (fun _ => near c) (fun _ => c.run.depth) c.en } ∧
    Completes (.brc f) (h 0x01)
      { ops := fun _ => predOk f.dst
        also := [.prd f.dst.toNat]
        eff := fun c s =>
          let x := c.run.mask &&& c.preg f.dst.toNat
          if (match f.modLow.toNat with | 0 => x != 0 | 1 => x == c.run.mask | _ => x == 0) then
            goTo (fun _ => near c) (fun _ => c.run.depth) c.run.mask s
          else s } ∧
    Completes (.brx f) (h 0x02)
      { ops := fun c => targetOk c f.s1
        uses := [(f.s1, true)]
        own := fun c => oddTarget c f.s1 c.en
        eff := fun c => goTo (far c) (fun _ => c.run.depth) c.en } ∧
    Completes (.brw f) (h 0x03)
      { ops := fun _ => walkerOk f.s1
        also := [.wlk f.s1.toNat]
        eff := fun c s =>
          let w := c.walker f.s1.toNat
          if (w.bound && w.endf.getLsbD f.modLow.toNat) != f.modBit 2 then
            goTo (fun _ => c.run.pc + (f.imm16.signExtend 57 <<< 1)) (fun _ => c.run.depth) c.run.mask s
          else s } ∧
    Completes (.call f) (h 0x04)
      { ops := fun c => c.vecOk true f.dst && true
        own := fun c => if c.run.depth = 255 then some (.precise Cause.softTrap 0 0x100) else none
        eff := fun c s => goTo (fun _ => near c) (fun _ => c.run.depth + 1) c.en (linked c s) } ∧
    Completes (.callx f) (h 0x05)
      { ops := fun c => c.vecOk true f.dst && targetOk c f.s1
        uses := [(f.s1, true)]
        own := fun c => if c.run.depth = 255 then some (.precise Cause.softTrap 0 0x100) else oddTarget c f.s1 c.en
        eff := fun c s => goTo (far c) (fun _ => c.run.depth + 1) c.en (linked c s) } ∧
    Completes (.ret f) (h 0x06)
      { ops := fun c => targetOk c f.s1
        uses := [(f.s1, true)]
        own := fun c => if c.run.depth = 0 then none else oddTarget c f.s1 c.en
        eff := fun c s =>
          if c.run.depth = 0 then exitNow c c.en s else goTo (far c) (fun _ => c.run.depth - 1) c.en s }

/-- R43, R44, R69, R355 to R358: exits, waits, yields, sleeps and hints. A WAIT whose counters are zero is passed, and otherwise its group
waits on it. -/
def Obligations.ExitsAndWaits : Prop :=
  ∀ (f : F64) (f32 : F32) (minor : BitVec 6) (m : BitVec 12) (imm : BitVec 8),
    Completes (.exit f) (hdr64 0x18 0x07 f) { exits := true, eff := fun c => exitNow c c.en } ∧
    Completes .exit16 (hdr16 0x0036 .c false true) { exits := true, eff := fun c => exitNow c c.en } ∧
    Completes (.sleep f) (hdr64 0x19 0x03 f)
      { ops := fun _ => sregOk f.s1 || f.s1 == 0xE4
        uses := [(f.s1, true)]
        eff := fun c s =>
          let t := min ((if sregOk f.s1 then (c.ssrc f.s1).toNat % 2 ^ 32 else 0) + f.imm16.toNat) (2 ^ 32 - 1)
          { s with cur := { s.cur with hold := .sleep (s.hbeat.toNat + t + 1) } } } ∧
    (∀ (s : State) (r : Run), s.clears (hdr16 (m ++ 0x2#4) .c false true) (waitPlan m) r = true →
      let c := s.issuing (hdr16 (m ++ 0x2#4) .c false true) r
      let on := c.onward (hdr16 (m ++ 0x2#4) .c false true)
      exec (.wait m) s = .next (State.account
        (if countersZero c.g m then on
         else goTo (fun _ => r.pc) (fun _ => r.depth) r.mask { on with cur := { on.cur with hold := .wait m } }) c.t)) ∧
    (∀ (s : State) (r : Run), s.cur.hold = .wait m → s.cur.nextRun = some r → s.cur.dueDeferred (waitPlan m) = none →
      exec (.wait m) s = .next (if countersZero s.cur m then { s with cur := { (s.cur.advance r 2) with hold := .free } } else s)) ∧
    Completes .yield (hdr16 0x0016 .c false true)
      { eff := fun c s =>
          let age := (s.groups.map (·.age)).foldl max 0 + 1
          { s with cur := { (if s.cur.priv then
              { s.cur with handler := { s.cur.handler with yld := s.cur.handler.yld ||| c.run.mask } }
            else { s.cur with yld := s.cur.yld ||| c.run.mask } : Group) with age := age } } } ∧
    Completes (.nop16 imm) (hdr16 (imm ++ 0x06#8) .c false true) {} ∧
    Completes (.nop32 f32) { hdr32 0x3F f32 with lat := .hint, latch := false, nowb := false } {} ∧
    Completes (.nop64 minor f) { hdr64 0x3F minor f with cnt := 15, pred := 0, pneg := false, nowb := false } {}

/-- R359 to R361, R364: SPAWN and FETCHW submit and fetch work; REGGROW and REGSHRINK change the vector allocation. -/
def Obligations.WorkAndRegisters : Prop :=
  ∀ f : F64,
    Completes (.spawn f) (hdr64 0x19 0x04 f) (spawnPlan f) ∧
    Completes (.fetchw f) (hdr64 0x19 0x05 f) (fetchwPlan f) ∧
    Completes (.reggrow f) (hdr64 0x19 0x06 f)
      { reggrowPlan f with
        eff := fun _ s =>
          if f.imm16.toNat ≤ s.cur.alloc then s
          else ({ s with cur := { s.cur with hold := .grow f.imm16.toNat } } : State).tryGrow s.cur.block s.cur.gidx } ∧
    Completes (.regshrink f) (hdr64 0x19 0x07 f)
      { ops := fun _ => allocOk f.imm16.toNat
        eff := fun _ s => if s.cur.alloc ≤ f.imm16.toNat then s else { s with cur := s.cur.shrink f.imm16.toNat } }

/-- R38, R39, R333, R383, R386, R389, R390, R414 to R417: a system register is read, or written where the group may; the write of an MTX is
held to its register's own rule. -/
def Obligations.SystemRegisters : Prop :=
  ∀ f : F64,
    let n := regNum f
    let move (i : Instr) (write : DWord → State → State) : Prop := Completes i (hdr64 0x1A 0x04 f)
      { secret := privReg n
        ops := fun _ => sregOk f.s1 && knownReg n
        uses := [(f.s1, true)]
        eff := fun c s => if n == 0 || s.cur.priv then write (c.ssrc f.s1) s else s }
    Completes (.mfx f) (hdr64 0x1A 0x03 f)
      { secret := privReg n
        ops := fun _ => sregOk f.dst && knownReg n
        eff := fun c s => c.finish (hdr64 0x1A 0x03 f) [.sca (f.dst.toNat - 0x80) (sysRead c.s n)] 0 s } ∧
    move (.mtx f) (sysWrite n) ∧
    move (.mtxXpc f) (writeXpc n) ∧
    move (.mtxVbudget f) (fun v s => s.onCtxOf fun x =>
      { x with budget := if (v.setWidth 8 : BitVec 8) < x.grant then v.setWidth 8 else x.grant }) ∧
    move (.mtxVpsize f) (fun v s =>
      (s.onCtxOf fun x => { x with vpsize := if x.vpsize < v.setWidth 32 then v.setWidth 32 else x.vpsize }).performHeld
        (s.pasidOf s.cur)) ∧
    move (.mtxVpbase f) (fun v s => s.onCtxOf fun x => if x.live = 0 then { x with vpbase := v &&& 0x01FFFFFFFFFFF000 } else x)

/-- R134, R185, R389, R391: a return ends handler entries; TLBINV and ICINV go into flight with their range and scope. -/
def Obligations.SystemActions : Prop :=
  ∀ f : F64,
    let scope (c : Cx) : Option Nat := c.scope (f.s3.extractLsb' 0 3)
    Completes (.xret f) (hdr64 0x1A 0x02 f)
      { secret := true
        eff := fun c s => ({ s with cur := s.cur.returnThreads c.en c.t } : State).settleBars } ∧
    Completes (.tlbinv f) (hdr64 0x1A 0x05 f)
      { tlbinvPlan f with
        eff := fun c s =>
          let base := if f.modLow = 2 then 0 else (c.ssrc f.s1).toNat % 2 ^ 57 / 4096 * 4096
          let len := if f.modLow = 0 then 4096 else if f.modLow = 1 then (c.ssrc f.s2).toNat else 2 ^ 57
          c.launch (hdr64 0x1A 0x05 f) (.tlbinv f.modLow base len ((scope c).getD 0)) [] [] 0 s } ∧
    Completes (.icinv f) (hdr64 0x1A 0x06 f)
      { ops := fun c => (scope c).isSome
        uses := scopeUse (f.s3.extractLsb' 0 3)
        eff := fun c s => c.launch (hdr64 0x1A 0x06 f) (.icinv ((scope c).getD 0)) [] [] 0 s }

/-- R388, R46, R39, R65, R387: TRAP and BRK take their traps with XSCR at the next instruction; a word that no instruction defines takes
ILLEGAL_INSTR with the word in XINFO, and so does a halfword that ends in 0b1110 (R46); an unprivileged group that runs XRET or TLBINV, or names a privileged register in MFX or MTX, takes PRIV. -/
def Obligations.TrapInstructions : Prop :=
  ∀ (f : F64) (imm : BitVec 8) (w : DWord) (s : State) (r : Run),
    let next (h : Hdr) (cause : Nat) (x : BitVec 8) : Trap :=
      { Trap.precise cause 0 (x.setWidth 64) with xscr := some (r.pc + BitVec.ofNat 57 h.len) }
    let takes (i : Instr) (h : Hdr) (cause : Nat) (x : BitVec 8) : Prop :=
      s.tries h {} r = true → (s.issuing h r).lawful h {} = true → (s.issuing h r).operandsGood h {} = true →
        (s.issuing h r).en ≠ 0 → TrapsAt i h s r (next h cause x)
    let bad : Hdr := ⟨lengthOf w, w, if lengthOf w = 2 then 0 else (w.extractLsb' 2 3).toNat, false, false, .c, false, 15, 0, false, true⟩
    let refused (i : Instr) (h : Hdr) (p : Plan) : Prop :=
      s.tries h p r = true → (s.issuing h r).g.priv = false → ((s.issuing h r).g.front = false ∨ h.front = true) →
        TrapsAt i h s r (.precise Cause.priv 0 h.word)
    let named : Plan := { uses := [(f.s1, true)] }
    takes (.trap16 imm) (hdr16 (imm ++ 0x46#8) .c false true) Cause.softTrap imm ∧
    takes (.brk16 imm) (hdr16 (imm ++ 0x26#8) .c false true) Cause.breakpoint imm ∧
    takes (.trap f) (hdr64 0x1A 0x00 f) Cause.softTrap (f.imm16.setWidth 8) ∧
    takes (.brk f) (hdr64 0x1A 0x01 f) Cause.breakpoint (f.imm16.setWidth 8) ∧
    (s.tries bad {} r = true → TrapsAt (.illegalInstr w) bad s r (.precise Cause.illegalInstr 0 w)) ∧
    (w.extractLsb' 0 4 = 0xE → decodeWord w = .illegalInstr (w &&& 0xFFFF)) ∧
    refused (.xret f) (hdr64 0x1A 0x02 f) {} ∧
    refused (.tlbinv f) (hdr64 0x1A 0x05 f) (tlbinvPlan f) ∧
    (privReg (regNum f) = true →
      refused (.mfx f) (hdr64 0x1A 0x03 f) {} ∧
      refused (.mtx f) (hdr64 0x1A 0x04 f) named ∧
      refused (.mtxXpc f) (hdr64 0x1A 0x04 f) named ∧
      refused (.mtxVbudget f) (hdr64 0x1A 0x04 f) named ∧
      refused (.mtxVpsize f) (hdr64 0x1A 0x04 f) named ∧
      refused (.mtxVpbase f) (hdr64 0x1A 0x04 f) named)

/-- R424 to R431: FORKW waits for its copies; CHOOSE and ABANDON decide and leave a sibling set; WORLD reads the group's place. -/
def Obligations.WorldInstructions : Prop :=
  ∀ f : F64,
    Completes (.forkw f) (hdr64 0x1B 0x00 f)
      { forkwPlan f with
        eff := fun c s =>
          { s.setWide with cur := { s.setWide.cur with hold := .fork (forkCount c f).toNat (f.dst.toNat - 0x80) } } } ∧
    Completes (.choose f) (hdr64 0x1B 0x01 f) (choosePlan f) ∧
    Completes (.world f) (hdr64 0x1B 0x02 f)
      { ops := fun _ => sregOk f.dst
        acts := true
        eff := fun c s => c.finish (hdr64 0x1B 0x02 f) [.sca (f.dst.toNat - 0x80) <| match f.modLow.toNat with
          | 0 => BitVec.ofNat 64 ((c.world.map (·.index)).getD 0)
          | 1 => match c.world with
            | none => 0
            | some w => BitVec.ofNat 64 (w.index + 2 ^ 4 * w.depth + 2 ^ 8 * w.nsib +
                (if c.s.holdsPin w.pasid w.num then 2 ^ 12 else 0) + 2 ^ 16 * w.num + 2 ^ 24 * w.parent)
          | _ => BitVec.ofNat 64 (((c.s.ctxOf c.g).map fun x => x.budget.toNat - x.live.toNat).getD 0)] 0 s.setWide } ∧
    Completes (.abandon f) (hdr64 0x1B 0x03 f) abandonPlan

/-- R458, R459: SNAP claims a colour, or asks for one; SNAPST goes into flight to read one. -/
def Obligations.SnapshotInstructions : Prop :=
  ∀ f : F64,
    Completes (.snap f) (hdr64 0x1C 0x00 f) (snapPlan f) ∧
    Completes (.snapst f) (hdr64 0x1C 0x01 f)
      { snapstPlan f with
        eff := fun c s => c.launch (hdr64 0x1C 0x01 f) (.snapst f.modLow ((c.ssrc f.s1).toNat % 2) (f.dst.toNat - 0x80)) []
          [.sca (f.dst.toNat - 0x80)] 0 s.setWide }

/-! ## Events -/

/-- R8, R39, R58, R128, R183: the heartbeat counts and nothing precedes it in time; a result lands at its cycle; an instruction in flight
takes its next action; a missing line of code is fetched, or its fault taken. -/
def Obligations.TimeAndCompletion : Prop :=
  ∀ s : State,
    (s.readyBefore (256 * (s.hbeat.toNat + 1)) = false → ∃ t, exec .heartbeatTick s = .next t ∧
      t = (((({ s with cycle := max s.cycle (256 * (s.hbeat.toNat + 1)), hbeat := s.hbeat + 1 } : State).groups.foldl State.endFence
        { s with cycle := max s.cycle (256 * (s.hbeat.toNat + 1)), hbeat := s.hbeat + 1 }).mxNote.arbitrate.chargeQueues.arbitrate).pollWaits).wake) ∧
    (∀ (g : Group) (f : Flight) (n : Nat), s.isResident s.cue.block = true → s.group? s.cue.block s.cue.gidx = some g →
      g.flight? s.cue.key = some f → f.due = some n → s.readyBefore n = false →
      exec .resultWriteback s = .next ((s.reach n).onGroup s.cue.block s.cue.gidx fun x => x.land s n).wake) ∧
    (∀ (g : Group) (f : Flight), s.isResident s.cue.block = true → s.group? s.cue.block s.cue.gidx = some g →
      g.flight? s.cue.key = some f → f.due = none →
      exec .instructionCompletion s =
        .next (((s.finish g ⟨s.cue.block, s.cue.gidx, s.cue.key⟩ f.op).replayAll s.cue.block s.cue.gidx).tryFence
          s.cue.block s.cue.gidx).wake) ∧
    (∀ (g : Group) (r : Run) (va pa : Nat) (attr : BitVec 2) (leaf size : Nat) (t : State), s.group? s.cue.block s.cue.gidx = some g →
      g.nextRun = some r → s.isResident g.block = true →
      s.codeWord (s.coreOfGroup g) (s.pasidOf g) r.pc = .error va →
      s.translate (s.coreOfGroup g) (s.pasidOf g) ((BitVec.ofNat 57 va).signExtend 64) .code = (.ok pa attr leaf size, t) →
      t.inTransit pa = false →
      exec .instructionFetchFill s = .next (((t.codeLine (s.coreOfGroup g) (s.pasidOf g) (lineOf pa)).2.codeCores g).foldl
        (fun (u : State) core => u.codeFill core (s.pasidOf g) (lineOf va) (t.codeLine (s.coreOfGroup g) (s.pasidOf g) (lineOf pa)).1)
        (t.codeLine (s.coreOfGroup g) (s.pasidOf g) (lineOf pa)).2).wake)

/-- R358, R360 to R364, R418, R429: what a group waits for comes: the tick of a SLEEP, the last child of a SPAWN, the mailbox of a FETCHW,
the rows of a REGGROW, the places of a FORKW's copies, and the retagging of a committed view. -/
def Obligations.WaitsEnd : Prop :=
  ∀ s : State,
    (∀ (g : Group) (t : Nat), s.isResident s.cue.block = true → g.hold = .sleep t → t ≤ s.hbeat.toNat →
      s.group? s.cue.block s.cue.gidx = some g →
      exec .sleepWake s = .next (s.onGroup s.cue.block s.cue.gidx fun x => match x.hold with
        | .sleep u => if u ≤ s.hbeat.toNat then { x with hold := .free } else x
        | _ => x).wake) ∧
    (∀ (b : Block) (t : State), s.block? s.cue.key = some b → s.heldOff b = false → b.children = 0 → s.suspended b = true →
      b.res = .saved → s.returns.head? = some b.key →
      (s.blocks.filter fun x => (s.together [b.key]).contains x.key && !s.awaits x) = [b] →
      s.restoreBlock b.key = some t → exec .spawnResume s = .next t.wake) ∧
    (∀ b : Block, s.block? s.cue.key = some b → b.children = 0 → s.suspended b = true →
      exec .spawnResume s = .next (s.restoreAll b).wake) ∧
    (∀ (m : Mail) (l : Launch) (lin : Nat), (s.mails.find? fun x => x.pasid == s.cue.key && x.here && x.bytes == []) = some m →
      (s.launches.find? fun x => x.pasid == m.pasid && !x.torn && x.rc.launchId == m.id) = some l → l.lowestUnplaced = some lin →
      ((s.withdraw l.key lin m.by_).block? m.block).isSome = true →
      exec .fetchwService s =
        .next (State.wake { s.withdraw l.key lin m.by_ with
          mails := (s.withdraw l.key lin m.by_).mails.map fun x => if x.key == m.key then
            { x with bytes := [(l.rc.coords lin).1, (l.rc.coords lin).2.1, (l.rc.coords lin).2.2, 0].flatMap (natBytes 4) }
          else x })) ∧
    (∀ m : Mail, (s.mails.find? fun x => x.key == s.cue.key && x.bytes != []) = some m → s.localTransit m.block m.off = false →
      s.segmentWaits m.block m.off = false →
      s.isResident m.block = true → s.isFull m.block (granOf m.off) = false →
      ((s.block? m.block).map fun b => b.vault.waiters.any fun w => w.2 == Waiter.mailbox m.key) = some false →
      exec .mailboxWrite s = .next (State.wake
        (({ ((s.vaultWrite m.block m.off m.bytes).poisonVault m.block (granOf m.off) false).setFull m.block (granOf m.off) true with
          mails := s.mails.filter fun x => x.key != m.key } : State).served m.block (granOf m.off) false))) ∧
    exec .reggrowGrant s = .next (s.tryGrow s.cue.block s.cue.gidx).wake ∧
    (∀ (b : Block) (g : Group) (n dst : Nat) (spots : List (Nat × Spot)) (occ : Occ), s.block? s.cue.block = some b →
      s.group? s.cue.block s.cue.gidx = some g → g.hold = .fork n dst → s.forkReady b.key = true → s.tableBusy g s.cycle = false → s.forkCode b true = none →
      placeUnit (s.site b.pasid) (s.clusters b.pasid)
        (List.replicate (n - 1) ⟨b.lin, s.needOf b, ((s.launch? b.launch).map fun (l : Launch) => (l.want b.lin).sets).getD []⟩)
        (((s.launch? b.launch).map s.setKeys).getD []) s.occ = some (spots, occ) →
      (s.views.filter fun w => w.state != .abandoned).length + s.aliases.length + n ≤ 255 →
      exec .forkwCopyPlacement s = .next (State.wake
        { s.fork b g.gidx n dst (spots.map (·.2)) with tabled := (s.cycle, b.pasid, g.locid.toNat) })) ∧
    exec .viewRetag s =
      .next (({ s with aliases := s.aliases.filter fun a => a.2 != s.cue.key } : State).tryCommit s.cue.key).wake

/-- R114, R123, R124, R128, R155: walks are made, and the answers of system software and the host reach what waits for them; a PASID's
work is torn down. That an invalidation names virtual addresses of the PASID is this model's choice (log 89). -/
def Obligations.TranslationEvents : Prop :=
  ∀ s : State,
    (∀ unit pasid va k : Nat, s.cue.nums = [unit, pasid, va, k] → (s.ctx? pasid).isSome = true → s.mayWalk unit pasid va k = true →
      exec .pageWalk s = .next (match s.translate unit pasid (BitVec.ofNat 64 va) ⟨k == 1, k == 2, decide (unit < 128)⟩ with
        | (.host e, t) => t.askHost e
        | (_, t) => t).wake) ∧
    (s.cue.nums = [] → exec .pageWalk s = .next (s.walkLanes ⟨s.cue.block, s.cue.gidx, s.cue.key⟩).wake) ∧
    (s.updating = false → s.cue.nums = [] →
      exec .pageFaultAnswer s = .next (s.answerLog ⟨s.cue.block, s.cue.gidx, s.cue.key⟩ s.cue.yes).wake) ∧
    (∀ (e : LogEntry) (f : Flight) (l : LaneAcc), s.updating = false → s.cue.nums = [] →
      let r : FRef := ⟨s.cue.block, s.cue.gidx, s.cue.key⟩
      (s.olog.find? fun x => x.block == r.block && x.gidx == r.gidx && x.flight == r.flight && x.state == .pending) = some e →
      s.loggedLane r = some (f, l) →
      (s.cue.yes = true → exec .pageFaultAnswer s = .next ((s.putLog r { e with state := .resolved }).replayAll r.block r.gidx).wake) ∧
      (s.cue.yes = false → exec .pageFaultAnswer s = .next ((s.makeFatal r f e l.lane l.addr).replayAll r.block r.gidx).wake)) ∧
    (∀ (a : AtsReq) (hpa : Nat) (more : List Nat), (s.ats.find? fun x => x.key == s.cue.key && !x.pri && !x.refused) = some a →
      s.cue.yes = true → s.cue.nums = hpa :: more → a.unit < 128 →
      exec .atsTranslationCompletion s =
        .next ((({ s with ats := s.ats.filter fun x => x.key != a.key } : State).tlbFill
          ⟨.engine, a.unit, a.pasid, a.va, a.size, hostBase + hpa / a.size * a.size % 2 ^ 48, a.w && more != [0], a.x, true,
            a.attr, a.f, a.d⟩).wakeItems
            a).wake) ∧
    (∀ a : AtsReq, (s.ats.find? fun x => x.key == s.cue.key && !x.pri && !x.refused) = some a → s.cue.yes = false →
      exec .atsTranslationCompletion s = .next (State.wake
        (({ s with ats := s.ats.map fun x => if x.key == a.key then { x with pri := true } else x } : State).logLanes
          (s.hostLanes a false) 0x01 a.f))) ∧
    (∀ a : AtsReq, (s.ats.find? fun x => x.key == s.cue.key && x.pri) = some a →
      let all := s.hostLanes a true
      let ls := all.filter fun x => (s.logOf x.1).isSome
      let t := ({ s with ats := s.ats.filter fun x => x.key != a.key } : State).answerHeld (all.filter fun x => (s.logOf x.1).isNone) s.cue.yes
      (s.cue.yes = false → all ≠ [] → exec .pageRequestGroupResponse s = .next ((t.logLanes ls 0x09 a.f).wakeItems a).wake) ∧
      (s.cue.yes = false → all = [] →
        exec .pageRequestGroupResponse s =
          .next (({ s with ats := (s.ats.filter fun x => x.key != a.key) ++ [{ a with pri := false, refused := true }] } : State).wakeItems a).wake) ∧
      (s.cue.yes = true →
        let u := (((ls.map fun x => x.1).eraseDups).foldl (fun (u : State) r => match u.logOf r with
          | some e => u.putLog r { e with state := .resolved }
          | none => u) t).wakeItems a
        exec .pageRequestGroupResponse s = .next (((ls.map fun x => (x.1.block, x.1.gidx)).eraseDups).foldl
          (fun (u : State) p => u.replayAll p.1 p.2) u).wake)) ∧
    (∀ p va len : Nat, s.cue.nums = [p, va, len] → len ≠ 0 → (s.leaving.find? fun x => x.1 == p) = none →
      exec .atsInvalidation s =
        .next (((List.range 128).foldl (fun (u : State) core => u.release core p 0 5) s).tlbDrop (fun _ => true) p va len).wake) ∧
    (∀ c : Context, s.ctx? s.cue.key = some c → (s.dying.find? fun x => x.1 == s.cue.key) = none → exec .pasidTeardown s = .next (s.tearPasid s.cue.key false).wake)

/-- R104 to R107, R110, R146 to R150, R167, R179, R180: accesses at vault banks, the end of a segment's transit, and the work of the copy
engines. A lane of a plain load or store is performed at its bank; a mapped page's bytes pass to the vault, or back; an item moves its
granules and ends; an entry of the schedule becomes an item; a poisoned entry is read again from its replica. -/
def Obligations.VaultAndCopyEvents : Prop :=
  ∀ s : State,
    (∀ (g : Group) (f : Flight) (a : Access), s.access? ⟨s.cue.block, s.cue.gidx, s.cue.key⟩ = some (g, f, a) → a.loc = true →
      exec .vaultBankAccess s = .next (s.perform ⟨s.cue.block, s.cue.gidx, s.cue.key⟩ s.cue.nums).wake) ∧
    (∀ (g : Group) (f : Flight) (a : Access) (l : LaneAcc),
      let r : FRef := ⟨s.cue.block, s.cue.gidx, s.cue.key⟩
      s.access? r = some (g, f, a) → a.loc = true → a.kind = .load ∨ a.kind = .store → a.ord = 0 → a.qual = .plain → a.lanes = [l] →
      l.st = .todo → s.cue.nums = [] → s.laneHeld g f a l = false → g.differs = none → s.localTransit l.blk l.off = false →
      s.isResident l.blk = true → (a.kind = .store → s.segmentWaits l.blk l.off = false) →
      exec .vaultBankAccess s =
        .next (((s.bankLane r a l l.blk l.off).served l.blk (granOf l.off) (s.isFull l.blk (granOf l.off))).settleLog r).wake) ∧
    exec .segmentTransitEnd s = .next (s.endTransit s.cue.key).wake ∧
    (∀ g : Segment, (s.segs.find? fun x => x.pa == s.cue.key && x.transit) = some g →
      (g.leaving = true →
        exec .segmentTransitEnd s = .next (State.wake { (s.segToPage g) with segs := s.segs.filter (·.pa != s.cue.key) })) ∧
      (g.leaving = false →
        let inPage (c : CByte) : Bool := pageOf c.pa == s.cue.key
        let t := s.sinkL2 inPage
        let t := State.pageToSeg { t with l2 := t.l2.filter fun c => !inPage c } g
        let t : State := { t with segs := t.segs.map fun x => if x.pa == s.cue.key then { x with transit := false } else x }
        let gone (c : CByte) : Bool :=
          inPage c && (c.view == 0 || (t.chain c.pasid c.view).all fun v => (t.viewLine c.pasid v c.pa).isNone)
        exec .segmentTransitEnd s = .next (State.wake { (t.sinkL1 gone) with l1 := (t.sinkL1 gone).l1.filter fun c => !gone c }))) ∧
    (∀ it : CopyItem, s.item? s.cue.key = some it → exec .copyItemTurn s = .next (s.copyTurn s.cue.key s.cue.nums).wake) ∧
    (∀ (it : CopyItem) (rows : List (Option Int)) (t : State), s.item? s.cue.key = some it → it.kind = .copy → it.blocked = false →
      it.waitva = 0 → s.behind it = false → it.state = 1 → (s.itemState s.cue.key 1).item? s.cue.key = some it →
      (s.itemState s.cue.key 1).itemIndex it = (some rows, t) →
      let n := it.dst.count (it.dst.ndim - 1)
      let u := t.onItem s.cue.key fun i =>
        { i with
          rows := some rows
          oob := i.oob || rows.any fun k => match k with | some v => (rowOf n v).isNone | none => false }
      ∀ x : CopyItem, u.item? s.cue.key = some x → x.src.fetake = false → s.cue.nums = [] →
      exec .copyItemTurn s =
        .next (State.copyGranules s.cue.key x.moves false ((x.left x.moves).take 256) u).wake) ∧
    (∀ it : CopyItem, s.item? s.cue.key = some it → it.over = true → it.kind = .copy →
      exec .copyItemCompletion s = .next (s.endItem it (if it.reason = 0 then 4 else 5)).wake) ∧
    (∀ (it : CopyItem) (k : Nat), s.item? s.cue.key = some it → it.over = true → it.kind = .tier k →
      exec .copyItemCompletion s = .next (s.endTier it k (if it.npoison = 0 then 1 else 2)).wake) ∧
    (s.cue.nums = [] → exec .tierEntryStart s = .next (s.startTier s.cue.gidx s.cue.key).wake) ∧
    (∀ (ctx : Context) (hd : TierHead) (es : List TierEntry) (e : TierEntry) (t : State), s.cue.nums = [] →
      s.ctx? s.cue.gidx = some ctx → s.tierHead? s.cue.gidx = some hd →
      let reader := engineRecord (engineUnit 0) s.cue.gidx
      tierEntries reader ctx.tsbase.toNat (hd.cursor + hd.ahead) hd.count 0 false s = (.ok es, t) →
      (es.find? fun x => x.index == s.cue.key) = some e → e.valid = true → e.layer ≤ hd.cursor + hd.ahead →
      t.tierStarted s.cue.gidx s.cue.key = false →
      entriesCheck reader s.cue.gidx (hd.cursor + hd.ahead) (es.filter fun x => decide (x.index ≤ s.cue.key)) t = none →
      ((es.filter fun x => decide (x.index ≤ s.cue.key)).any fun x => decide (x.index < s.cue.key) && x.valid &&
        !t.tierStarted s.cue.gidx x.index && !t.tierWaits s.cue.gidx x && !t.tierElsewhere s.cue.gidx x) = false →
      exec .tierEntryStart s = .next (t.enterTier s.cue.gidx e).wake) ∧
    exec .replicaRefetch s = .next (s.refetch s.cue.gidx s.cue.key).wake ∧
    (∀ (e : TierEntry) (unit : Nat) (d o r : List Byte) (j : CopyItem),
      let reader := engineRecord (engineUnit 0) s.cue.gidx
      let pasid := s.cue.gidx
      s.tierState pasid s.cue.key = 2 → s.tierEntry? pasid (engineUnit 0) s.cue.key = some e → e.dtier < 4 → e.flags / 2 % 2 = 1 →
      s.updating = false → s.tierUnit pasid none s.cue.key = some unit → (reader e.dst 128 s).1 = .ok d → (reader e.src 128 s).1 = .ok o →
      (reader e.replica 128 s).1 = .ok r → (Tensor.parse r).fault 1 = none → copyPairFault (Tensor.parse d) (Tensor.parse r) = none →
      let dst := Tensor.parse d
      let src := Tensor.parse r
      let ms := copyMoves dst src
      let gs := (granulesOf ms).zipIdx
      let into := { dst with fewait := false, feset := false }
      let it := { tierItem s.nextKey pasid s.cue.key unit e none into { src with fetake := false } [] with install := false, state := 1 }
      let it := { it with moved := (gs.filter fun p => !({ s with nextKey := s.nextKey + 1 } : State).tierBad it p.1).map (·.2) }
      let t := State.copyGranules s.nextKey ms false (it.left ms) { s with nextKey := s.nextKey + 1, items := s.items ++ [it] }
      t.item? s.nextKey = some j → j.npoison = 0 → ((it.left ms).all fun p => j.moved.contains p.1) = true → j.reason = 0 →
      let t := (it.left ms).foldl (fun (t : State) p => t.tierClean it p.2) t
      (gs.all fun p => !t.tierBad it p.1) = true →
      let u := ((t.engineRelease unit pasid 0 (max 2 dst.scope)).onItem s.nextKey fun i =>
        { i with state := 4, dst := dst, bytes := 16 * gs.length }).putStatus s.nextKey
      exec .replicaRefetch s = .next (State.wake
        (({ u with items := u.items.filter (·.key != s.nextKey) } : State).setTier pasid unit s.cue.key 3 0 dst.scope)))

/-- R250, R251, R263 to R266: the matrix engines grant allocations and entries in order, and end entries. -/
def Obligations.MatrixEvents : Prop :=
  ∀ s : State,
    (∀ r : MxReq, (s.mxReqs.find? fun x => x.cluster == s.cue.key) = some r → r.image = none →
      ((panesOf r.mode r.pane).any
        ((s.mxAllocs.filter fun x => x.cluster == r.cluster).flatMap fun a => panesOf a.mode a.pane).contains) = false →
      ∀ (g : Group) (f : Flight) (n m dst : Nat), s.group? r.block r.gidx = some g → g.flight? r.flight = some f →
        f.op = .mxalloc n m dst →
        let a := MxAlloc.mirrored ⟨r.cluster, r.block, r.mode, r.pane,
          (List.range r.n).map fun k => .clean ((if r.mode = 1 then 0 else 8 * r.pane) + k), [], [], []⟩
        exec .mxAllocGrant s = .next (({ s with mxReqs := s.mxReqs.filter (· != r), mxAllocs := s.mxAllocs ++ [a] } : State).land
          ⟨r.block, r.gidx, r.flight⟩ [.sca dst a.mask]).wake) ∧
    (∀ e : MxEntry, s.mxNote.mxNext s.cue.key = some e →
      let g := { e with granted := some s.mxNote.planeCycle, waitcyc := s.mxNote.cycle - e.arrived }
      let t := ((s.mxNote.onMxEntry e.key fun _ => g).engineAcquire (engineUnit e.cluster) (s.mxNote.mxPasid e) (s.mxNote.mxView e)
        e.scope).mxStatus g 1 0
      exec .mxEntryGrant s = .next (State.wake { t.mxAct g with free := t.free + 1 })) ∧
    (∀ e : MxEntry, (s.mxEntries.find? fun x => x.key == s.cue.key) = some e → e.granted.isSome = true → e.ended = 0 →
      e.streamDone ≤ s.planeCycle → s.updating = false → s.releaseStuck (s.mxView e) e.scope = false → s.cue.nums = [] → e.void = false →
      (∀ o ∈ e.outs, s.mxOutHeld e o = false) →
      exec .mxEntryCompletion s =
        .next ((((e.outs.zipIdx).foldl (fun (u : State) o => u.mxOut e o.1) s).mxEnd e 2).mxNote).wake)

/-- R309 to R321: what crosses the fabric: chunks of PUTs and GETs and their answers, near-memory operations, atomics at a node, collectives,
the host's accesses, replays of a link and the loss of a port. -/
def Obligations.FabricEvents : Prop :=
  ∀ s : State,
    (s.cue.yes = true → s.cue.key < 32 → exec .linkReplay s = .next (State.wake { s with stops := insertNat s.cue.key s.stops })) ∧
    (s.cue.yes = false → exec .linkReplay s = .next (State.wake { s with stops := s.stops.filter (· != s.cue.key) })) ∧
    (∀ r : FabReq, s.fabReq? s.cue.key = some r → r.kind = .put → s.cue.yes = false → s.cue.nums = [] →
      exec .putDelivery s = .next ((r.todo.foldl (State.putChunk s.cue.key) s).putWhole s.cue.key).wake) ∧
    (∀ (r : FabReq) (o port : Nat) (ps : List (Nat × List Byte × Bool)) (w : Window) (t u v : State), s.fabReq? s.cue.key = some r →
      r.kind = .put → s.cue.yes = false → s.cue.nums = [o] → r.code = 0 → r.todo.contains o = true → s.route o = some port →
      readPieces r.own r.addr r.off (r.chunk o) s = (.ok ps, t) → (r.host || t.isOwn r.pasid r.target) = true →
      (r.host || s.isOwn r.pasid r.target || !s.portWaits port 1) = true →
      t.window? r.pasid r.win r.refused = (some w, u) → w.refuses true r.off r.n = none →
      writePieces r.far w.base 0 ps u = (none, v) →
      exec .putDelivery s = .next ((v.onReq r.key fun q => { q with todo := q.todo.filter (· != o) }).putWhole s.cue.key).wake) ∧
    (∀ a : Arrival, s.cue.yes = true → s.cue.arrival true = some a → exec .putDelivery s = .next (s.arrive a).wake) ∧
    (∀ a : Arrival, s.cue.yes = true → s.cue.arrival true = some a → (s.inbox.filter fun x => x.port == a.port).length < 4096 →
      s.logStops a.port = false →
      let t := s.logPacket a.pasid a.port
        (flits ([if a.put then 0 else 1, a.sender, a.tag, a.win, a.off, a.n, a.at_, a.port] ++ a.bad) a.bytes)
      exec .putDelivery s = .next ((({ t with inbox := t.inbox ++ [a] } : State).setStop a.port).deliverAll).wake) ∧
    (∀ r : FabReq, s.fabReq? s.cue.key = some r → r.kind = .put → r.code ≠ 0 →
      exec .putAcknowledgement s = .next (((s.logResponse r.key ((s.route r.codeAt).getD 0) [0, r.code, r.codeAt] []).onCounts r.pasid r.win
        fun c => { c with src := c.src - 1 }).endReq r r.code r.codeAt []).wake) ∧
    (∀ r : FabReq, s.fabReq? s.cue.key = some r → r.kind = .get → s.cue.yes = false → s.cue.nums = [] →
      exec .getRequest s = .next (r.todo.foldl (State.getChunk s.cue.key) s).wake) ∧
    (∀ (r : FabReq) (o port : Nat) (ps : List (Nat × List Byte × Bool)) (w : Window) (t u : State), s.fabReq? s.cue.key = some r →
      r.kind = .get → s.cue.yes = false → s.cue.nums = [o] → r.code = 0 → r.todo.contains o = true → r.host = false →
      s.route o = some port → s.isOwn r.pasid r.target = true → s.window? r.pasid r.win r.refused = (some w, t) →
      w.refuses false r.off r.n = none → readPieces r.far w.base 0 (r.chunk o) t = (.ok ps, u) →
      exec .getRequest s = .next (u.onReq s.cue.key fun q =>
        { q with
          todo := q.todo.filter (· != o), left := q.left ++ [o]
          data := q.data ++ [⟨o, ps.flatMap fun p => p.2.1, (ps.filter fun p => p.2.2).map fun p => p.1 / 16 - o / 16⟩] }).wake) ∧
    (∀ a : Arrival, s.cue.yes = true → s.cue.arrival false = some a → exec .getRequest s = .next (s.arrive a).wake) ∧
    (∀ r : FabReq, s.fabReq? s.cue.key = some r → r.kind = .get → r.host = true → r.data = [] → r.todo = [] → r.left = [] →
      exec .getResponse s = .next (s.endReq r r.code r.codeAt []).wake) ∧
    (∀ (q r : FabReq) (t : State), s.fabReq? s.cue.key = some q → q.kind = .nmo → q.result = none → q.code = 0 → s.cue.yes = false →
      s.placeNmo q = (some r, t) → t.lostNode r.pa = false → t.portWaits (nodeOf r.pa) 1 = false →
      let x := (t.nodeTakes r.pasid r.pa t.slot true [4, t.slot, reqTag r.key r.pa, r.pa, r.arena, r.asize] r.parm).nodeAct
        r.pa r.arena r.asize r.parm
      exec .nmoRequest s = .next ((x.2.keepResult ⟨nodeOf r.pa, x.2.slot, reqTag r.key r.pa, x.1⟩).onReq r.key fun y =>
        { y with result := some x.1 }).wake) ∧
    (∀ r : FabReq, s.fabReq? s.cue.key = some r → r.kind = .nmo → r.code ≠ 0 →
      exec .nmoResponse s = .next (s.endReq r r.code r.codeAt []).wake) ∧
    (∀ (r : FabReq) (res : List DWord) (st b off : Nat), s.fabReq? s.cue.key = some r → r.kind = .nmo → r.code = 0 →
      r.result = some (res, st) → r.nores = false → r.ord.getLsbD 0 = false →
      s.localVia r.slots r.block (BitVec.ofNat 64 (r.win + 0x50)) 40 = .ok (b, off) → s.localTransit b off = false →
      s.segmentWaits b off = false →
      let t := (s.logResponse r.key (nodeOf r.pa) (2 :: st :: res.map fun w => w.toNat) []).vaultWrite b off
        ((res ++ [BitVec.ofNat 64 st]).flatMap fun w => natBytes 8 w.toNat)
      exec .nmoResponse s = .next (([granOf off, granOf off + 1].foldl
        (fun (u : State) g => (u.poisonVault b g false).fed b g) t).endReq r 0 0 []).wake) ∧
    (∀ port tag pasid pa wide data e : Nat, s.cue.yes = true → s.cue.nums = [port, tag, pasid, pa, 0, wide, data, e] →
      s.nodeFull (nodeOf pa) port = false →
      let t := s.nodeTakes pasid pa port false [5, port, tag, pa, 0, wide, data, e] []
      exec .poolAtomicRequest s =
        .next (t.joinWindow pa (wide == 1) ⟨port, t.cycle, pasid, 0, tag, BitVec.ofNat 64 pa, BitVec.ofNat 64 data⟩).wake) ∧
    (∀ c : Combine, (s.combine.find? fun x => x.pa == s.cue.key) = some c → (∀ r ∈ c.reqs.head?, r.since + 64 ≤ s.cycle) →
      exec .windowOfArrivalEnd s = .next ((c.reqs.mergeSort fun a b =>
          decide (a.since < b.since) || (a.since == b.since && decide (a.port ≤ b.port))).foldl (State.performAdd c.pa c.wide)
        { s with combine := s.combine.filter (· != c) }).wake) ∧
    (∀ it : CopyItem, s.item? s.cue.key = some it → it.kind = .coll → s.cue.yes = false →
      exec .collectiveChunk s = .next (s.collTurn s.cue.key (s.cue.nums != [])).wake) ∧
    (∀ (pasid seq chunk member digest : Nat) (bad : List Nat), s.cue.yes = true →
      s.cue.nums = pasid :: seq :: chunk :: member :: digest :: bad → s.logStops (chunk % 32) = false →
      let t := s.logPacket pasid (chunk % 32) (flits ([2, seq, chunk, member, digest] ++ bad) s.cue.bytes)
      exec .collectiveChunk s = .next (State.wake
        { t with chunks := t.chunks ++ [⟨pasid, seq, chunk, member, digest, s.cue.bytes, bad⟩] })) ∧
    (∀ pa : Nat, s.cue.yes = true → s.cue.nums = [pa] → pa < 2 ^ 39 → pa + s.cue.bytes.length ≤ 2 ^ 39 →
      exec .hostMemoryAccess s = .next (State.wake ((pieces 16 pa s.cue.bytes.length).foldl (fun (u : State) p =>
        let v := u.rootWrite 0 p.1 ((s.cue.bytes.drop (p.1 - pa)).take p.2)
        if p.2 = 16 then v.setPoison p.1 false else v) s))) ∧
    (s.cue.key < 32 → s.ports.contains s.cue.key = false →
      let t := ((({ s with ports := insertNat s.cue.key s.ports, stops := s.stops.filter (· != s.cue.key) } : State).resend s.cue.key).logError ErrKind.port 0 [s.cue.key])
      let u := (t.fabric.filter fun r => r.kind == .nmo && t.lostNode r.pa && r.result.isNone).foldl
        (fun (u : State) r => u.fabFail r.key 0x14 r.addr) t
      exec .portFailure s = .next ((u.colours.filter fun c => c.st != .free &&
        !(c.markers.contains s.cue.key && c.markers.contains (32 + s.cue.key))).foldl (fun (u : State) c => u.failColour c.pasid c.num 3) u).wake)

/-- R367 to R376: queues are read, and their packets start, launch, wait and complete; the arbiter visits a queue; prologues end. -/
def Obligations.QueueEvents : Prop :=
  ∀ s : State,
    (∀ (c : Context) (t : State), s.ctx? s.cue.key = some c → c.qdue ≤ s.cycle → c.qbase ≠ 0 → c.begun = true →
      State.readTable c s.cue.yes (List.range 64) false s.podAcquire = (false, t) →
      exec .queueTableRead s = .next ((t.onCtx c.pasid fun x => { x with qdue := t.cycle + 800000 }).arbitrate).wake) ∧
    (∀ (pasid num : Nat) (more : List Nat) (q : Queue) (t : State), s.cue.nums = pasid :: num :: more → s.queue? pasid num = some q →
      s.mayScan q = true → q.asked = true → q.valid = true → s.podAcquire.deviceRead pasid q.widx 8 s.cue.yes = (.lost, t) →
      exec .scannerRead s =
        .next (((t.stopQueue pasid num 0x03 q.rd).onQueue pasid num fun x =>
          { x with asked := false, due := t.cycle + min 800000 (800 * 2 ^ x.k) }).arbitrate).wake) ∧
    (∀ (pasid num : Nat) (q : Queue) (bs : List Byte) (t : State), s.cue.nums = [pasid, num] → s.queue? pasid num = some q →
      s.mayScan q = true → q.asked = false → q.valid = true → q.stopped = false → q.pasid = pasid → q.num = num →
      let n := if s.scans.1 = s.cycle then s.scans.2 + 1 else 1
      ({ s with scans := (s.cycle, n) } : State).podAcquire.deviceRead pasid q.widx 8 s.cue.yes = (.bytes bs, t) →
      q.rd ≤ leNat bs → leNat bs ≤ q.rd + 2 ^ q.log2n → leNat bs - q.rd ≤ 2 ^ 64 →
      let k := if q.rd < leNat bs then 0 else min 10 (q.k + 1)
      let u := t.onQueue pasid num fun x => { x with k := k, due := t.cycle + min 800000 (800 * 2 ^ k), asked := false }
      exec .scannerRead s = .next ((State.readPackets pasid num s.cue.yes (leNat bs - q.rd) u).arbitrate).wake) ∧
    (∀ (q : Queue) (p : Packet), s.packet? s.cue.nums = some (q, p) → p.type = 0 → s.starts q p = true →
      exec .nop s = .next ((s.dropPacket q.pasid q.num p.idx).arbitrate).wake) ∧
    (∀ (q : Queue) (p : Packet), s.packet? s.cue.nums = some (q, p) → p.started = true →
      (q.packets.find? fun x => x.started && x.type == 1 && x.launch.isNone).map (·.idx) = some p.idx →
      exec .launch s = .next ((s.submit q p false).2.arbitrate).wake) ∧
    (∀ (q : Queue) (p : Packet), s.packet? s.cue.nums = some (q, p) → p.started = true → p.type = 2 → p.pro = none → p.launch = none →
      s.updating = false → (s.groups.any fun g => g.front && g.locid.toNat == p.core) = false →
      ∃ (t : State) (b : Block) (g : Group), exec .indirect s = .next (t.onPacket q.pasid q.num p.idx fun x =>
          { x with pro := some s.nextKey }).wake ∧ t.nextKey = s.nextKey + 1 ∧ b ∈ t.blocks ∧ b.key = s.nextKey ∧ b.ngroups = 1 ∧
        g ∈ t.others ∧ g.block = s.nextKey ∧ g.front = true ∧ g.act = 1 ∧ g.sregs[2] = BitVec.ofNat 64 p.value) ∧
    (∀ (q : Queue) (p : Packet) (g : Group) (k n : Nat) (act : State → State), s.packet? s.cue.nums = some (q, p) →
      p.pro = some k → s.prologueCode p = some n → s.group? k 0 = some g →
      (act = fun t => (t.forget g.block).arbitrate) →
      let t := s.release (s.coreOfGroup g) q.pasid 0 5
      (n = 0 ∨ n = 2 ∧ p.runs = 65535 →
        exec .prologueLaunch s = .next (if (t.submit q p false).1 then act (t.submit q p false).2 else (t.submit q p false).2).wake) ∧
      (n = 1 → exec .prologueCancel s = .next (act (t.dropPacket q.pasid q.num p.idx)).wake) ∧
      (n = 2 → p.runs ≠ 65535 →
        exec .prologueRepeat s = .next (if (t.submit q p true).1 then act (t.submit q p true).2 else (t.submit q p true).2).wake)) ∧
    (∀ (q : Queue) (p : Packet) (b : Block), s.packet? s.cue.nums = some (q, p) → p.pro.bind s.block? = some b → 1048576 < b.issued →
      exec .prologueBudgetExceeded s = .next ((s.prologueFails q p 0x04).arbitrate).wake) ∧
    (∀ (q : Queue) (p : Packet) (pa : Nat) (attr : BitVec 2) (leaf size : Nat) (t : State), s.packet? s.cue.nums = some (q, p) →
      p.type = 3 → s.starts q p = true →
      s.translate deviceUnit q.pasid (BitVec.ofNat 64 p.addr) .engineWrite = (.ok pa attr leaf size, t) →
      exec .signal s = .next (((t.deviceWrite q.pasid pa (natBytes 8 p.value)).dropPacket q.pasid q.num p.idx).arbitrate).wake) ∧
    (∀ (q : Queue) (p : Packet), s.packet? s.cue.nums = some (q, p) → p.type = 4 → s.starts q p = true →
      let t := s.onPacket q.pasid q.num p.idx fun x => { x with started := true }
      ((∀ u, t.deviceRead q.pasid p.addr 8 true ≠ (.lost, u)) → exec .waitge s = .next t.wake) ∧
      ∀ u, t.deviceRead q.pasid p.addr 8 true = (.lost, u) → s.cue.yes = true →
        exec .waitge s = .next ((u.stopQueue q.pasid q.num 0x03 p.idx).arbitrate).wake) ∧
    (s.arbitrate.arbiter = [] → exec .arbiterVisit s = .next s.arbitrate.wake) ∧
    (∀ pasid num : Nat,
      let t := s.arbitrate
      let u := t.onQueue pasid num fun q =>
        { q with deficit := min (q.deficit + ((q.weight * 2 ^ 23 : Nat) : Int)) ((q.weight * 2 ^ 24 : Nat) : Int) }
      let v := State.startPackets pasid num (((u.queue? pasid num).map fun q => q.packets.length).getD 0 + 1) u
      t.arbiter[t.arbAt % max 1 t.arbiter.length]? = some (pasid, num) →
      ((∀ q ∈ v.queue? pasid num, v.activeQueue q = true) → (v.queue? pasid num).isSome = true →
        exec .arbiterVisit s = .next (State.wake (State.arbitrate { v with arbAt := t.arbAt % t.arbiter.length + 1 }))) ∧
      ((∀ q ∈ v.queue? pasid num, v.activeQueue q = false) →
        exec .arbiterVisit s = .next (State.wake (State.arbitrate
          { (v.onQueue pasid num fun q => { q with deficit := 0 }) with
            arbiter := v.arbiter.filter (· != (pasid, num)), arbAt := t.arbAt % t.arbiter.length })))) ∧
    (∀ (pasid num idx : Nat) (q : Queue), s.cue.nums = [pasid, num, idx] → s.queue? pasid num = some q → s.serving = true →
      exec .queueRestart s = .next ((((s.onQueue pasid num fun x =>
        { x with stopped := false, rd := idx, packets := x.packets.filter (·.started) }).deviceStore pasid q.qstat
          (natBytes 8 0)).deviceStore pasid q.ridx (natBytes 8 idx)).arbitrate).wake)

/-- R341, R386, R395 to R409: blocks are placed, groups complete, and blocks are drained, saved, flushed and restored. -/
def Obligations.PlacementAndPreemption : Prop :=
  ∀ s : State,
    (s.returns.any s.comesBack = false → exec .blockPlacement s = .next ((s.placeNext [] s.launches).getD s).wake) ∧
    (∀ (l : Launch) (ls : List Launch) (spots : List (Nat × Spot)) (occ : Occ), s.returns = [] → s.launches = l :: ls → s.launchHeld l = false →
      l.unit ≠ [] → placeUnit (s.site l.pasid) (s.clusters l.pasid) (l.unit.map l.want) (s.setKeys l) s.occ = some (spots, occ) →
      exec .blockPlacement s = .next (spots.foldl (fun (u : State) x => u.installBlock ((u.launch? l.key).getD l) x.1 x.2) s).wake) ∧
    (∀ (g : Group) (l : Launch), s.group? s.cue.block s.cue.gidx = some g → s.isResident g.block = true → g.front = false →
      s.launchOf g = some l →
      exec .groupCompletion s = .next (if l.torn then s.tearDown l else s.completeGroup g).wake) ∧
    (∀ (pasid : Nat) (c : Context), s.cue.yes = false → s.serving = true → s.cue.nums = [pasid] → s.ctx? pasid = some c →
      exec .preemptionRequest s = .next (s.preemptAll pasid none (s.cue.key % 4)).wake) ∧
    (∀ (b : Block) (k : Nat), s.block? s.cue.key = some b → b.res = .draining 0 k → s.completing s.cue.key = false →
      exec .drainExhausted s = .next (s.saveTogether s.cue.key none).wake) ∧
    (∀ (b : Block) (n k : Nat), s.block? s.cue.key = some b → b.res = .draining n k → k + 4096 ≤ s.hbeat.toNat →
      s.completing s.cue.key = false → exec .drainTimeout s = .next (s.saveTogether s.cue.key none).wake) ∧
    (∀ (b : Block) (n k : Nat), s.block? s.cue.key = some b → b.res = .draining n k → s.completing s.cue.key = true →
      exec .drainExhausted s = .next s.wake ∧ exec .drainTimeout s = .next s.wake) ∧
    (∀ b : Block, s.cue.yes = true → s.pressed s.cue.key = true →
      (s.blocks.filter fun x => x.onCores && (s.groupsOn s.cue.key).any fun g => g.block == x.key).getLast? = some b →
      exec .preemptionRequest s = .next (s.saveTogether b.key (some 2)).wake) ∧
    (∀ b : Block, s.block? s.cue.key = some b → s.completing s.cue.key = false → s.cutHolds b.pasid = false →
      s.holdsGranules s.cue.key = false →
      (b.res = .saving → s.saveReady s.cue.key = true → exec .blockSave s = .next (s.saveBlock s.cue.key b.why).wake) ∧
      (b.res = .suspending → s.saveReady s.cue.key = true → exec .blockSave s = .next (s.saveBlock s.cue.key 1).wake) ∧
      (b.res = .flushing → s.stopped s.cue.key = true → exec .blockSave s = .next (s.flushBlock s.cue.key).wake)) ∧
    (∀ b : Block, s.block? s.cue.key = some b → (s.completing s.cue.key = true ∨ s.cutHolds b.pasid = true) →
      exec .blockSave s = .next s.wake) ∧
    (∀ b : Block, s.block? s.cue.key = some b → s.cue.yes = false → exec .blockRestore s = .next (s.restoreAll b).wake) ∧
    (∀ (b : Block) (t : State), s.block? s.cue.key = some b → s.cue.yes = false → s.heldOff b = false → b.children = 0 → b.res = .saved →
      s.returns.head? = some b.key →
      (s.blocks.filter fun x => (s.together [b.key]).contains x.key && !s.awaits x) = [b] → s.restoreBlock b.key = some t →
      exec .blockRestore s = .next t.wake)

/-- R437 to R457: a colour is claimed, cut, marked, swept, streamed and closed, or fails. -/
def Obligations.SnapshotEvents : Prop :=
  ∀ s : State,
    (∀ (pasid : Nat) (k : Nat) (t : State), s.serving = true → s.cue.key = 0 → s.cue.nums = [pasid] → s.isOwn pasid 0 = true →
      snapDescFault s.cue.bytes = none → s.claim pasid s.cue.bytes none true = some (k, t) →
      exec .snapshotClaim s =
        .next (State.wake { t with mgmt := { t.mgmt with replies := t.mgmt.replies ++ [⟨"SNAPSHOT_CLAIM", 0, natBytes 1 k⟩] } })) ∧
    (∀ (pasid num n : Nat) (c : Colour), s.cue.nums = [pasid, num] → s.colour? pasid num = some c → c.st = .cutting → c.cut = false →
      c.cutDue = some n → n ≤ s.hbeat.toNat → s.cutReady pasid = true →
      exec .snapshotCut s = .next (s.takeCut c).settleColours.wake) ∧
    (∀ (pasid num p at_ : Nat) (c : Colour) (x : Context), s.cue.nums = [pasid, num, c.seq, p, at_] → num < 2 → s.ctx? pasid = some x →
      s.colour? pasid num = some c → c.st ≠ .free →
      exec .markerArrival s = .next (s.takeMarker c p at_).settleColours.wake) ∧
    (∀ (pasid num seq p : Nat) (c d : Colour) (x : Context), s.cue.nums = [pasid, num, seq, p, 0] → num < 2 → s.ctx? pasid = some x →
      s.colour? pasid num = some c → c.seq < seq →
      let t := (s.failColour pasid num 3).beginColour pasid num seq s.cue.bytes none false
      t.colour? pasid num = some d → d.st ≠ .free → d.seq = seq →
      exec .markerArrival s = .next (t.takeMarker d p 0).settleColours.wake) ∧
    (∀ (pasid num : Nat) (c : Colour) (r : SnapRef), s.cue.nums = [pasid, num] → s.colour? pasid num = some c →
      (s.unpreserved c)[s.cue.key]? = some r → s.cue.yes = false →
      (∀ k : Nat, s.stager r = some k → s.stageFull k r.size = false) →
      exec .eaveSweep s = .next (s.preserveRef c r).settleColours.wake) ∧
    (∀ (pasid num : Nat) (c : Colour) (r : SnapRec), s.cue.nums = [pasid, num] → s.colour? pasid num = some c → c.st ≠ .free →
      c.cut = true → s.updating = false → s.cue.yes = false → c.recs[s.cue.key]? = some r → r.out = none →
      s.unstaged c r.ref = false → s.streamerFree (s.streamerOf c r) = true → s.isOwn pasid 0 = true →
      exec .streamerWrite s = .next (s.streamRecord c s.cue.key r none).settleColours.wake) ∧
    (∀ (pasid num : Nat) (c : Colour), s.cue.nums = [pasid, num] → s.colour? pasid num = some c → c.st = .closing →
      c.recs.all (·.out.isSome) = true → (List.range 8).all s.streamerFree = true → s.updating = false → s.cue.yes = true →
      s.isOwn pasid 0 = false →
      exec .colourClosing s = .next (s.onColour pasid num fun _ =>
        { c with st := .free, recs := [], bytes := 4096 + c.bytes, failed := false, code := 0 }).wake) ∧
    (∀ pasid num code : Nat, s.cue.nums = [pasid, num, code] → 1 ≤ code → code ≤ 5 →
      exec .snapshotFailure s = .next (s.failColour pasid num code).wake)

/-- R461 to R475: errors are logged and contained, pages scrubbed, resets taken, and the device gated or released. -/
def Obligations.ReliabilityEvents : Prop :=
  ∀ s : State,
    exec .correctedError s = .next (s.logError ErrKind.corrected s.cue.key s.cue.nums).wake ∧
    exec .uncorrectableError s =
      .next ((s.storageError s.cue.block s.cue.gidx s.cue.yes s.cue.nums).logError ErrKind.uncorrectable s.cue.key s.cue.nums).wake ∧
    (s.mgmt.quarantine.contains s.cue.key = true → s.pageHeld s.cue.key = false → s.cue.yes = false → s.cue.key < vaultPage 0 0 →
      let left := s.mgmt.quarantine.filter (· != s.cue.key)
      exec .pageScrub s = .next (State.wake { s with
        mgmt := { s.mgmt with quarantine := left, degraded := decide (4096 ≤ left.length + s.mgmt.failed.length) }
        mem := s.mem.write s.cue.key (zeros 4096)
        poison := s.poison.filter fun g => g / 256 != s.cue.key / 4096 })) ∧
    (s.cue.yes = false → exec .opportunisticReplay s = .next s.wake) ∧
    (∀ (x : Replayed) (n : Nat), s.cue.yes = true →
      (s.replayQ.filter fun y => y.part == s.cue.key)[(s.cue.nums.head?).getD 0]? = some x →
      n = ((s.mgmt.replays ++ [(s.cue.key, s.hbeat.toNat)]).filter fun y =>
        y.1 == s.cue.key && decide (s.hbeat.toNat ≤ y.2 + 2 ^ 20)).length →
      let t := s.logError ErrKind.replay 0 [s.cue.key, x.word.toNat]
      let u : State := { t with mgmt := { t.mgmt with replays := s.mgmt.replays ++ [(s.cue.key, s.hbeat.toNat)] } }
      let on := ((s.groups.filter fun g => !g.front && s.isResident g.block && s.partitionOf g == s.cue.key).map fun g => g.block).eraseDups
      ((n < 8 ∨ s.mgmt.retired.contains s.cue.key = true) → exec .opportunisticReplay s = .next u.wake) ∧
      (8 ≤ n → s.mgmt.retired.contains s.cue.key = false →
        exec .opportunisticReplay s = .next (on.foldl (fun (v : State) k => v.saveTogether k (some 0))
          { u with mgmt := { u.mgmt with retired := s.mgmt.retired ++ [s.cue.key] } }).wake)) ∧
    (s.mgmt.update = .idle →
      let t := s.logError ErrKind.ridge 0 [s.hbeat.toNat]
      let u : State := { t with mgmt := { t.mgmt with ridge := some s.hbeat.toNat, pair := (s.mgmt.pair.1, s.mgmt.pair.1) } }
      ((∀ x ∈ s.mgmt.ridge, x + 2 ^ 22 < s.hbeat.toNat) → exec .ridgeMismatch s = .next u.wake) ∧
      (∀ x : Nat, s.mgmt.ridge = some x → s.hbeat.toNat ≤ x + 2 ^ 22 →
        exec .ridgeMismatch s = .next (u.containEvery.reply "RIDGE_MISMATCH" 1 []).wake)) ∧
    (∀ (a : Nat) (core pasid view pa : Nat), s.cue.nums = [4, core, pasid, view, pa] →
      a = pa / 16 → (∀ c ∈ s.l1, c.unit = core → c.pasid = pasid → c.view = view → c.pa / 16 = a → c.dirty = false) → s.colours = [] →
      exec .uncorrectableError s = .next ((State.logError
        { s with
          l1 := s.l1.filter fun c => !(c.unit == core && (c.pasid == pasid && c.view == view && c.pa / 16 == a))
          mended := s.mended.filter (· != (core, granOf pa)) }
        ErrKind.uncorrectable s.cue.key s.cue.nums).wake)) ∧
    (∀ r : Nat, s.cue.nums = [0, r] → r < 128 →
      let t := s.onGroup s.cue.block s.cue.gidx fun g => { g with poison := .vec r :: g.poison.filter (· != .vec r) }
      exec .uncorrectableError s = .next ((((t.colours.filter fun c => c.st != .free &&
        (t.unpreserved c).contains (.row s.cue.block s.cue.gidx r)).foldl (fun (u : State) c => u.failColour c.pasid c.num 5) t).logError
          ErrKind.uncorrectable s.cue.key s.cue.nums).wake)) ∧
    (∃ t, exec .coldReset s = .next t ∧ t.mem = s.mem.filter (fun c => decide (2 ^ 39 ≤ c.1)) ∧ t.ctxs = [] ∧ t.launches = [] ∧
      t.blocks = [] ∧ t.others = [] ∧ t.cur = Group.idle ∧ t.hbeat = 0 ∧ t.l1 = [] ∧ t.l2 = [] ∧ t.tlb = []) ∧
    exec .warmReset s = .next s.warmReset.wake ∧
    (∀ c : Context, (s.ctxs.find? fun x => x.vf == s.cue.key) = some c →
      exec .functionLevelReset s = .next (s.removeContext c 0x06 false true).wake) ∧
    exec .thermalTrip s = .next (State.wake { s.warmReset with mgmt := { s.warmReset.mgmt with tripped := true } }) ∧
    exec .throttle s = .next (State.wake { s with mgmt := { s.mgmt with gated := s.cue.yes } }) ∧
    exec .tripRelease s = .next (State.wake { s with mgmt := { s.mgmt with tripped := false } })

/-- R470, R473, R475: each SPDM request is answered, in the order that the exchange has, but not while firmware updates itself or a thermal trip holds
the package. The bytes of the answers are PRESUMED from SPDM itself (log 73). -/
def Obligations.SpdmEvents : Prop :=
  ∀ s : State,
    let at_ (n : Nat) (t : State) : State := { t with mgmt := { t.mgmt with spdm := n } }
    (s.updating = true ∨ s.mgmt.tripped = true → ∀ i ∈ [Instr.getVersion, .getCapabilities, .negotiateAlgorithms, .getDigests,
      .getCertificate, .challenge, .getMeasurements], exec i s = .next s.wake) ∧
    (s.updating = false → s.mgmt.tripped = false →
      exec .getVersion s =
        .next (({ s with mgmt := { s.mgmt with spdm := 1, script := [] } } : State).spdmReply "GET_VERSION" 0x84 0 versionReply).wake ∧
      (1 ≤ s.mgmt.spdm →
        exec .getCapabilities s = .next ((at_ (max 2 s.mgmt.spdm) s).spdmReply "GET_CAPABILITIES" 0xE1 0 capabilitiesReply).wake) ∧
      (2 ≤ s.mgmt.spdm →
        exec .negotiateAlgorithms s = .next ((at_ 3 s).spdmReply "NEGOTIATE_ALGORITHMS" 0xE3 0 algorithmsReply).wake) ∧
      (3 ≤ s.mgmt.spdm →
        exec .getDigests s = .next (s.spdmReply "GET_DIGESTS" 0x81 0 (sha3 Config.certChain)).wake ∧
        exec .getCertificate s = .next (s.spdmReply "GET_CERTIFICATE" 0x82 0 Config.certChain).wake ∧
        exec .challenge s =
          .next (s.spdmReply "CHALLENGE" 0x83 0 (Config.ed448Sign (sha3 (s.mgmt.script ++ s.cue.bytes)))).wake ∧
        (∀ blocks : List Byte, s.mgmt.measured ((s.cue.nums.head?).getD 0xFF) = some blocks →
          exec .getMeasurements s = .next (s.spdmReply "GET_MEASUREMENTS" 0xE0 0
            (blocks ++ Config.ed448Sign (sha3 (s.mgmt.script ++ s.cue.bytes ++ blocks)))).wake)) ∧
      (s.mgmt.measured 0 = some (natBytes 1 5) ∧
        ∀ k, 1 ≤ k → k ≤ 5 → s.mgmt.measured k = some (natBytes 1 k ++ s.mgmt.block k)) ∧
      s.mgmt.measured 0xFF = some ([1, 2, 3, 4, 5].flatMap fun k => natBytes 1 k ++ s.mgmt.block k))

/-- R472: a live update stages an image, quiesces, hands over, and commits with its first heartbeat or rolls back. -/
def Obligations.UpdateEvents : Prop :=
  ∀ s : State,
    (s.serving = true →
      let t := s.compared
      let put (m : Management) : Management := { m with update := if m.passes t.cue.bytes then .staged else .idle }
      (t.mgmt.active = 0 → exec .imageStage s = .next (State.wake { t with mgmt := put { t.mgmt with image1 := t.cue.bytes } })) ∧
      (t.mgmt.active ≠ 0 → exec .imageStage s = .next (State.wake { t with mgmt := put { t.mgmt with image0 := t.cue.bytes } })) ∧
      (t.mgmt.update = .staged →
        exec .firmwareUpdate s = .next (State.wake { t with mgmt := { t.mgmt with update := .quiescing } }))) ∧
    (s.serving = false → exec .imageStage s = .next s.wake ∧ exec .firmwareUpdate s = .next s.wake) ∧
    (s.mgmt.tripped = false →
      (s.mgmt.update = .quiescing → s.atBoundary = true →
        exec .handover s = .next (State.wake { s with mgmt := { s.mgmt with update := .handing } })) ∧
      (∀ (emu : Nat) (page : List Nat), s.mgmt.update = .handing → s.cue.yes = false → s.cue.nums = emu :: page →
        exec .handover s = .next (State.wake { s with mgmt :=
          { s.mgmt with
            update := .trial
            handover := s.cue.bytes
            trial := s.hbeat.toNat
            newEmu := BitVec.ofNat 64 emu &&& 0xFFFFFFC0
            newPage := page.flatMap (natBytes 8) } })) ∧
      (s.mgmt.update = .handing → s.cue.yes = true →
        exec .handover s = .next (State.wake { s with mgmt :=
          { s.mgmt with update := .idle, handover := s.cue.bytes, newEmu := s.mxemu } }))) ∧
    (s.mgmt.update = .trial → s.hbeat.toNat ≤ s.mgmt.trial + 65536 →
      let t : State := { s with mgmt := { s.mgmt with update := .idle, active := 1 - s.mgmt.active, updates := s.mgmt.updates + 1 } }
      ((s.mgmt.newEmu = s.mxemu ∨ ∃ b ∈ s.blocks, b.resident = true) → exec .trialHeartbeat s = .next t.wake) ∧
      (s.mgmt.newEmu ≠ s.mxemu → (∀ b ∈ s.blocks, b.resident = false) →
        let u : State := { t with mxemu := s.mgmt.newEmu, mgmt := { t.mgmt with page := s.mgmt.newPage } }
        exec .trialHeartbeat s = .next (u.ctxs.foldl (fun (v : State) c =>
          v.firmwarePage c.pasid c.mxfmt.toNat (formatPageBytes v.mxemu v.mgmt.page)) u).wake)) ∧
    (s.mgmt.update = .trial → (s.cue.yes = true ∨ s.mgmt.trial + 65536 < s.hbeat.toNat) →
      exec .updateRollback s = .next (State.wake { s with mgmt := { s.mgmt with update := .idle, newEmu := s.mxemu } }))

/-- R101, R409, R467, R476, R478, R479: the management commands act and reply where firmware serves them. When an SPDM session stands, what
RESTORE answers where a block is not saved, and the forms of the answers are this model's choices (logs 61, 73, 75). -/
def Obligations.ManagementCommands : Prop :=
  ∀ s : State,
    exec .hdmDecoderCommit s = .next (({ s with hdmNext := pairsOf s.cue.nums } : State).readDecoders).wake ∧
    (s.serving = false → ∀ i ∈ [Instr.powerCap, .telemetry, .errorLog, .quarantineList, .imageTransfer, .create, .destroy, .restore],
      exec i s = .next s.wake) ∧
    (s.serving = true → s.agrees = true →
      (∀ w : Nat, s.cue.nums = [w] → 1500 ≤ w → w ≤ 3000 → w % 50 = 0 →
        exec .powerCap s = .next (State.wake (({ s with mgmt := { s.mgmt with cap := w } } : State).reply "POWER_CAP" 0 []))) ∧
      exec .telemetry s = .next (s.reply "TELEMETRY" 0 ([s.mgmt.cap, if s.mgmt.gated then 1 else 0, if s.mgmt.degraded then 1 else 0,
        s.hbeat.toNat].flatMap (natBytes 8) ++ s.cue.bytes)).wake ∧
      exec .errorLog s = .next (s.reply "ERROR_LOG" 0
        ((s.mgmt.errors.flatMap fun e => counted (e.kind :: e.pasid :: e.nums)).flatMap (natBytes 8))).wake ∧
      exec .quarantineList s = .next (s.reply "QUARANTINE_LIST" (if s.mgmt.degraded then 1 else 0)
        ((s.mgmt.quarantine ++ s.mgmt.failed).flatMap (natBytes 8))).wake ∧
      (∀ (pasid off n : Nat) (c : Context), s.cue.nums = [0, pasid, off, n] → s.ctx? pasid = some c → off + n ≤ c.saveSize →
        exec .imageTransfer s = .next (s.reply "IMAGE_TRANSFER" 0 (s.mem.read (c.saveBase + off) n)).wake) ∧
      (s.cue.nums = [] → s.cue.yes = true → (s.dying.any fun x => x.1 == s.cue.key) = false →
        exec .create s = .next (s.onCtx s.cue.key fun c => { c with begun := true }).wake) ∧
      (∀ a : Nat, s.cue.nums = [a] → s.ctxs ≠ [] →
        let bs := s.mem.read (hostBase + a) 128
        let place := (List.range (field bs 0x10 4 % 128 + 1)).map fun k =>
          PlEntry.parse (s.mem.read (hostBase + field bs 0x18 8 + 16 * k) 16)
        let c := Context.parse bs place s.cycle
        exec .create s =
          .next ((if s.createStatus bs c = 0 then s.addContext c else s).reply "CREATE" (s.createStatus bs c) []).wake) ∧
      (∀ c : Context, s.ctx? s.cue.key = some c → exec .destroy s = .next (s.removeContext c 0x06 true true).wake) ∧
      (s.ctx? s.cue.key = none → exec .destroy s = .next (s.reply "DESTROY" 2 []).wake) ∧
      (∀ (pasid off : Nat) (c : Context), s.cue.nums = [pasid, 0, off] → s.ctx? pasid = some c →
        placementBad (Shape.of c.shape) c.place = false →
        let image := s.mem.read (c.saveBase + off) (min (field (s.mem.read (c.saveBase + off) 16) 8 8) (c.saveSize - off))
        let t := (s.onCtx pasid fun x => { x with place := c.place }).loadContext pasid image ownParts
        (imageStatus c.shape image ≠ 0 → exec .restore s = .next (s.reply "RESTORE" (imageStatus c.shape image) []).wake) ∧
        (imageStatus c.shape image = 0 → (∃ b ∈ s.blocks, b.pasid = pasid ∧ b.res ≠ .saved) →
          exec .restore s = .next (s.reply "RESTORE" 1 []).wake) ∧
        (imageStatus c.shape image = 0 → (∀ l ∈ s.launches, l.pasid ≠ pasid) → (∀ b ∈ s.blocks, b.pasid ≠ pasid) → t.enginesFit = true →
          exec .restore s = .next (t.restored pasid).wake)) ∧
      (∀ (pasid off table : Nat) (c : Context) (place : List PlEntry), s.cue.nums = [pasid, 0, off, table] → s.ctx? pasid = some c →
        place = (List.range (c.shape.toNat % 128 + 1)).map (fun k => PlEntry.parse (s.mem.read (hostBase + table + 16 * k) 16)) →
        placementBad (Shape.of c.shape) place = false →
        imageStatus c.shape (s.mem.read (c.saveBase + off) (min (field (s.mem.read (c.saveBase + off) 16) 8 8) (c.saveSize - off))) = 0 →
        (∃ b ∈ s.blocks, b.pasid = pasid) → (∀ b ∈ s.blocks, b.pasid = pasid → b.res = .saved) →
        exec .restore s = .next (State.restored { s.onCtx pasid (fun x => { x with place := place }) with
          preempts := s.preempts.filter fun p => p.pasid != pasid } pasid).wake))

/-! ## Words and steps -/

/-- R41 to R51, R65 to R69: decoding the bytes of a well-formed instruction gives the instruction with all its fields, whatever follows; and
encoding what a word decodes to gives the word's own bytes, so that no bit of a word is dropped. -/
def Obligations.EncodingAgrees : Prop :=
  (∀ (i : Instr) (rest : List Byte), i.wf = true → i.isWord = true → decode (encode i ++ rest) = .ok (i, rest)) ∧
    ∀ w : DWord, encode (decodeWord w) = leBytes (lengthOf w) w

/-- Words that the spec writes out, one or more of each length and family, with what they stand for. -/
def Obligations.DecodedWords : Prop :=
  decodeWord 0x4930 = .faddF32_16 4 9 ∧
  decodeWord 0x2146 = .trap16 0x21 ∧
  decodeWord 0x0726 = .brk16 7 ∧
  decodeWord 0x040906A1 = .fmulF32_32 ⟨0, true, false, 8, 1, 2, false⟩ ∧
  decodeWord 0x07C12625 = .faddF32_32 ⟨1, true, false, 9, 0x38, 3, false⟩ ∧
  decodeWord 0x001020302820312F = .ffma false ⟨3, true, false, 4, 5, 6, 4, 2, 0, false, 0⟩ ∧
  decodeWord 0x207F20282019A003 = .icmp false ⟨0, false, false, 3, 4, 5, 0xE4, 15, 0, false, 2⟩ ∧
  decodeWord 0x0008602010400403 = .ldg ⟨0, false, false, 8, 2, 4, 0x0C, 1, 0, false, 0⟩ ∧
  decodeWord 0x001038047D190403 = .sld ⟨0, false, false, 0xA3, 0x8F, 0, 0x07, 2, 0, false, 0⟩ ∧
  decodeWord 0x1078001F27200643 = .bar ⟨0, false, false, 0xE4, 0xE4, 3, 0, 15, 0, false, 1⟩ ∧
  decodeWord 0x00F800004F200603 = .bra ⟨0, false, false, 0xE4, 9, 0, 0, 15, 1, false, 0⟩ ∧
  decodeWord 0x0078010F27200683 = .trap ⟨0, false, false, 0xE4, 0xE4, 0x21, 0, 15, 0, false, 0⟩

/-- R41, R183, R378: where the group that the agenda names may issue the word that its core holds at its PC, the step runs exactly the
instruction that the word's bytes decode to, on that group at the cycle at which it is ready; with an empty agenda the same holds of the
group that the default order names (log 1). An event of the agenda is run with its cue. Around it every step only settles what waits:
stores, matrix priorities, containment, the view pools' slots and snapshots (R265, R415, R446, R466). -/
def Obligations.StepRuns : Prop :=
  ∀ s : State,
    (∀ (b k : Nat) (ts : List Turn) (g : Group) (w : DWord) (i : Instr) (rest : List Byte) (t : State),
      s.agenda = .issue b k :: ts → State.group? { s with agenda := ts } b k = some g →
      State.nextWord { s with agenda := ts } g = some w → State.issues { s with agenda := ts } g w = true →
      decode (leBytes 8 w) = .ok (i, rest) →
      exec i (State.seat { s with agenda := ts } g) = .next t → step s = .next (State.settleStep s t)) ∧
    (∀ (b k : Nat) (g : Group) (w : DWord) (i : Instr) (rest : List Byte) (t : State),
      s.agenda = [] → s.defaultTurn = .issue b k → State.group? { s with turn := s.turn + 1 } b k = some g →
      State.nextWord { s with turn := s.turn + 1 } g = some w → State.issues { s with turn := s.turn + 1 } g w = true →
      decode (leBytes 8 w) = .ok (i, rest) → exec i (State.seat { s with turn := s.turn + 1 } g) = .next t →
      step s = .next (State.settleStep s t)) ∧
    (∀ (i : Instr) (c : Cue) (ts : List Turn) (t : State), s.agenda = .event i c :: ts → i.isWord = false →
      exec i { s with agenda := ts, cue := c } = .next t → step s = .next (State.settleStep s t))

/-- R13: the device's behaviour is never left open: from every state the step answers a next state, never a fault or a refusal. -/
def Obligations.StepNeverStops : Prop := ∀ s : State, ∃ t : State, step s = .next t

/-! ## Invariants -/

/-- R446: after every step, where a snapshot is being taken, a colour holds unpreserved no segment of a block that has left its cores, and of
memory outside the vaults nothing but matrix units that exist. -/
def Obligations.SnapshotsStaySound : Prop :=
  ∀ s t : State, s.snapshotsSound → step s = .next t → t.snapshotsSound

/-- The same of the state after reset. -/
def Obligations.SnapshotsSoundAtReset : Prop := State.reset.snapshotsSound

/-- R446: a granule is preserved before anything writes it. Whatever a step does, a state row of a group that a colour still holds
unpreserved after it reads as it did before it; and the write of a vector register row clears the row's bit in both colours. -/
def Obligations.UnpreservedRowsUnwritten : Prop :=
  (∀ s t : State, step s = .next t → (∃ c ∈ t.colours, c.st ≠ .free) →
    ∀ g ∈ t.cur :: t.others, ∀ u ∈ g.unpres.toList, ∀ k < 21, u.getLsbD (128 + k) = true →
      ∃ o : Group, s.group? g.block g.gidx = some o ∧ o.stateRow k = g.stateRow k) ∧
  ∀ (g : Group) (r : Nat) (m : DWord) (v : Lanes Word), r < g.alloc → r < 128 →
    ∀ u ∈ (g.setRow r m v).unpres.toList, u.getLsbD r = false

/-- R34, R330, R474: a cold reset leaves no context, launch, block or group, every cache empty and the heartbeat at zero; and a group starts
with its registers as R34 gives them and with every thread active at the entry address. -/
def Obligations.ResetAndGroupStart : Prop :=
  State.reset.hbeat = 0 ∧ State.reset.cycle = 0 ∧ State.reset.ctxs = [] ∧ State.reset.launches = [] ∧ State.reset.blocks = [] ∧
  State.reset.groups = [] ∧ State.reset.mem = [] ∧ State.reset.l1 = [] ∧ State.reset.l2 = [] ∧ State.reset.homes = [] ∧
  State.reset.icache = [] ∧ State.reset.tlb = [] ∧ State.reset.queues = [] ∧
  ∀ (block gidx alloc age : Nat) (loc : Word) (entry : BitVec 57) (a b : DWord),
    let g := Group.start block gidx loc alloc entry a b age
    (∀ r < 128, ∀ k < 64, (g.vrow r).get k = 0) ∧ g.sreg 0 = a ∧ g.sreg 1 = b ∧ (∀ r, 2 ≤ r → r < 96 → g.sreg r = 0) ∧
    g.preg 0 = allOnes ∧ (∀ r, 1 ≤ r → r < 16 → g.preg r = 0) ∧ (∀ r < 8, g.walker r = Walker.unbound) ∧ g.run = HoldRun.none ∧
    (∀ r < 12, g.counter r = 0) ∧ g.fpst = 0 ∧ (∀ k < 64, g.pc.get k = entry ∧ g.depth.get k = 0) ∧ g.act = allOnes ∧ g.blk = 0 ∧
    g.yld = 0 ∧ g.priv = false

/-! ## Traps -/

/-- R381, R384, R386: a trap that is handled banks the latches and the run's position, fills the banked registers, starts every lane of the
trapped run at XVEC in the handler table and makes the group privileged; nothing else of the program's registers changes. One that is
not handled (XVEC is 0, or the group is privileged already) ends the hold run and the launch, and what the trap would have filled is the group's ETRAP. -/
def Obligations.TrapEntry : Prop :=
  ∀ (s : State) (tr : Trap) (r : Run) (n : Nat), s.cur.front = false →
    let g := s.cur
    let xvec : DWord := ((s.ctxOf g).map (·.xvec)).getD 0
    let x := trapRegs tr r (g.run.pos != 0)
    let t := s.takeTrap tr r n
    (g.priv = false → xvec ≠ 0 →
      t = { s with cur := t.cur } ∧ t.cur.x = x ∧ t.cur.priv = true ∧ t.cur.banked = g.run.bank n ∧ t.cur.run = HoldRun.none ∧
      x.pcrun = r.mask ∧ x.xdepth = r.depth.setWidth 64 ∧ x.xcause = BitVec.ofNat 64 tr.cause ∧
      x.xpc = addrField ((tr.xpc.getD r.pc).setWidth 64) ∧ x.xscr = addrField ((tr.xscr.getD r.pc).setWidth 64) ∧
      x.xaddr = tr.xaddr ∧ x.xinfo = tr.xinfo ∧
      t.cur.handler.act = r.mask ∧ t.cur.handler.yld = 0 ∧
      (∀ k < 64, lane r.mask k = true → t.cur.handler.pc.get k = xvec.setWidth 57 ∧ t.cur.handler.depth.get k = 0) ∧
      t.cur.sameRegisters g ∧ t.cur.cnts = g.cnts ∧ t.cur.flights = g.flights ∧ t.cur.act = g.act ∧ t.cur.blk = g.blk ∧
      t.cur.yld = g.yld) ∧
    (g.priv = false → xvec = 0 →
      t.cur.x = x ∧ t.cur.etrap = some x ∧ t.cur.sameRegisters g ∧ t.cur.priv = false ∧ t.cur.run = HoldRun.none) ∧
    (g.priv = true → t.cur.x = g.x ∧ t.cur.etrap = some x ∧ t.cur.sameRegisters g ∧ t.cur.handler = g.handler ∧
      t.cur.run = HoldRun.none) ∧
    ((g.priv = true ∨ xvec = 0) → ∀ b : Block, s.block? g.block = some b →
      ∀ l ∈ t.launches, l.key = b.launch → l.torn = true)

/-- R382, R389: a return ends the handler entries of its lanes. While one remains active nothing else changes; with the last one the writes of the
PC-table registers are applied, the banked latches and the run's position come back, and the group is no longer privileged, with its
registers as the handler left them. -/
def Obligations.TrapReturn : Prop :=
  ∀ (g : Group) (m : DWord) (n : Nat),
    (g.handler.act &&& ~~~m ≠ 0 →
      g.returnThreads m n = { g with handler := { g.handler with act := g.handler.act &&& ~~~m } }) ∧
    (g.handler.act &&& ~~~m = 0 →
      let t := g.returnThreads m n
      let live (x : DWord) : DWord := x &&& ~~~g.handler.exits
      t.priv = false ∧ t.handler = Handler.none ∧ t.banked = HoldRun.none ∧ t.sameRegisters g ∧ t.cnts = g.cnts ∧ t.flights = g.flights ∧
      t.pc = g.pc ∧ t.depth = g.depth ∧ t.x = g.x ∧
      t.blk = g.blkW.getD (live g.blk) ∧ t.act = g.actW.getD (live g.act) ||| t.blk ∧ t.yld = g.yldW.getD (live g.yld) ∧
      (g.banked.pos = 0 → t.run = HoldRun.none) ∧
      (g.banked.pos ≠ 0 → t.run = g.banked.unbank n))

/-- R65, R385: the checks of an issue, in their order: a deferred fault that is due; a word that no instruction defines; privilege;
operands; latches; the instruction's own faults. Each takes its trap with what R384 gives, and the instruction has no effect but what
finding its own fault leaves (an exhausted barrier of R393, the marks of a walk). -/
def Obligations.FaultOrder : Prop :=
  ∀ (h : Hdr) (p : Plan) (s : State) (r : Run), s.cur.hold = .free → s.cur.nextRun = some r →
    let c := s.issuing h r
    let traps (cause : Nat) (x : DWord) : Prop := issue h p s = .next (c.s.takeTrap (.precise cause 0 x) r c.t)
    (∀ d, c.g.dueDeferred p = some d → issue h p s = .next (c.s.deliver d r c.t)) ∧
    (c.g.dueDeferred p = none →
      ((p.bad = true ∨ c.g.front = true ∧ h.front = false) → traps Cause.illegalInstr h.word) ∧
      (p.bad = false → (c.g.front = false ∨ h.front = true) →
        (p.secret = true → c.g.priv = false → traps Cause.priv h.word) ∧
        ((p.secret = false ∨ c.g.priv = true) →
          (p.ops c = false → traps Cause.illegalOperand h.word) ∧
          (p.ops c = true →
            (∀ k, c.badLatch p.uses = some k → traps Cause.latchInvalid (BitVec.ofNat 64 k)) ∧
            (c.operandsGood h p = true → c.en ≠ 0 → poisoned c.g (p.uses.flatMap Use.refs ++ p.also) = none → p.reading c = false →
              ∀ tr, p.own c = some tr → issue h p s = .next ((p.mark c c.s).takeTrap tr r c.t))))))

/-! ## Registers, arithmetic and memory -/

/-- R54: an instruction with no enabled lane has no effect beyond the run's PCs and its time: its counter is not claimed, and after the
encoding checks it raises nothing. Lanes that are not enabled keep their values in a destination, a vector register or a predicate. -/
def Obligations.NoEnabledLane : Prop :=
  (∀ (h : Hdr) (p : Plan) (s : State) (r : Run), s.tries h p r = true → (s.issuing h r).lawful h p = true →
    (s.issuing h r).operandsGood h p = true → (s.issuing h r).en = 0 →
    issue h p s = .next (State.account
      { (s.issuing h r).s with cur := { ((s.issuing h r).g.advance r h.len) with
          last := some (s.issuing h r).t, lastPc := r.pc, lastRun := r.mask, run := (s.issuing h r).g.run.after h } } (s.issuing h r).t)) ∧
  (∀ (g : Group) (r k : Nat) (pair : Bool) (m : DWord) (v : Lanes DWord), r < 128 → k < 64 → lane m k = false →
    ∀ q, ((g.writeReg (.vec r pair m v)).vrow q).get k = (g.vrow q).get k) ∧
  ∀ (g : Group) (r k : Nat) (m v : DWord), k < 64 → lane m k = false →
    ∀ q, lane ((g.writeReg (.prd r m v)).preg q) k = lane (g.preg q) k

/-- R53, R54, R58, R60, R240, R364: results reach their registers: a class F result is due its latency after the issue; it lands with its
writes, its flags and its counter; an enabled lane takes the value, a pair in two rows; rows past the allocation take nothing; a write to
p0 is ignored, and p0 reads as all ones. -/
def Obligations.ResultsLand : Prop :=
  (∀ (c : Cx) (h : Hdr) (ws : List RegWrite) (flags : BitVec 5) (s : State), h.lat ≠ .v →
    ∃ f : Flight, (c.finish h ws flags s).cur.flights = s.cur.flights ++ [f] ∧ f.writes = (if h.nowb then [] else ws) ∧ f.flags = flags ∧
      f.cnt = h.cnt ∧ f.due = some (c.t + match h.lat with | .f2 => 2 | .f6 => 6 | _ => 4)) ∧
  (∀ (g : Group) (s : State) (f : Flight) (n : Nat), g.flights = [f] → f.late = [] → f.due = some n →
    g.land s n = (({ f.writes.foldl Group.writeReg g with flights := [] } : Group).raise f.flags).release f.cnt) ∧
  (∀ (g : Group) (r k : Nat) (pair : Bool) (m : DWord) (v : Lanes DWord), r + 1 < 128 → k < 64 → lane m k = true →
    let t := g.writeReg (.vec r pair m v)
    (r < g.alloc → (t.vrow r).get k = (v.get k).setWidth 32) ∧
    (pair = true → r + 1 < g.alloc → (t.vrow (r + 1)).get k = ((v.get k) >>> 32).setWidth 32) ∧
    (∀ q, q ≠ r → (q ≠ r + 1 ∨ pair = false) → t.vrow q = g.vrow q) ∧
    (g.alloc ≤ r → t.vregs = g.vregs)) ∧
  (∀ (g : Group) (r : Nat) (v : DWord), r < 96 → (g.writeReg (.sca r v)).sreg r = v ∧ ∀ q, q ≠ r → (g.writeReg (.sca r v)).sreg q = g.sreg q) ∧
  (∀ (g : Group) (r : Nat) (m v : DWord), 0 < r → r < 16 →
    (g.writeReg (.prd r m v)).preg r = (v &&& m) ||| (g.preg r &&& ~~~m) ∧
      ∀ q, q ≠ r → (g.writeReg (.prd r m v)).preg q = g.preg q) ∧
  ∀ (g : Group) (m v : DWord), (g.writeReg (.prd 0 m v)).preds = g.preds ∧ g.preg 0 = allOnes

/-- R78: the edge cases of integer arithmetic, in both widths: wrapping, saturation, division by zero and of the signed minimum, signs of
quotient and remainder, and shift counts past the width; and none of these instructions raises a trap or sets a flag. -/
def Obligations.IntegerEdges : Prop :=
  ∀ (w : Bool) (x y : DWord),
    let n : Nat := if w then 64 else 32
    let cut (v : Int) : DWord := if w then BitVec.ofInt 64 v else (BitVec.ofInt 32 v).setWidth 64
    let sg (v : DWord) : Int := if w then v.toInt else (v.setWidth 32).toInt
    let un (v : DWord) : Int := if w then v.toNat else (v.setWidth 32).toNat
    let near (lo hi v : Int) : Int := if v < lo then lo else if hi < v then hi else v
    let lo : Int := -2 ^ (n - 1)
    let hi : Int := 2 ^ (n - 1) - 1
    addSat w false false x y = cut (sg x + sg y) ∧
    subSat w false false x y = cut (sg x - sg y) ∧
    mulLow w x y = cut (sg x * sg y) ∧
    addSat w true false x y = cut (near lo hi (sg x + sg y)) ∧
    addSat w true true x y = cut (near 0 (2 ^ n - 1) (un x + un y)) ∧
    subSat w true false x y = cut (near lo hi (sg x - sg y)) ∧
    subSat w true true x y = cut (near 0 (2 ^ n - 1) (un x - un y)) ∧
    (un y = 0 → ∀ u, divInt w u x y = cut (-1) ∧ remInt w u x y = cut (sg x)) ∧
    (un y ≠ 0 → divInt w false x y = cut (Int.tdiv (sg x) (sg y)) ∧ remInt w false x y = cut (Int.tmod (sg x) (sg y)) ∧
      divInt w true x y = cut (un x / un y) ∧ remInt w true x y = cut (un x % un y)) ∧
    (sg x = lo → sg y = -1 → divInt w false x y = cut lo ∧ remInt w false x y = 0) ∧
    (n ≤ y.toNat % 2 ^ 32 → shlInt w x y = 0 ∧ shrInt w x y = 0 ∧ sarInt w x y = (if sg x < 0 then cut (-1) else 0) ∧
      rotlInt w x y = rotlInt w x (BitVec.ofNat 64 (y.toNat % n))) ∧
    ∀ (f : F64) (s : State) (r : Run),
      ∀ i ∈ [(Instr.iadd w f, 0x00#6), (.isub w f, 0x01), (.imul w f, 0x02), (.idiv w f, 0x05), (.irem w f, 0x06)],
        let h := hdr64 (if w then 0x01 else 0x00) i.2 f
        s.clears h (lanePlan h w f.dst [(f.s1, w), (f.s2, w)] fun _ _ => (0, 0)) r = true →
          ∃ (t : State) (fl : Flight), exec i.1 s = .next t ∧ t.cur.priv = s.cur.priv ∧ t.cur.x = s.cur.x ∧
            t.cur.fpst = (s.issuing h r).g.fpst ∧ t.cur.flights = (s.issuing h r).g.flights ++ [fl] ∧ fl.flags = 0

/-- R4, and the form of this model's memory (log 5): a byte that is written is read back and every other byte stays as it was; the
list keeps its one form; a number's bytes lie with the least significant at the lowest address. -/
def Obligations.MemoryBytes : Prop :=
  ∀ (m : Memory) (a b : Nat) (v : Byte) (bs : List Byte), m.wf = true →
    (m.set a v).wf = true ∧ (m.set a v).get b = (if b = a then v else m.get b) ∧
    (m.write a bs).wf = true ∧ (m.write a bs).read a bs.length = bs ∧
    ((b < a ∨ a + bs.length ≤ b) → (m.write a bs).get b = m.get b) ∧
    (∀ n x : Nat, leNat (natBytes n x) = x % 256 ^ n ∧ (natBytes n x).length = n) ∧
    (∀ m' : Memory, m'.wf = true → (∀ k, m'.get k = m.get k) → m' = m)

/-- R54, R214, R216: the frame of every instruction on registers alone (the 16-bit and 32-bit forms and majors 0x00 to 0x0D without PLPACK and
PLUNPACK): when it answers a next state, nothing outside the issuing group changes but the accounts of issue, and the group's registers are
those it had, or those it had with the results that were due; its own result lands later. -/
def Obligations.RegisterFrame : Prop :=
  ∀ (i : Instr) (s t : State), i.onRegisters = true → exec i s = .next t →
    s.sameElsewhere t ∧
      (t.cur.sameRegisters s.cur ∨ t.cur.sameRegisters ((s.cur.clearYields).land s (s.issueCycle i.dist)))

/-- R189, R199, R216, R233, R245: the frame of the loads, stores, atomics and plane accesses at their issue: no byte of memory, of a cache or of
a vault changes, nor its poison or full-empty bit, and no register but the walker that gives the address; what they write follows when
they are performed. -/
def Obligations.AccessFrame : Prop :=
  ∀ (f : F64) (s t : State),
    ∀ i ∈ [Instr.ldg f, .stg f, .ldl f, .stl f, .sld f, .sst f, .atomg f, .redg f, .atoml f, .plpack f, .plunpack f], exec i s = .next t →
      t.mem = s.mem ∧ t.l1 = s.l1 ∧ t.l2 = s.l2 ∧ t.homes = s.homes ∧ t.vlines = s.vlines ∧ t.poison = s.poison ∧ t.others = s.others ∧
      t.blocks.map (fun b => (b.key, b.vault)) = s.blocks.map (fun b => (b.key, b.vault)) ∧
      ∃ g : Group, (g = s.cur ∨ g = (s.cur.clearYields).land s (s.issueCycle i.dist)) ∧ t.cur.vregs = g.vregs ∧ t.cur.sregs = g.sregs ∧
        t.cur.preds = g.preds ∧ t.cur.fpst = g.fpst ∧ ∀ k, k ≠ f.s1.toNat → t.cur.walker k = g.walker k

/-- R167, R172, R174, R188, R189: where a store is performed. At a vault bank, the bytes of the block's allocation from the offset on become the
lane's value, least significant byte first, and every other byte of every allocation reads as before. Through a core, in the root view, the
core reads the bytes back; and where no other line leaves a cache for this one, and no other context's unreleased bytes stand in its place, every
other byte of memory reads as before from every core and view. -/
def Obligations.StoresWriteTheirBytes : Prop :=
  (∀ (s : State) (r : FRef) (a : Access) (l : LaneAcc) (block off : Nat) (b : Block), a.kind = .store → s.block? block = some b →
    b.vault.bytes.wf = true →
    let t := s.bankLane r a l block off
    t.vaultRead block off a.size = natBytes a.size l.data.toNat ∧
    (∀ x, (x < off ∨ off + a.size ≤ x) → t.vaultRead block x 1 = s.vaultRead block x 1) ∧
    (∀ k x, k ≠ block → t.vaultRead k x 1 = s.vaultRead k x 1) ∧ t.mem = s.mem) ∧
  ∀ (s : State) (core pasid pa : Nat) (attr : BitVec 2) (bs : List Byte), s.mem.wf = true → s.segAt pa = none → bs ≠ [] →
    pa % 128 + bs.length ≤ 128 → s.tierOf pa ≠ .flash →
    let t := s.coreWrite core pasid 0 attr pa bs
    (t.coreRead core pasid 0 attr pa bs.length).1 = bs ∧
    (s.roomL1 core pasid 0 pa = s → s.roomL2 (chipOfCore core) pa = s → s.roomL2 (homeOf pa) pa = s →
      (∀ c ∈ s.l1 ++ s.l2, c.dirty = true → c.pasid ≠ pasid → c.pa < pa ∨ pa + bs.length ≤ c.pa) →
    ∀ (core' pasid' view x : Nat) (attr' : BitVec 2), (x < pa ∨ pa + bs.length ≤ x) →
      (t.coreRead core' pasid' view attr' x 1).1 = (s.coreRead core' pasid' view attr' x 1).1)
end

