-- ==== Sys2Proof/Laws/Issue.lean ====
section
/-! SUPPORT. What the shared issue can do (R65, R131, R378): the cases of one issue, and completion. -/

namespace Sys2Proof.Machine

/-- An instruction that clears every check answers its effect on the state in which it has had every instruction's share. -/
theorem issue_completes (h : Hdr) (p : Plan) (s : State) (r : Run) (hc : s.clears h p r = true) :
    issue h p s = .next ((p.eff (s.issuing h r) ((s.issuing h r).onward h)).account (s.issueCycle h.dist)) := by
  simp only [State.clears, State.tries, Cx.lawful, Cx.operandsGood, Bool.and_eq_true, Bool.not_eq_true', Option.isNone_iff_eq_none,
    bne_iff_ne, beq_iff_eq] at hc
  obtain ⟨⟨⟨⟨⟨⟨⟨⟨⟨⟨hh, hr⟩, hd⟩, ⟨⟨hb, hf⟩, hs⟩⟩, ⟨⟨ho, hl⟩, hg⟩⟩, he⟩, hp⟩, hrd⟩, hw⟩, hwt⟩, hst⟩ := hc
  have h0 : (s.cur.hold != Hold.free) = false := by rw [hh]; rfl
  have hf' : ((s.issuing h r).g.front && !h.front) = false := by
    revert hf; cases (s.issuing h r).g.front <;> cases h.front <;> simp
  have hs' : (p.secret && !(s.issuing h r).g.priv) = false := by
    revert hs; cases (s.issuing h r).g.priv <;> cases p.secret <;> simp
  simp only [State.issuing, Cx.g] at hd hf' hs' ho hl hg he hp hrd hw hwt hst ⊢
  simp only [issue, h0, hr, hd, hb, hf', hs', ho, hl, hg, he, hp, hrd, hw, hwt, hst, Cx.g, Cx.onward, Bool.or_false, Bool.not_true,
    if_false, Bool.false_eq_true]

/-- A choice between two next states is one. -/
theorem ite_next {c : Prop} [Decidable c] {a b : Host.Outcome State Fault Refusal} (ha : ∃ t, a = .next t) (hb : ∃ t, b = .next t) :
    ∃ t, (if c then a else b) = .next t := by
  split
  · exact ha
  · exact hb

/-- Every issue answers a next state. -/
theorem issue_next (h : Hdr) (p : Plan) (s : State) : ∃ t, issue h p s = .next t := by
  unfold issue
  split
  · exact ⟨_, rfl⟩
  · split
    · exact ⟨_, rfl⟩
    · dsimp only
      repeat' first
        | exact ⟨_, rfl⟩
        | refine ite_next ?_ ?_
        | split

/-- What an instruction's effect is does not bear on whether it completes. -/
theorem clears_effect (s : State) (h : Hdr) (p : Plan) (e : Cx → State → State) (r : Run) :
    s.clears h { p with eff := e } r = s.clears h p r := by
  unfold State.clears State.tries Cx.lawful Cx.operandsGood Group.dueDeferred
  rfl

theorem clears_lanes (s : State) (h k : Hdr) (pair : Bool) (d : BitVec 8) (uses : List Use) (v w : Cx → Nat → DWord × BitVec 5) (r : Run) :
    s.clears h (lanePlan k pair d uses v) r = s.clears h (lanePlan k pair d uses w) r :=
  clears_effect s h (lanePlan k pair d uses w) (lanePlan k pair d uses v).eff r

theorem clears_tests (s : State) (h k : Hdr) (d : BitVec 8) (uses : List Use) (v w : Cx → Nat → Bool × BitVec 5) (r : Run) :
    s.clears h (testPlan k d uses v) r = s.clears h (testPlan k d uses w) r :=
  clears_effect s h (testPlan k d uses w) (testPlan k d uses v).eff r

theorem clears_scalars (s : State) (h k : Hdr) (d : BitVec 8) (uses : List (BitVec 8)) (v w : Cx → DWord) (r : Run) :
    s.clears h (scalarPlan k d uses v) r = s.clears h (scalarPlan k d uses w) r :=
  clears_effect s h (scalarPlan k d uses w) (scalarPlan k d uses v).eff r

/-! ## Frames -/

theorem sameRegisters_refl (g : Group) : g.sameRegisters g := ⟨rfl, rfl, rfl, rfl, rfl⟩

theorem sameRegisters_trans {a b c : Group} (h : a.sameRegisters b) (k : b.sameRegisters c) : a.sameRegisters c :=
  ⟨h.1.trans k.1, h.2.1.trans k.2.1, h.2.2.1.trans k.2.2.1, h.2.2.2.1.trans k.2.2.2.1, h.2.2.2.2.trans k.2.2.2.2⟩

theorem pushLatch_registers (g : Group) (l : Latch) : (g.pushLatch l).sameRegisters g := by
  unfold Group.pushLatch; split <;> exact sameRegisters_refl _

theorem claim_registers (g : Group) (c : BitVec 4) : (g.claim c).sameRegisters g := by
  unfold Group.claim; split <;> exact sameRegisters_refl _

theorem advance_registers (g : Group) (r : Run) (n : Nat) : (g.advance r n).sameRegisters g := by
  unfold Group.advance Group.setPcs; dsimp only; split <;> exact sameRegisters_refl _

/-- A result that goes into flight changes the issuing group alone, and none of its registers. -/
theorem finish_frame (c : Cx) (h : Hdr) (ws : List RegWrite) (fl : BitVec 5) (s : State) :
    ∃ g k, c.finish h ws fl s = { s with cur := g, nextKey := k } ∧ g.sameRegisters s.cur := by
  unfold Cx.finish; split
  · exact ⟨_, _, rfl, sameRegisters_refl _⟩
  · unfold Cx.result; dsimp only
    refine ⟨_, _, rfl, ?_⟩
    split
    · exact pushLatch_registers _ _
    · exact sameRegisters_refl _

/-- Ending a launch changes its launch alone. -/
theorem endLaunch_frame (s : State) (g : Group) (ol : List LogEntry) (ho : ol.Sublist s.olog) (k : Nat) :
    s.sameElsewhere (({ s with cur := g, olog := ol } : State).endLaunch k) ∧ (({ s with cur := g, olog := ol } : State).endLaunch k).cur = g := by
  unfold State.endLaunch
  split
  · exact ⟨⟨rfl, ho, rfl, rfl⟩, rfl⟩
  · refine ⟨⟨rfl, ho, rfl, ?_⟩, rfl⟩
    simp only [State.onLaunch, List.map_map]
    apply List.map_congr_left
    intro l _
    simp only [Function.comp]
    split <;> rfl

/-- A trap changes nothing outside its group and launch, and no register of the group (R381). -/
theorem takeTrap_frame (s : State) (g : Group) (ol : List LogEntry) (ho : ol.Sublist s.olog) (tr : Trap) (r : Run) (n : Nat) :
    s.sameElsewhere (({ s with cur := g, olog := ol } : State).takeTrap tr r n) ∧
      (({ s with cur := g, olog := ol } : State).takeTrap tr r n).cur.sameRegisters g := by
  unfold State.takeTrap; dsimp only
  split
  · exact ⟨⟨rfl, ho, rfl, rfl⟩, sameRegisters_refl _⟩
  · split
    · have := endLaunch_frame s { g with etrap := some (trapRegs tr r (g.run.pos != 0)), last := some n, run := HoldRun.none } ol ho g.block
      exact ⟨this.1, by rw [this.2]; exact sameRegisters_refl _⟩
    · split
      · have := endLaunch_frame s
          { g with x := trapRegs tr r (g.run.pos != 0), etrap := some (trapRegs tr r (g.run.pos != 0)), last := some n, banked := g.run.bank n, run := HoldRun.none } ol ho g.block
        exact ⟨this.1, by rw [this.2]; exact sameRegisters_refl _⟩
      · exact ⟨⟨rfl, ho, rfl, rfl⟩, sameRegisters_refl _⟩

/-- The accounts of an issue. -/
theorem account_frame (s : State) (g : Group) (k n : Nat) :
    s.sameElsewhere (({ s with cur := g, nextKey := k } : State).account n) ∧ (({ s with cur := g, nextKey := k } : State).account n).cur = g := by
  refine ⟨⟨rfl, List.Sublist.refl _, ?_, ?_⟩, rfl⟩
  · simp only [State.account, State.onBlock, State.onLaunch, List.map_map]
    apply List.map_congr_left
    intro b _
    simp only [Function.comp]
    split
    · cases b with
      | mk _ _ _ _ _ _ _ _ _ _ res =>
        cases res with
        | draining n k => cases n <;> rfl
        | _ => rfl
    · rfl
  · simp only [State.account, State.onBlock, State.onLaunch, List.map_map]
    apply List.map_congr_left
    intro l _
    simp only [Function.comp]
    split <;> rfl

end Sys2Proof.Machine
end

