-- ==== Sys2Proof/Laws/Memory.lean ====
section
/-! SUPPORT. The canonical form of memory: every operation keeps it, and what is read after a write (R4; log 5). -/

namespace Sys2Proof.Machine

theorem wfFrom_mono {m : Memory} {lo lo' : Nat} (h : lo' ≤ lo) (w : Memory.wfFrom lo m = true) : Memory.wfFrom lo' m = true := by
  cases m with
  | nil => rfl
  | cons p m => simp only [Memory.wfFrom, Bool.and_eq_true, decide_eq_true_eq] at w ⊢; exact ⟨⟨by omega, w.1.2⟩, w.2⟩

/-- Below its first address a memory reads zero. -/
theorem get_below {m : Memory} {lo x : Nat} (w : Memory.wfFrom lo m = true) (h : x < lo) : m.get x = 0 := by
  cases m with
  | nil => rfl
  | cons p m =>
    simp only [Memory.wfFrom, Bool.and_eq_true, decide_eq_true_eq] at w
    have h1 : x ≠ p.1 := by omega
    have h2 : x < p.1 := by omega
    simp [Memory.get, h1, h2]

theorem set_wfFrom {m : Memory} {lo x : Nat} {v : Byte} (w : Memory.wfFrom lo m = true) (h : lo ≤ x) : Memory.wfFrom lo (m.set x v) = true := by
  induction m generalizing lo with
  | nil => by_cases hv : v = 0#8 <;> simp [Memory.set, Memory.wfFrom, hv, h]
  | cons p m ih =>
    obtain ⟨a, b⟩ := p
    simp only [Memory.wfFrom, Bool.and_eq_true, decide_eq_true_eq] at w
    simp only [Memory.set]
    by_cases h1 : x = a
    · subst h1
      by_cases hv : v = 0#8
      · simp [hv]; exact wfFrom_mono (by omega) w.2
      · simp [hv, Memory.wfFrom, w.2, h]
    · by_cases h2 : x < a
      · simp only [h1, h2, if_true, if_false]
        by_cases hv : v = 0#8
        · have := w.1.2; simp [hv, Memory.wfFrom, w.1.1, w.2]; simpa using this
        · simp only [show ¬ v = 0 from hv, if_false, Memory.wfFrom, Bool.and_eq_true, decide_eq_true_eq]
          exact ⟨⟨h, by simpa using hv⟩, ⟨by omega, w.1.2⟩, w.2⟩
      · simp only [h1, h2, if_false, Memory.wfFrom, Bool.and_eq_true, decide_eq_true_eq]
        exact ⟨w.1, ih w.2 (by omega)⟩

theorem set_get {m : Memory} {lo x y : Nat} {v : Byte} (w : Memory.wfFrom lo m = true) :
    (m.set x v).get y = if y = x then v else m.get y := by
  induction m generalizing lo with
  | nil =>
    by_cases hv : v = 0#8
    · simp [Memory.set, Memory.get, hv]
    · by_cases h : y = x
      · simp [Memory.set, Memory.get, hv, h]
      · simp [Memory.set, Memory.get, hv, h]
  | cons p m ih =>
    obtain ⟨a, b⟩ := p
    simp only [Memory.wfFrom, Bool.and_eq_true, decide_eq_true_eq] at w
    simp only [Memory.set]
    by_cases h1 : x = a
    · subst h1
      by_cases hv : v = 0#8
      · by_cases h : y = x
        · subst h; simp [hv, get_below w.2 (Nat.lt_succ_self y)]
        · by_cases h' : y < x
          · simp [hv, h, h', Memory.get, get_below w.2 (show y < x + 1 by omega)]
          · simp [hv, h, h', Memory.get]
      · by_cases h : y = x <;> simp [hv, Memory.get, h]
    · by_cases h2 : x < a
      · by_cases hv : v = 0#8
        · by_cases h : y = x
          · subst h; simp [hv, h1, h2, Memory.get]
          · simp [hv, h1, h2, h]
        · by_cases h : y = x
          · subst h; simp [hv, h1, h2, Memory.get]
          · by_cases h' : y < x
            · have e1 : y ≠ a := by omega
              have e2 : y < a := by omega
              simp [hv, h1, h2, h, h', e1, e2, Memory.get]
            · simp [hv, h1, h2, h, h', Memory.get]
      · simp only [h1, h2, if_false, Memory.get, ih w.2]
        by_cases h : y = x
        · subst h; simp [h1, h2]
        · simp [h]

theorem set_wf {m : Memory} (w : m.wf = true) (x : Nat) (v : Byte) : (m.set x v).wf = true := set_wfFrom w (Nat.zero_le x)

theorem write_wf {m : Memory} (w : m.wf = true) (a : Nat) (bs : List Byte) : (m.write a bs).wf = true := by
  induction bs generalizing m a with
  | nil => exact w
  | cons b bs ih => exact ih (set_wf w a b) (a + 1)

/-- The form holds after reset. -/
theorem reset_mem_wf : State.reset.mem.wf = true := rfl

theorem wfFrom_filter {m : Memory} {lo : Nat} (p : Nat × Byte → Bool) (w : Memory.wfFrom lo m = true) :
    Memory.wfFrom lo (m.filter p) = true := by
  induction m generalizing lo with
  | nil => rfl
  | cons q m ih =>
    obtain ⟨a, b⟩ := q
    simp only [Memory.wfFrom, Bool.and_eq_true, decide_eq_true_eq] at w
    by_cases h : p (a, b) = true
    · rw [List.filter_cons_of_pos h]
      simp only [Memory.wfFrom, Bool.and_eq_true, decide_eq_true_eq]
      exact ⟨w.1, ih w.2⟩
    · rw [List.filter_cons_of_neg h]; exact wfFrom_mono (by omega) (ih w.2)

/-- Keeping a part of memory keeps the form. -/
theorem filter_wf {m : Memory} (p : Nat × Byte → Bool) (w : m.wf = true) : Memory.wf (m.filter p) = true := wfFrom_filter p w

end Sys2Proof.Machine
end

