-- ==== Sys2Proof/Laws/Registers.lean ====
section
/-! SUPPORT. Lanes, register rows and predicates: what one write changes (R53, R54, R364). -/

namespace Sys2Proof

theorem Lanes.get_ofFn {α : Type} (f : Nat → α) (k : Nat) : (Lanes.ofFn f).get k = f (k % 64) := by
  simp [Lanes.get, Lanes.ofFn]

theorem Lanes.get_const {α : Type} (a : α) (k : Nat) : (Lanes.const a).get k = a := by simp [Lanes.const, Lanes.get_ofFn]

theorem Lanes.get_map {α β : Type} (f : α → β) (l : Lanes α) (k : Nat) : Lanes.get (l.map f) k = f (l.get k) := by simp [Lanes.get]

end Sys2Proof

namespace Sys2Proof.Machine

theorem mergeLanes_get {α : Type} (m : DWord) (x y : Lanes α) (k : Nat) (hk : k < 64) :
    (mergeLanes m x y).get k = if lane m k then x.get k else y.get k := by
  simp [mergeLanes, Lanes.get_ofFn, Nat.mod_eq_of_lt hk]

/-- An element of a vector after one element is set. -/
theorem vget_set {α : Type} {n : Nat} (v : Vector α n) (i j : Nat) (x d : α) :
    vget (v.setIfInBounds i x) j d = if i = j ∧ i < n then x else vget v j d := by
  simp only [vget, Vector.getElem?_setIfInBounds]
  by_cases h : i = j
  · subst h; by_cases hi : i < n <;> simp [hi]
  · simp [h]

theorem setRow_alloc (g : Group) (r : Nat) (m : DWord) (v : Lanes Word) : (g.setRow r m v).alloc = g.alloc := by
  unfold Group.setRow; split <;> rfl

theorem setRow_vrow (g : Group) (r q : Nat) (m : DWord) (v : Lanes Word) :
    (g.setRow r m v).vrow q = if r = q ∧ r < 128 ∧ r < g.alloc then mergeLanes m v (g.vrow r) else g.vrow q := by
  unfold Group.setRow
  split
  · simp only [Group.vrow, vget_set]; simp [*]
  · simp [*]

theorem setPred_preg (g : Group) (r q : Nat) (m v : DWord) (hr : 0 < r) (h : r < 16) :
    (g.setPred r m v).preg q = if q = r then (v &&& m) ||| (g.preg r &&& ~~~m) else g.preg q := by
  have h0 : r ≠ 0 := by omega
  simp only [Group.setPred, h0, if_false]
  by_cases hq : q = 0
  · subst hq; simp [Group.preg, Ne.symm h0]
  · simp only [Group.preg, hq, h0, if_false, vget_set]
    by_cases e : q = r
    · subst e; simp [h]
    · simp [e, Ne.symm e]

theorem setSreg_sreg (g : Group) (r q : Nat) (v : DWord) (h : r < 96) :
    (g.setSreg r v).sreg q = if q = r then v else g.sreg q := by
  simp only [Group.setSreg, Group.sreg, vget_set]
  by_cases e : q = r
  · subst e; simp [h]
  · simp [e, Ne.symm e]

end Sys2Proof.Machine
end

