-- ==== Sys2Proof/Laws/Snapshots.lean ====
section
/-! SUPPORT. Snapshots: what settling a step leaves (R445, R446). -/

namespace Sys2Proof.Machine

/-- Every step ends by being settled. -/
theorem step_settles {s t : State} (h : step s = .next t) : ∃ u, t = State.settleStep s u := by
  simp only [step] at h
  split at h
  · injection h with h; exact ⟨_, h.symm⟩
  · exact absurd h (by simp)
  · exact absurd h (by simp)

theorem settleColour_unpres (s : State) (c : Colour) : (s.settleColour c).unpres = c.unpres := by
  unfold State.settleColour; repeat' split
  all_goals rfl

theorem settleColour_free (s : State) (c : Colour) : (s.settleColour c).st = .free ↔ c.st = .free := by
  unfold State.settleColour; split
  · rfl
  · split
    · next h => split <;> simp [h]
    · next h => split <;> simp [h]
    · rfl

theorem image_unpres (g : Group) (u : Vector (BitVec 149) 2) : Group.image { g with unpres := u } = g.image := rfl

theorem rewind_unpres (g : Group) (u : Vector (BitVec 149) 2) : Group.rewind { g with unpres := u } = { g.rewind with unpres := u } := by
  unfold Group.rewind Group.setPcs Group.depths Group.pcs
  cases h : g.priv <;> simp

/-- What colours hold of a group is no part of its image. -/
theorem stateRow_unpres (g : Group) (u : Vector (BitVec 149) 2) (k : Nat) : Group.stateRow { g with unpres := u } k = g.stateRow k := by
  obtain ⟨w, hw⟩ : ∃ w : Group, w = { g with unpres := u } := ⟨_, rfl⟩
  have hh : w.hold = g.hold := by rw [hw]
  have hi : w.image = g.image := by rw [hw]; rfl
  have hr : w.rewind.image = g.rewind.image := by rw [hw, rewind_unpres]; rfl
  rw [← hw]
  unfold Group.stateRow Group.recorded
  rw [hh]
  split
  · rw [hr]
  · rw [hi]

end Sys2Proof.Machine
end

