-- ==== Sys2Proof/Laws/State.lean ====
section
/-! SUPPORT. What the updates of a state leave as it was: one lemma a field and update. -/

namespace Sys2Proof.Machine

/-! ## State.mapGroups -/

@[simp] theorem mapGroups_cycle (s : State) (p : Group → Bool) (f : Group → Group) : (s.mapGroups p f).cycle = s.cycle := rfl
@[simp] theorem mapGroups_hbeat (s : State) (p : Group → Bool) (f : Group → Group) : (s.mapGroups p f).hbeat = s.hbeat := rfl
@[simp] theorem mapGroups_mxemu (s : State) (p : Group → Bool) (f : Group → Group) : (s.mapGroups p f).mxemu = s.mxemu := rfl
@[simp] theorem mapGroups_slot (s : State) (p : Group → Bool) (f : Group → Group) : (s.mapGroups p f).slot = s.slot := rfl
@[simp] theorem mapGroups_free (s : State) (p : Group → Bool) (f : Group → Group) : (s.mapGroups p f).free = s.free := rfl
@[simp] theorem mapGroups_nextKey (s : State) (p : Group → Bool) (f : Group → Group) : (s.mapGroups p f).nextKey = s.nextKey := rfl
@[simp] theorem mapGroups_agenda (s : State) (p : Group → Bool) (f : Group → Group) : (s.mapGroups p f).agenda = s.agenda := rfl
@[simp] theorem mapGroups_turn (s : State) (p : Group → Bool) (f : Group → Group) : (s.mapGroups p f).turn = s.turn := rfl
@[simp] theorem mapGroups_cue (s : State) (p : Group → Bool) (f : Group → Group) : (s.mapGroups p f).cue = s.cue := rfl
@[simp] theorem mapGroups_mem (s : State) (p : Group → Bool) (f : Group → Group) : (s.mapGroups p f).mem = s.mem := rfl
@[simp] theorem mapGroups_poison (s : State) (p : Group → Bool) (f : Group → Group) : (s.mapGroups p f).poison = s.poison := rfl
@[simp] theorem mapGroups_mended (s : State) (p : Group → Bool) (f : Group → Group) : (s.mapGroups p f).mended = s.mended := rfl
@[simp] theorem mapGroups_hdm (s : State) (p : Group → Bool) (f : Group → Group) : (s.mapGroups p f).hdm = s.hdm := rfl
@[simp] theorem mapGroups_hdmNext (s : State) (p : Group → Bool) (f : Group → Group) : (s.mapGroups p f).hdmNext = s.hdmNext := rfl
@[simp] theorem mapGroups_l1 (s : State) (p : Group → Bool) (f : Group → Group) : (s.mapGroups p f).l1 = s.l1 := rfl
@[simp] theorem mapGroups_l2 (s : State) (p : Group → Bool) (f : Group → Group) : (s.mapGroups p f).l2 = s.l2 := rfl
@[simp] theorem mapGroups_homes (s : State) (p : Group → Bool) (f : Group → Group) : (s.mapGroups p f).homes = s.homes := rfl
@[simp] theorem mapGroups_icache (s : State) (p : Group → Bool) (f : Group → Group) : (s.mapGroups p f).icache = s.icache := rfl
@[simp] theorem mapGroups_tlb (s : State) (p : Group → Bool) (f : Group → Group) : (s.mapGroups p f).tlb = s.tlb := rfl
@[simp] theorem mapGroups_olog (s : State) (p : Group → Bool) (f : Group → Group) : (s.mapGroups p f).olog = s.olog := rfl
@[simp] theorem mapGroups_ats (s : State) (p : Group → Bool) (f : Group → Group) : (s.mapGroups p f).ats = s.ats := rfl
@[simp] theorem mapGroups_segs (s : State) (p : Group → Bool) (f : Group → Group) : (s.mapGroups p f).segs = s.segs := rfl
@[simp] theorem mapGroups_vlines (s : State) (p : Group → Bool) (f : Group → Group) : (s.mapGroups p f).vlines = s.vlines := rfl
@[simp] theorem mapGroups_views (s : State) (p : Group → Bool) (f : Group → Group) : (s.mapGroups p f).views = s.views := rfl
@[simp] theorem mapGroups_sibs (s : State) (p : Group → Bool) (f : Group → Group) : (s.mapGroups p f).sibs = s.sibs := rfl
@[simp] theorem mapGroups_aliases (s : State) (p : Group → Bool) (f : Group → Group) : (s.mapGroups p f).aliases = s.aliases := rfl
@[simp] theorem mapGroups_sharing (s : State) (p : Group → Bool) (f : Group → Group) : (s.mapGroups p f).sharing = s.sharing := rfl
@[simp] theorem mapGroups_unpresPages (s : State) (p : Group → Bool) (f : Group → Group) : (s.mapGroups p f).unpresPages = s.unpresPages := rfl
@[simp] theorem mapGroups_eave (s : State) (p : Group → Bool) (f : Group → Group) : (s.mapGroups p f).eave = s.eave := rfl
@[simp] theorem mapGroups_unpresLines (s : State) (p : Group → Bool) (f : Group → Group) : (s.mapGroups p f).unpresLines = s.unpresLines := rfl
@[simp] theorem mapGroups_items (s : State) (p : Group → Bool) (f : Group → Group) : (s.mapGroups p f).items = s.items := rfl
@[simp] theorem mapGroups_owed (s : State) (p : Group → Bool) (f : Group → Group) : (s.mapGroups p f).owed = s.owed := rfl
@[simp] theorem mapGroups_sched (s : State) (p : Group → Bool) (f : Group → Group) : (s.mapGroups p f).sched = s.sched := rfl
@[simp] theorem mapGroups_mails (s : State) (p : Group → Bool) (f : Group → Group) : (s.mapGroups p f).mails = s.mails := rfl
@[simp] theorem mapGroups_combine (s : State) (p : Group → Bool) (f : Group → Group) : (s.mapGroups p f).combine = s.combine := rfl
@[simp] theorem mapGroups_mxAllocs (s : State) (p : Group → Bool) (f : Group → Group) : (s.mapGroups p f).mxAllocs = s.mxAllocs := rfl
@[simp] theorem mapGroups_mxReqs (s : State) (p : Group → Bool) (f : Group → Group) : (s.mapGroups p f).mxReqs = s.mxReqs := rfl
@[simp] theorem mapGroups_mxEntries (s : State) (p : Group → Bool) (f : Group → Group) : (s.mapGroups p f).mxEntries = s.mxEntries := rfl
@[simp] theorem mapGroups_unfenced (s : State) (p : Group → Bool) (f : Group → Group) : (s.mapGroups p f).unfenced = s.unfenced := rfl
@[simp] theorem mapGroups_ports (s : State) (p : Group → Bool) (f : Group → Group) : (s.mapGroups p f).ports = s.ports := rfl
@[simp] theorem mapGroups_stops (s : State) (p : Group → Bool) (f : Group → Group) : (s.mapGroups p f).stops = s.stops := rfl
@[simp] theorem mapGroups_stopping (s : State) (p : Group → Bool) (f : Group → Group) : (s.mapGroups p f).stopping = s.stopping := rfl
@[simp] theorem mapGroups_fabric (s : State) (p : Group → Bool) (f : Group → Group) : (s.mapGroups p f).fabric = s.fabric := rfl
@[simp] theorem mapGroups_inbox (s : State) (p : Group → Bool) (f : Group → Group) : (s.mapGroups p f).inbox = s.inbox := rfl
@[simp] theorem mapGroups_inPuts (s : State) (p : Group → Bool) (f : Group → Group) : (s.mapGroups p f).inPuts = s.inPuts := rfl
@[simp] theorem mapGroups_windows (s : State) (p : Group → Bool) (f : Group → Group) : (s.mapGroups p f).windows = s.windows := rfl
@[simp] theorem mapGroups_results (s : State) (p : Group → Bool) (f : Group → Group) : (s.mapGroups p f).results = s.results := rfl
@[simp] theorem mapGroups_chunks (s : State) (p : Group → Bool) (f : Group → Group) : (s.mapGroups p f).chunks = s.chunks := rfl
@[simp] theorem mapGroups_sent (s : State) (p : Group → Bool) (f : Group → Group) : (s.mapGroups p f).sent = s.sent := rfl
@[simp] theorem mapGroups_queues (s : State) (p : Group → Bool) (f : Group → Group) : (s.mapGroups p f).queues = s.queues := rfl
@[simp] theorem mapGroups_scans (s : State) (p : Group → Bool) (f : Group → Group) : (s.mapGroups p f).scans = s.scans := rfl
@[simp] theorem mapGroups_arbiter (s : State) (p : Group → Bool) (f : Group → Group) : (s.mapGroups p f).arbiter = s.arbiter := rfl
@[simp] theorem mapGroups_arbAt (s : State) (p : Group → Bool) (f : Group → Group) : (s.mapGroups p f).arbAt = s.arbAt := rfl
@[simp] theorem mapGroups_preempts (s : State) (p : Group → Bool) (f : Group → Group) : (s.mapGroups p f).preempts = s.preempts := rfl
@[simp] theorem mapGroups_returns (s : State) (p : Group → Bool) (f : Group → Group) : (s.mapGroups p f).returns = s.returns := rfl
@[simp] theorem mapGroups_parked (s : State) (p : Group → Bool) (f : Group → Group) : (s.mapGroups p f).parked = s.parked := rfl
@[simp] theorem mapGroups_colours (s : State) (p : Group → Bool) (f : Group → Group) : (s.mapGroups p f).colours = s.colours := rfl
@[simp] theorem mapGroups_gone (s : State) (p : Group → Bool) (f : Group → Group) : (s.mapGroups p f).gone = s.gone := rfl
@[simp] theorem mapGroups_freed (s : State) (p : Group → Bool) (f : Group → Group) : (s.mapGroups p f).freed = s.freed := rfl
@[simp] theorem mapGroups_tabled (s : State) (p : Group → Bool) (f : Group → Group) : (s.mapGroups p f).tabled = s.tabled := rfl
@[simp] theorem mapGroups_replayQ (s : State) (p : Group → Bool) (f : Group → Group) : (s.mapGroups p f).replayQ = s.replayQ := rfl
@[simp] theorem mapGroups_mgmt (s : State) (p : Group → Bool) (f : Group → Group) : (s.mapGroups p f).mgmt = s.mgmt := rfl
@[simp] theorem mapGroups_toContain (s : State) (p : Group → Bool) (f : Group → Group) : (s.mapGroups p f).toContain = s.toContain := rfl
@[simp] theorem mapGroups_dying (s : State) (p : Group → Bool) (f : Group → Group) : (s.mapGroups p f).dying = s.dying := rfl
@[simp] theorem mapGroups_leaving (s : State) (p : Group → Bool) (f : Group → Group) : (s.mapGroups p f).leaving = s.leaving := rfl
@[simp] theorem mapGroups_ctxs (s : State) (p : Group → Bool) (f : Group → Group) : (s.mapGroups p f).ctxs = s.ctxs := rfl
@[simp] theorem mapGroups_launches (s : State) (p : Group → Bool) (f : Group → Group) : (s.mapGroups p f).launches = s.launches := rfl
@[simp] theorem mapGroups_blocks (s : State) (p : Group → Bool) (f : Group → Group) : (s.mapGroups p f).blocks = s.blocks := rfl

/-! ## State.onGroup -/

@[simp] theorem onGroup_cycle (s : State) (b k : Nat) (f : Group → Group) : (s.onGroup b k f).cycle = s.cycle := rfl
@[simp] theorem onGroup_hbeat (s : State) (b k : Nat) (f : Group → Group) : (s.onGroup b k f).hbeat = s.hbeat := rfl
@[simp] theorem onGroup_mxemu (s : State) (b k : Nat) (f : Group → Group) : (s.onGroup b k f).mxemu = s.mxemu := rfl
@[simp] theorem onGroup_slot (s : State) (b k : Nat) (f : Group → Group) : (s.onGroup b k f).slot = s.slot := rfl
@[simp] theorem onGroup_free (s : State) (b k : Nat) (f : Group → Group) : (s.onGroup b k f).free = s.free := rfl
@[simp] theorem onGroup_nextKey (s : State) (b k : Nat) (f : Group → Group) : (s.onGroup b k f).nextKey = s.nextKey := rfl
@[simp] theorem onGroup_agenda (s : State) (b k : Nat) (f : Group → Group) : (s.onGroup b k f).agenda = s.agenda := rfl
@[simp] theorem onGroup_turn (s : State) (b k : Nat) (f : Group → Group) : (s.onGroup b k f).turn = s.turn := rfl
@[simp] theorem onGroup_cue (s : State) (b k : Nat) (f : Group → Group) : (s.onGroup b k f).cue = s.cue := rfl
@[simp] theorem onGroup_mem (s : State) (b k : Nat) (f : Group → Group) : (s.onGroup b k f).mem = s.mem := rfl
@[simp] theorem onGroup_poison (s : State) (b k : Nat) (f : Group → Group) : (s.onGroup b k f).poison = s.poison := rfl
@[simp] theorem onGroup_mended (s : State) (b k : Nat) (f : Group → Group) : (s.onGroup b k f).mended = s.mended := rfl
@[simp] theorem onGroup_hdm (s : State) (b k : Nat) (f : Group → Group) : (s.onGroup b k f).hdm = s.hdm := rfl
@[simp] theorem onGroup_hdmNext (s : State) (b k : Nat) (f : Group → Group) : (s.onGroup b k f).hdmNext = s.hdmNext := rfl
@[simp] theorem onGroup_l1 (s : State) (b k : Nat) (f : Group → Group) : (s.onGroup b k f).l1 = s.l1 := rfl
@[simp] theorem onGroup_l2 (s : State) (b k : Nat) (f : Group → Group) : (s.onGroup b k f).l2 = s.l2 := rfl
@[simp] theorem onGroup_homes (s : State) (b k : Nat) (f : Group → Group) : (s.onGroup b k f).homes = s.homes := rfl
@[simp] theorem onGroup_icache (s : State) (b k : Nat) (f : Group → Group) : (s.onGroup b k f).icache = s.icache := rfl
@[simp] theorem onGroup_tlb (s : State) (b k : Nat) (f : Group → Group) : (s.onGroup b k f).tlb = s.tlb := rfl
@[simp] theorem onGroup_olog (s : State) (b k : Nat) (f : Group → Group) : (s.onGroup b k f).olog = s.olog := rfl
@[simp] theorem onGroup_ats (s : State) (b k : Nat) (f : Group → Group) : (s.onGroup b k f).ats = s.ats := rfl
@[simp] theorem onGroup_segs (s : State) (b k : Nat) (f : Group → Group) : (s.onGroup b k f).segs = s.segs := rfl
@[simp] theorem onGroup_vlines (s : State) (b k : Nat) (f : Group → Group) : (s.onGroup b k f).vlines = s.vlines := rfl
@[simp] theorem onGroup_views (s : State) (b k : Nat) (f : Group → Group) : (s.onGroup b k f).views = s.views := rfl
@[simp] theorem onGroup_sibs (s : State) (b k : Nat) (f : Group → Group) : (s.onGroup b k f).sibs = s.sibs := rfl
@[simp] theorem onGroup_aliases (s : State) (b k : Nat) (f : Group → Group) : (s.onGroup b k f).aliases = s.aliases := rfl
@[simp] theorem onGroup_sharing (s : State) (b k : Nat) (f : Group → Group) : (s.onGroup b k f).sharing = s.sharing := rfl
@[simp] theorem onGroup_unpresPages (s : State) (b k : Nat) (f : Group → Group) : (s.onGroup b k f).unpresPages = s.unpresPages := rfl
@[simp] theorem onGroup_eave (s : State) (b k : Nat) (f : Group → Group) : (s.onGroup b k f).eave = s.eave := rfl
@[simp] theorem onGroup_unpresLines (s : State) (b k : Nat) (f : Group → Group) : (s.onGroup b k f).unpresLines = s.unpresLines := rfl
@[simp] theorem onGroup_items (s : State) (b k : Nat) (f : Group → Group) : (s.onGroup b k f).items = s.items := rfl
@[simp] theorem onGroup_owed (s : State) (b k : Nat) (f : Group → Group) : (s.onGroup b k f).owed = s.owed := rfl
@[simp] theorem onGroup_sched (s : State) (b k : Nat) (f : Group → Group) : (s.onGroup b k f).sched = s.sched := rfl
@[simp] theorem onGroup_mails (s : State) (b k : Nat) (f : Group → Group) : (s.onGroup b k f).mails = s.mails := rfl
@[simp] theorem onGroup_combine (s : State) (b k : Nat) (f : Group → Group) : (s.onGroup b k f).combine = s.combine := rfl
@[simp] theorem onGroup_mxAllocs (s : State) (b k : Nat) (f : Group → Group) : (s.onGroup b k f).mxAllocs = s.mxAllocs := rfl
@[simp] theorem onGroup_mxReqs (s : State) (b k : Nat) (f : Group → Group) : (s.onGroup b k f).mxReqs = s.mxReqs := rfl
@[simp] theorem onGroup_mxEntries (s : State) (b k : Nat) (f : Group → Group) : (s.onGroup b k f).mxEntries = s.mxEntries := rfl
@[simp] theorem onGroup_unfenced (s : State) (b k : Nat) (f : Group → Group) : (s.onGroup b k f).unfenced = s.unfenced := rfl
@[simp] theorem onGroup_ports (s : State) (b k : Nat) (f : Group → Group) : (s.onGroup b k f).ports = s.ports := rfl
@[simp] theorem onGroup_stops (s : State) (b k : Nat) (f : Group → Group) : (s.onGroup b k f).stops = s.stops := rfl
@[simp] theorem onGroup_stopping (s : State) (b k : Nat) (f : Group → Group) : (s.onGroup b k f).stopping = s.stopping := rfl
@[simp] theorem onGroup_fabric (s : State) (b k : Nat) (f : Group → Group) : (s.onGroup b k f).fabric = s.fabric := rfl
@[simp] theorem onGroup_inbox (s : State) (b k : Nat) (f : Group → Group) : (s.onGroup b k f).inbox = s.inbox := rfl
@[simp] theorem onGroup_inPuts (s : State) (b k : Nat) (f : Group → Group) : (s.onGroup b k f).inPuts = s.inPuts := rfl
@[simp] theorem onGroup_windows (s : State) (b k : Nat) (f : Group → Group) : (s.onGroup b k f).windows = s.windows := rfl
@[simp] theorem onGroup_results (s : State) (b k : Nat) (f : Group → Group) : (s.onGroup b k f).results = s.results := rfl
@[simp] theorem onGroup_chunks (s : State) (b k : Nat) (f : Group → Group) : (s.onGroup b k f).chunks = s.chunks := rfl
@[simp] theorem onGroup_sent (s : State) (b k : Nat) (f : Group → Group) : (s.onGroup b k f).sent = s.sent := rfl
@[simp] theorem onGroup_queues (s : State) (b k : Nat) (f : Group → Group) : (s.onGroup b k f).queues = s.queues := rfl
@[simp] theorem onGroup_scans (s : State) (b k : Nat) (f : Group → Group) : (s.onGroup b k f).scans = s.scans := rfl
@[simp] theorem onGroup_arbiter (s : State) (b k : Nat) (f : Group → Group) : (s.onGroup b k f).arbiter = s.arbiter := rfl
@[simp] theorem onGroup_arbAt (s : State) (b k : Nat) (f : Group → Group) : (s.onGroup b k f).arbAt = s.arbAt := rfl
@[simp] theorem onGroup_preempts (s : State) (b k : Nat) (f : Group → Group) : (s.onGroup b k f).preempts = s.preempts := rfl
@[simp] theorem onGroup_returns (s : State) (b k : Nat) (f : Group → Group) : (s.onGroup b k f).returns = s.returns := rfl
@[simp] theorem onGroup_parked (s : State) (b k : Nat) (f : Group → Group) : (s.onGroup b k f).parked = s.parked := rfl
@[simp] theorem onGroup_colours (s : State) (b k : Nat) (f : Group → Group) : (s.onGroup b k f).colours = s.colours := rfl
@[simp] theorem onGroup_gone (s : State) (b k : Nat) (f : Group → Group) : (s.onGroup b k f).gone = s.gone := rfl
@[simp] theorem onGroup_freed (s : State) (b k : Nat) (f : Group → Group) : (s.onGroup b k f).freed = s.freed := rfl
@[simp] theorem onGroup_tabled (s : State) (b k : Nat) (f : Group → Group) : (s.onGroup b k f).tabled = s.tabled := rfl
@[simp] theorem onGroup_replayQ (s : State) (b k : Nat) (f : Group → Group) : (s.onGroup b k f).replayQ = s.replayQ := rfl
@[simp] theorem onGroup_mgmt (s : State) (b k : Nat) (f : Group → Group) : (s.onGroup b k f).mgmt = s.mgmt := rfl
@[simp] theorem onGroup_toContain (s : State) (b k : Nat) (f : Group → Group) : (s.onGroup b k f).toContain = s.toContain := rfl
@[simp] theorem onGroup_dying (s : State) (b k : Nat) (f : Group → Group) : (s.onGroup b k f).dying = s.dying := rfl
@[simp] theorem onGroup_leaving (s : State) (b k : Nat) (f : Group → Group) : (s.onGroup b k f).leaving = s.leaving := rfl
@[simp] theorem onGroup_ctxs (s : State) (b k : Nat) (f : Group → Group) : (s.onGroup b k f).ctxs = s.ctxs := rfl
@[simp] theorem onGroup_launches (s : State) (b k : Nat) (f : Group → Group) : (s.onGroup b k f).launches = s.launches := rfl
@[simp] theorem onGroup_blocks (s : State) (b k : Nat) (f : Group → Group) : (s.onGroup b k f).blocks = s.blocks := rfl

/-! ## State.wake -/

@[simp] theorem wake_cycle (s : State) : (s.wake).cycle = s.cycle := rfl
@[simp] theorem wake_hbeat (s : State) : (s.wake).hbeat = s.hbeat := rfl
@[simp] theorem wake_mxemu (s : State) : (s.wake).mxemu = s.mxemu := rfl
@[simp] theorem wake_slot (s : State) : (s.wake).slot = s.slot := rfl
@[simp] theorem wake_free (s : State) : (s.wake).free = s.free := rfl
@[simp] theorem wake_nextKey (s : State) : (s.wake).nextKey = s.nextKey := rfl
@[simp] theorem wake_agenda (s : State) : (s.wake).agenda = s.agenda := rfl
@[simp] theorem wake_turn (s : State) : (s.wake).turn = s.turn := rfl
@[simp] theorem wake_cue (s : State) : (s.wake).cue = s.cue := rfl
@[simp] theorem wake_mem (s : State) : (s.wake).mem = s.mem := rfl
@[simp] theorem wake_poison (s : State) : (s.wake).poison = s.poison := rfl
@[simp] theorem wake_mended (s : State) : (s.wake).mended = s.mended := rfl
@[simp] theorem wake_hdm (s : State) : (s.wake).hdm = s.hdm := rfl
@[simp] theorem wake_hdmNext (s : State) : (s.wake).hdmNext = s.hdmNext := rfl
@[simp] theorem wake_l1 (s : State) : (s.wake).l1 = s.l1 := rfl
@[simp] theorem wake_l2 (s : State) : (s.wake).l2 = s.l2 := rfl
@[simp] theorem wake_homes (s : State) : (s.wake).homes = s.homes := rfl
@[simp] theorem wake_icache (s : State) : (s.wake).icache = s.icache := rfl
@[simp] theorem wake_tlb (s : State) : (s.wake).tlb = s.tlb := rfl
@[simp] theorem wake_olog (s : State) : (s.wake).olog = s.olog := rfl
@[simp] theorem wake_ats (s : State) : (s.wake).ats = s.ats := rfl
@[simp] theorem wake_segs (s : State) : (s.wake).segs = s.segs := rfl
@[simp] theorem wake_vlines (s : State) : (s.wake).vlines = s.vlines := rfl
@[simp] theorem wake_views (s : State) : (s.wake).views = s.views := rfl
@[simp] theorem wake_sibs (s : State) : (s.wake).sibs = s.sibs := rfl
@[simp] theorem wake_aliases (s : State) : (s.wake).aliases = s.aliases := rfl
@[simp] theorem wake_sharing (s : State) : (s.wake).sharing = s.sharing := rfl
@[simp] theorem wake_unpresPages (s : State) : (s.wake).unpresPages = s.unpresPages := rfl
@[simp] theorem wake_eave (s : State) : (s.wake).eave = s.eave := rfl
@[simp] theorem wake_unpresLines (s : State) : (s.wake).unpresLines = s.unpresLines := rfl
@[simp] theorem wake_items (s : State) : (s.wake).items = s.items := rfl
@[simp] theorem wake_owed (s : State) : (s.wake).owed = s.owed := rfl
@[simp] theorem wake_sched (s : State) : (s.wake).sched = s.sched := rfl
@[simp] theorem wake_mails (s : State) : (s.wake).mails = s.mails := rfl
@[simp] theorem wake_combine (s : State) : (s.wake).combine = s.combine := rfl
@[simp] theorem wake_mxAllocs (s : State) : (s.wake).mxAllocs = s.mxAllocs := rfl
@[simp] theorem wake_mxReqs (s : State) : (s.wake).mxReqs = s.mxReqs := rfl
@[simp] theorem wake_mxEntries (s : State) : (s.wake).mxEntries = s.mxEntries := rfl
@[simp] theorem wake_unfenced (s : State) : (s.wake).unfenced = s.unfenced := rfl
@[simp] theorem wake_ports (s : State) : (s.wake).ports = s.ports := rfl
@[simp] theorem wake_stops (s : State) : (s.wake).stops = s.stops := rfl
@[simp] theorem wake_stopping (s : State) : (s.wake).stopping = s.stopping := rfl
@[simp] theorem wake_fabric (s : State) : (s.wake).fabric = s.fabric := rfl
@[simp] theorem wake_inbox (s : State) : (s.wake).inbox = s.inbox := rfl
@[simp] theorem wake_inPuts (s : State) : (s.wake).inPuts = s.inPuts := rfl
@[simp] theorem wake_windows (s : State) : (s.wake).windows = s.windows := rfl
@[simp] theorem wake_results (s : State) : (s.wake).results = s.results := rfl
@[simp] theorem wake_chunks (s : State) : (s.wake).chunks = s.chunks := rfl
@[simp] theorem wake_sent (s : State) : (s.wake).sent = s.sent := rfl
@[simp] theorem wake_queues (s : State) : (s.wake).queues = s.queues := rfl
@[simp] theorem wake_scans (s : State) : (s.wake).scans = s.scans := rfl
@[simp] theorem wake_arbiter (s : State) : (s.wake).arbiter = s.arbiter := rfl
@[simp] theorem wake_arbAt (s : State) : (s.wake).arbAt = s.arbAt := rfl
@[simp] theorem wake_preempts (s : State) : (s.wake).preempts = s.preempts := rfl
@[simp] theorem wake_returns (s : State) : (s.wake).returns = s.returns := rfl
@[simp] theorem wake_parked (s : State) : (s.wake).parked = s.parked := rfl
@[simp] theorem wake_colours (s : State) : (s.wake).colours = s.colours := rfl
@[simp] theorem wake_gone (s : State) : (s.wake).gone = s.gone := rfl
@[simp] theorem wake_freed (s : State) : (s.wake).freed = s.freed := rfl
@[simp] theorem wake_tabled (s : State) : (s.wake).tabled = s.tabled := rfl
@[simp] theorem wake_replayQ (s : State) : (s.wake).replayQ = s.replayQ := rfl
@[simp] theorem wake_mgmt (s : State) : (s.wake).mgmt = s.mgmt := rfl
@[simp] theorem wake_toContain (s : State) : (s.wake).toContain = s.toContain := rfl
@[simp] theorem wake_dying (s : State) : (s.wake).dying = s.dying := rfl
@[simp] theorem wake_leaving (s : State) : (s.wake).leaving = s.leaving := rfl
@[simp] theorem wake_ctxs (s : State) : (s.wake).ctxs = s.ctxs := rfl
@[simp] theorem wake_launches (s : State) : (s.wake).launches = s.launches := rfl
@[simp] theorem wake_blocks (s : State) : (s.wake).blocks = s.blocks := rfl

/-! ## State.onBlock -/

@[simp] theorem onBlock_cycle (s : State) (k : Nat) (f : Block → Block) : (s.onBlock k f).cycle = s.cycle := rfl
@[simp] theorem onBlock_hbeat (s : State) (k : Nat) (f : Block → Block) : (s.onBlock k f).hbeat = s.hbeat := rfl
@[simp] theorem onBlock_mxemu (s : State) (k : Nat) (f : Block → Block) : (s.onBlock k f).mxemu = s.mxemu := rfl
@[simp] theorem onBlock_slot (s : State) (k : Nat) (f : Block → Block) : (s.onBlock k f).slot = s.slot := rfl
@[simp] theorem onBlock_free (s : State) (k : Nat) (f : Block → Block) : (s.onBlock k f).free = s.free := rfl
@[simp] theorem onBlock_nextKey (s : State) (k : Nat) (f : Block → Block) : (s.onBlock k f).nextKey = s.nextKey := rfl
@[simp] theorem onBlock_agenda (s : State) (k : Nat) (f : Block → Block) : (s.onBlock k f).agenda = s.agenda := rfl
@[simp] theorem onBlock_turn (s : State) (k : Nat) (f : Block → Block) : (s.onBlock k f).turn = s.turn := rfl
@[simp] theorem onBlock_cue (s : State) (k : Nat) (f : Block → Block) : (s.onBlock k f).cue = s.cue := rfl
@[simp] theorem onBlock_mem (s : State) (k : Nat) (f : Block → Block) : (s.onBlock k f).mem = s.mem := rfl
@[simp] theorem onBlock_poison (s : State) (k : Nat) (f : Block → Block) : (s.onBlock k f).poison = s.poison := rfl
@[simp] theorem onBlock_mended (s : State) (k : Nat) (f : Block → Block) : (s.onBlock k f).mended = s.mended := rfl
@[simp] theorem onBlock_hdm (s : State) (k : Nat) (f : Block → Block) : (s.onBlock k f).hdm = s.hdm := rfl
@[simp] theorem onBlock_hdmNext (s : State) (k : Nat) (f : Block → Block) : (s.onBlock k f).hdmNext = s.hdmNext := rfl
@[simp] theorem onBlock_l1 (s : State) (k : Nat) (f : Block → Block) : (s.onBlock k f).l1 = s.l1 := rfl
@[simp] theorem onBlock_l2 (s : State) (k : Nat) (f : Block → Block) : (s.onBlock k f).l2 = s.l2 := rfl
@[simp] theorem onBlock_homes (s : State) (k : Nat) (f : Block → Block) : (s.onBlock k f).homes = s.homes := rfl
@[simp] theorem onBlock_icache (s : State) (k : Nat) (f : Block → Block) : (s.onBlock k f).icache = s.icache := rfl
@[simp] theorem onBlock_tlb (s : State) (k : Nat) (f : Block → Block) : (s.onBlock k f).tlb = s.tlb := rfl
@[simp] theorem onBlock_olog (s : State) (k : Nat) (f : Block → Block) : (s.onBlock k f).olog = s.olog := rfl
@[simp] theorem onBlock_ats (s : State) (k : Nat) (f : Block → Block) : (s.onBlock k f).ats = s.ats := rfl
@[simp] theorem onBlock_segs (s : State) (k : Nat) (f : Block → Block) : (s.onBlock k f).segs = s.segs := rfl
@[simp] theorem onBlock_vlines (s : State) (k : Nat) (f : Block → Block) : (s.onBlock k f).vlines = s.vlines := rfl
@[simp] theorem onBlock_views (s : State) (k : Nat) (f : Block → Block) : (s.onBlock k f).views = s.views := rfl
@[simp] theorem onBlock_sibs (s : State) (k : Nat) (f : Block → Block) : (s.onBlock k f).sibs = s.sibs := rfl
@[simp] theorem onBlock_aliases (s : State) (k : Nat) (f : Block → Block) : (s.onBlock k f).aliases = s.aliases := rfl
@[simp] theorem onBlock_sharing (s : State) (k : Nat) (f : Block → Block) : (s.onBlock k f).sharing = s.sharing := rfl
@[simp] theorem onBlock_unpresPages (s : State) (k : Nat) (f : Block → Block) : (s.onBlock k f).unpresPages = s.unpresPages := rfl
@[simp] theorem onBlock_eave (s : State) (k : Nat) (f : Block → Block) : (s.onBlock k f).eave = s.eave := rfl
@[simp] theorem onBlock_unpresLines (s : State) (k : Nat) (f : Block → Block) : (s.onBlock k f).unpresLines = s.unpresLines := rfl
@[simp] theorem onBlock_items (s : State) (k : Nat) (f : Block → Block) : (s.onBlock k f).items = s.items := rfl
@[simp] theorem onBlock_owed (s : State) (k : Nat) (f : Block → Block) : (s.onBlock k f).owed = s.owed := rfl
@[simp] theorem onBlock_sched (s : State) (k : Nat) (f : Block → Block) : (s.onBlock k f).sched = s.sched := rfl
@[simp] theorem onBlock_mails (s : State) (k : Nat) (f : Block → Block) : (s.onBlock k f).mails = s.mails := rfl
@[simp] theorem onBlock_combine (s : State) (k : Nat) (f : Block → Block) : (s.onBlock k f).combine = s.combine := rfl
@[simp] theorem onBlock_mxAllocs (s : State) (k : Nat) (f : Block → Block) : (s.onBlock k f).mxAllocs = s.mxAllocs := rfl
@[simp] theorem onBlock_mxReqs (s : State) (k : Nat) (f : Block → Block) : (s.onBlock k f).mxReqs = s.mxReqs := rfl
@[simp] theorem onBlock_mxEntries (s : State) (k : Nat) (f : Block → Block) : (s.onBlock k f).mxEntries = s.mxEntries := rfl
@[simp] theorem onBlock_unfenced (s : State) (k : Nat) (f : Block → Block) : (s.onBlock k f).unfenced = s.unfenced := rfl
@[simp] theorem onBlock_ports (s : State) (k : Nat) (f : Block → Block) : (s.onBlock k f).ports = s.ports := rfl
@[simp] theorem onBlock_stops (s : State) (k : Nat) (f : Block → Block) : (s.onBlock k f).stops = s.stops := rfl
@[simp] theorem onBlock_stopping (s : State) (k : Nat) (f : Block → Block) : (s.onBlock k f).stopping = s.stopping := rfl
@[simp] theorem onBlock_fabric (s : State) (k : Nat) (f : Block → Block) : (s.onBlock k f).fabric = s.fabric := rfl
@[simp] theorem onBlock_inbox (s : State) (k : Nat) (f : Block → Block) : (s.onBlock k f).inbox = s.inbox := rfl
@[simp] theorem onBlock_inPuts (s : State) (k : Nat) (f : Block → Block) : (s.onBlock k f).inPuts = s.inPuts := rfl
@[simp] theorem onBlock_windows (s : State) (k : Nat) (f : Block → Block) : (s.onBlock k f).windows = s.windows := rfl
@[simp] theorem onBlock_results (s : State) (k : Nat) (f : Block → Block) : (s.onBlock k f).results = s.results := rfl
@[simp] theorem onBlock_chunks (s : State) (k : Nat) (f : Block → Block) : (s.onBlock k f).chunks = s.chunks := rfl
@[simp] theorem onBlock_sent (s : State) (k : Nat) (f : Block → Block) : (s.onBlock k f).sent = s.sent := rfl
@[simp] theorem onBlock_queues (s : State) (k : Nat) (f : Block → Block) : (s.onBlock k f).queues = s.queues := rfl
@[simp] theorem onBlock_scans (s : State) (k : Nat) (f : Block → Block) : (s.onBlock k f).scans = s.scans := rfl
@[simp] theorem onBlock_arbiter (s : State) (k : Nat) (f : Block → Block) : (s.onBlock k f).arbiter = s.arbiter := rfl
@[simp] theorem onBlock_arbAt (s : State) (k : Nat) (f : Block → Block) : (s.onBlock k f).arbAt = s.arbAt := rfl
@[simp] theorem onBlock_preempts (s : State) (k : Nat) (f : Block → Block) : (s.onBlock k f).preempts = s.preempts := rfl
@[simp] theorem onBlock_returns (s : State) (k : Nat) (f : Block → Block) : (s.onBlock k f).returns = s.returns := rfl
@[simp] theorem onBlock_parked (s : State) (k : Nat) (f : Block → Block) : (s.onBlock k f).parked = s.parked := rfl
@[simp] theorem onBlock_colours (s : State) (k : Nat) (f : Block → Block) : (s.onBlock k f).colours = s.colours := rfl
@[simp] theorem onBlock_gone (s : State) (k : Nat) (f : Block → Block) : (s.onBlock k f).gone = s.gone := rfl
@[simp] theorem onBlock_freed (s : State) (k : Nat) (f : Block → Block) : (s.onBlock k f).freed = s.freed := rfl
@[simp] theorem onBlock_tabled (s : State) (k : Nat) (f : Block → Block) : (s.onBlock k f).tabled = s.tabled := rfl
@[simp] theorem onBlock_replayQ (s : State) (k : Nat) (f : Block → Block) : (s.onBlock k f).replayQ = s.replayQ := rfl
@[simp] theorem onBlock_mgmt (s : State) (k : Nat) (f : Block → Block) : (s.onBlock k f).mgmt = s.mgmt := rfl
@[simp] theorem onBlock_toContain (s : State) (k : Nat) (f : Block → Block) : (s.onBlock k f).toContain = s.toContain := rfl
@[simp] theorem onBlock_dying (s : State) (k : Nat) (f : Block → Block) : (s.onBlock k f).dying = s.dying := rfl
@[simp] theorem onBlock_leaving (s : State) (k : Nat) (f : Block → Block) : (s.onBlock k f).leaving = s.leaving := rfl
@[simp] theorem onBlock_ctxs (s : State) (k : Nat) (f : Block → Block) : (s.onBlock k f).ctxs = s.ctxs := rfl
@[simp] theorem onBlock_launches (s : State) (k : Nat) (f : Block → Block) : (s.onBlock k f).launches = s.launches := rfl
@[simp] theorem onBlock_cur (s : State) (k : Nat) (f : Block → Block) : (s.onBlock k f).cur = s.cur := rfl
@[simp] theorem onBlock_others (s : State) (k : Nat) (f : Block → Block) : (s.onBlock k f).others = s.others := rfl

/-! ## State.onLaunch -/

@[simp] theorem onLaunch_cycle (s : State) (k : Nat) (f : Launch → Launch) : (s.onLaunch k f).cycle = s.cycle := rfl
@[simp] theorem onLaunch_hbeat (s : State) (k : Nat) (f : Launch → Launch) : (s.onLaunch k f).hbeat = s.hbeat := rfl
@[simp] theorem onLaunch_mxemu (s : State) (k : Nat) (f : Launch → Launch) : (s.onLaunch k f).mxemu = s.mxemu := rfl
@[simp] theorem onLaunch_slot (s : State) (k : Nat) (f : Launch → Launch) : (s.onLaunch k f).slot = s.slot := rfl
@[simp] theorem onLaunch_free (s : State) (k : Nat) (f : Launch → Launch) : (s.onLaunch k f).free = s.free := rfl
@[simp] theorem onLaunch_nextKey (s : State) (k : Nat) (f : Launch → Launch) : (s.onLaunch k f).nextKey = s.nextKey := rfl
@[simp] theorem onLaunch_agenda (s : State) (k : Nat) (f : Launch → Launch) : (s.onLaunch k f).agenda = s.agenda := rfl
@[simp] theorem onLaunch_turn (s : State) (k : Nat) (f : Launch → Launch) : (s.onLaunch k f).turn = s.turn := rfl
@[simp] theorem onLaunch_cue (s : State) (k : Nat) (f : Launch → Launch) : (s.onLaunch k f).cue = s.cue := rfl
@[simp] theorem onLaunch_mem (s : State) (k : Nat) (f : Launch → Launch) : (s.onLaunch k f).mem = s.mem := rfl
@[simp] theorem onLaunch_poison (s : State) (k : Nat) (f : Launch → Launch) : (s.onLaunch k f).poison = s.poison := rfl
@[simp] theorem onLaunch_mended (s : State) (k : Nat) (f : Launch → Launch) : (s.onLaunch k f).mended = s.mended := rfl
@[simp] theorem onLaunch_hdm (s : State) (k : Nat) (f : Launch → Launch) : (s.onLaunch k f).hdm = s.hdm := rfl
@[simp] theorem onLaunch_hdmNext (s : State) (k : Nat) (f : Launch → Launch) : (s.onLaunch k f).hdmNext = s.hdmNext := rfl
@[simp] theorem onLaunch_l1 (s : State) (k : Nat) (f : Launch → Launch) : (s.onLaunch k f).l1 = s.l1 := rfl
@[simp] theorem onLaunch_l2 (s : State) (k : Nat) (f : Launch → Launch) : (s.onLaunch k f).l2 = s.l2 := rfl
@[simp] theorem onLaunch_homes (s : State) (k : Nat) (f : Launch → Launch) : (s.onLaunch k f).homes = s.homes := rfl
@[simp] theorem onLaunch_icache (s : State) (k : Nat) (f : Launch → Launch) : (s.onLaunch k f).icache = s.icache := rfl
@[simp] theorem onLaunch_tlb (s : State) (k : Nat) (f : Launch → Launch) : (s.onLaunch k f).tlb = s.tlb := rfl
@[simp] theorem onLaunch_olog (s : State) (k : Nat) (f : Launch → Launch) : (s.onLaunch k f).olog = s.olog := rfl
@[simp] theorem onLaunch_ats (s : State) (k : Nat) (f : Launch → Launch) : (s.onLaunch k f).ats = s.ats := rfl
@[simp] theorem onLaunch_segs (s : State) (k : Nat) (f : Launch → Launch) : (s.onLaunch k f).segs = s.segs := rfl
@[simp] theorem onLaunch_vlines (s : State) (k : Nat) (f : Launch → Launch) : (s.onLaunch k f).vlines = s.vlines := rfl
@[simp] theorem onLaunch_views (s : State) (k : Nat) (f : Launch → Launch) : (s.onLaunch k f).views = s.views := rfl
@[simp] theorem onLaunch_sibs (s : State) (k : Nat) (f : Launch → Launch) : (s.onLaunch k f).sibs = s.sibs := rfl
@[simp] theorem onLaunch_aliases (s : State) (k : Nat) (f : Launch → Launch) : (s.onLaunch k f).aliases = s.aliases := rfl
@[simp] theorem onLaunch_sharing (s : State) (k : Nat) (f : Launch → Launch) : (s.onLaunch k f).sharing = s.sharing := rfl
@[simp] theorem onLaunch_unpresPages (s : State) (k : Nat) (f : Launch → Launch) : (s.onLaunch k f).unpresPages = s.unpresPages := rfl
@[simp] theorem onLaunch_eave (s : State) (k : Nat) (f : Launch → Launch) : (s.onLaunch k f).eave = s.eave := rfl
@[simp] theorem onLaunch_unpresLines (s : State) (k : Nat) (f : Launch → Launch) : (s.onLaunch k f).unpresLines = s.unpresLines := rfl
@[simp] theorem onLaunch_items (s : State) (k : Nat) (f : Launch → Launch) : (s.onLaunch k f).items = s.items := rfl
@[simp] theorem onLaunch_owed (s : State) (k : Nat) (f : Launch → Launch) : (s.onLaunch k f).owed = s.owed := rfl
@[simp] theorem onLaunch_sched (s : State) (k : Nat) (f : Launch → Launch) : (s.onLaunch k f).sched = s.sched := rfl
@[simp] theorem onLaunch_mails (s : State) (k : Nat) (f : Launch → Launch) : (s.onLaunch k f).mails = s.mails := rfl
@[simp] theorem onLaunch_combine (s : State) (k : Nat) (f : Launch → Launch) : (s.onLaunch k f).combine = s.combine := rfl
@[simp] theorem onLaunch_mxAllocs (s : State) (k : Nat) (f : Launch → Launch) : (s.onLaunch k f).mxAllocs = s.mxAllocs := rfl
@[simp] theorem onLaunch_mxReqs (s : State) (k : Nat) (f : Launch → Launch) : (s.onLaunch k f).mxReqs = s.mxReqs := rfl
@[simp] theorem onLaunch_mxEntries (s : State) (k : Nat) (f : Launch → Launch) : (s.onLaunch k f).mxEntries = s.mxEntries := rfl
@[simp] theorem onLaunch_unfenced (s : State) (k : Nat) (f : Launch → Launch) : (s.onLaunch k f).unfenced = s.unfenced := rfl
@[simp] theorem onLaunch_ports (s : State) (k : Nat) (f : Launch → Launch) : (s.onLaunch k f).ports = s.ports := rfl
@[simp] theorem onLaunch_stops (s : State) (k : Nat) (f : Launch → Launch) : (s.onLaunch k f).stops = s.stops := rfl
@[simp] theorem onLaunch_stopping (s : State) (k : Nat) (f : Launch → Launch) : (s.onLaunch k f).stopping = s.stopping := rfl
@[simp] theorem onLaunch_fabric (s : State) (k : Nat) (f : Launch → Launch) : (s.onLaunch k f).fabric = s.fabric := rfl
@[simp] theorem onLaunch_inbox (s : State) (k : Nat) (f : Launch → Launch) : (s.onLaunch k f).inbox = s.inbox := rfl
@[simp] theorem onLaunch_inPuts (s : State) (k : Nat) (f : Launch → Launch) : (s.onLaunch k f).inPuts = s.inPuts := rfl
@[simp] theorem onLaunch_windows (s : State) (k : Nat) (f : Launch → Launch) : (s.onLaunch k f).windows = s.windows := rfl
@[simp] theorem onLaunch_results (s : State) (k : Nat) (f : Launch → Launch) : (s.onLaunch k f).results = s.results := rfl
@[simp] theorem onLaunch_chunks (s : State) (k : Nat) (f : Launch → Launch) : (s.onLaunch k f).chunks = s.chunks := rfl
@[simp] theorem onLaunch_sent (s : State) (k : Nat) (f : Launch → Launch) : (s.onLaunch k f).sent = s.sent := rfl
@[simp] theorem onLaunch_queues (s : State) (k : Nat) (f : Launch → Launch) : (s.onLaunch k f).queues = s.queues := rfl
@[simp] theorem onLaunch_scans (s : State) (k : Nat) (f : Launch → Launch) : (s.onLaunch k f).scans = s.scans := rfl
@[simp] theorem onLaunch_arbiter (s : State) (k : Nat) (f : Launch → Launch) : (s.onLaunch k f).arbiter = s.arbiter := rfl
@[simp] theorem onLaunch_arbAt (s : State) (k : Nat) (f : Launch → Launch) : (s.onLaunch k f).arbAt = s.arbAt := rfl
@[simp] theorem onLaunch_preempts (s : State) (k : Nat) (f : Launch → Launch) : (s.onLaunch k f).preempts = s.preempts := rfl
@[simp] theorem onLaunch_returns (s : State) (k : Nat) (f : Launch → Launch) : (s.onLaunch k f).returns = s.returns := rfl
@[simp] theorem onLaunch_parked (s : State) (k : Nat) (f : Launch → Launch) : (s.onLaunch k f).parked = s.parked := rfl
@[simp] theorem onLaunch_colours (s : State) (k : Nat) (f : Launch → Launch) : (s.onLaunch k f).colours = s.colours := rfl
@[simp] theorem onLaunch_gone (s : State) (k : Nat) (f : Launch → Launch) : (s.onLaunch k f).gone = s.gone := rfl
@[simp] theorem onLaunch_freed (s : State) (k : Nat) (f : Launch → Launch) : (s.onLaunch k f).freed = s.freed := rfl
@[simp] theorem onLaunch_tabled (s : State) (k : Nat) (f : Launch → Launch) : (s.onLaunch k f).tabled = s.tabled := rfl
@[simp] theorem onLaunch_replayQ (s : State) (k : Nat) (f : Launch → Launch) : (s.onLaunch k f).replayQ = s.replayQ := rfl
@[simp] theorem onLaunch_mgmt (s : State) (k : Nat) (f : Launch → Launch) : (s.onLaunch k f).mgmt = s.mgmt := rfl
@[simp] theorem onLaunch_toContain (s : State) (k : Nat) (f : Launch → Launch) : (s.onLaunch k f).toContain = s.toContain := rfl
@[simp] theorem onLaunch_dying (s : State) (k : Nat) (f : Launch → Launch) : (s.onLaunch k f).dying = s.dying := rfl
@[simp] theorem onLaunch_leaving (s : State) (k : Nat) (f : Launch → Launch) : (s.onLaunch k f).leaving = s.leaving := rfl
@[simp] theorem onLaunch_ctxs (s : State) (k : Nat) (f : Launch → Launch) : (s.onLaunch k f).ctxs = s.ctxs := rfl
@[simp] theorem onLaunch_blocks (s : State) (k : Nat) (f : Launch → Launch) : (s.onLaunch k f).blocks = s.blocks := rfl
@[simp] theorem onLaunch_cur (s : State) (k : Nat) (f : Launch → Launch) : (s.onLaunch k f).cur = s.cur := rfl
@[simp] theorem onLaunch_others (s : State) (k : Nat) (f : Launch → Launch) : (s.onLaunch k f).others = s.others := rfl

/-! ## State.onCtx -/

@[simp] theorem onCtx_cycle (s : State) (k : Nat) (f : Context → Context) : (s.onCtx k f).cycle = s.cycle := rfl
@[simp] theorem onCtx_hbeat (s : State) (k : Nat) (f : Context → Context) : (s.onCtx k f).hbeat = s.hbeat := rfl
@[simp] theorem onCtx_mxemu (s : State) (k : Nat) (f : Context → Context) : (s.onCtx k f).mxemu = s.mxemu := rfl
@[simp] theorem onCtx_slot (s : State) (k : Nat) (f : Context → Context) : (s.onCtx k f).slot = s.slot := rfl
@[simp] theorem onCtx_free (s : State) (k : Nat) (f : Context → Context) : (s.onCtx k f).free = s.free := rfl
@[simp] theorem onCtx_nextKey (s : State) (k : Nat) (f : Context → Context) : (s.onCtx k f).nextKey = s.nextKey := rfl
@[simp] theorem onCtx_agenda (s : State) (k : Nat) (f : Context → Context) : (s.onCtx k f).agenda = s.agenda := rfl
@[simp] theorem onCtx_turn (s : State) (k : Nat) (f : Context → Context) : (s.onCtx k f).turn = s.turn := rfl
@[simp] theorem onCtx_cue (s : State) (k : Nat) (f : Context → Context) : (s.onCtx k f).cue = s.cue := rfl
@[simp] theorem onCtx_mem (s : State) (k : Nat) (f : Context → Context) : (s.onCtx k f).mem = s.mem := rfl
@[simp] theorem onCtx_poison (s : State) (k : Nat) (f : Context → Context) : (s.onCtx k f).poison = s.poison := rfl
@[simp] theorem onCtx_mended (s : State) (k : Nat) (f : Context → Context) : (s.onCtx k f).mended = s.mended := rfl
@[simp] theorem onCtx_hdm (s : State) (k : Nat) (f : Context → Context) : (s.onCtx k f).hdm = s.hdm := rfl
@[simp] theorem onCtx_hdmNext (s : State) (k : Nat) (f : Context → Context) : (s.onCtx k f).hdmNext = s.hdmNext := rfl
@[simp] theorem onCtx_l1 (s : State) (k : Nat) (f : Context → Context) : (s.onCtx k f).l1 = s.l1 := rfl
@[simp] theorem onCtx_l2 (s : State) (k : Nat) (f : Context → Context) : (s.onCtx k f).l2 = s.l2 := rfl
@[simp] theorem onCtx_homes (s : State) (k : Nat) (f : Context → Context) : (s.onCtx k f).homes = s.homes := rfl
@[simp] theorem onCtx_icache (s : State) (k : Nat) (f : Context → Context) : (s.onCtx k f).icache = s.icache := rfl
@[simp] theorem onCtx_tlb (s : State) (k : Nat) (f : Context → Context) : (s.onCtx k f).tlb = s.tlb := rfl
@[simp] theorem onCtx_olog (s : State) (k : Nat) (f : Context → Context) : (s.onCtx k f).olog = s.olog := rfl
@[simp] theorem onCtx_ats (s : State) (k : Nat) (f : Context → Context) : (s.onCtx k f).ats = s.ats := rfl
@[simp] theorem onCtx_segs (s : State) (k : Nat) (f : Context → Context) : (s.onCtx k f).segs = s.segs := rfl
@[simp] theorem onCtx_vlines (s : State) (k : Nat) (f : Context → Context) : (s.onCtx k f).vlines = s.vlines := rfl
@[simp] theorem onCtx_views (s : State) (k : Nat) (f : Context → Context) : (s.onCtx k f).views = s.views := rfl
@[simp] theorem onCtx_sibs (s : State) (k : Nat) (f : Context → Context) : (s.onCtx k f).sibs = s.sibs := rfl
@[simp] theorem onCtx_aliases (s : State) (k : Nat) (f : Context → Context) : (s.onCtx k f).aliases = s.aliases := rfl
@[simp] theorem onCtx_sharing (s : State) (k : Nat) (f : Context → Context) : (s.onCtx k f).sharing = s.sharing := rfl
@[simp] theorem onCtx_unpresPages (s : State) (k : Nat) (f : Context → Context) : (s.onCtx k f).unpresPages = s.unpresPages := rfl
@[simp] theorem onCtx_eave (s : State) (k : Nat) (f : Context → Context) : (s.onCtx k f).eave = s.eave := rfl
@[simp] theorem onCtx_unpresLines (s : State) (k : Nat) (f : Context → Context) : (s.onCtx k f).unpresLines = s.unpresLines := rfl
@[simp] theorem onCtx_items (s : State) (k : Nat) (f : Context → Context) : (s.onCtx k f).items = s.items := rfl
@[simp] theorem onCtx_owed (s : State) (k : Nat) (f : Context → Context) : (s.onCtx k f).owed = s.owed := rfl
@[simp] theorem onCtx_sched (s : State) (k : Nat) (f : Context → Context) : (s.onCtx k f).sched = s.sched := rfl
@[simp] theorem onCtx_mails (s : State) (k : Nat) (f : Context → Context) : (s.onCtx k f).mails = s.mails := rfl
@[simp] theorem onCtx_combine (s : State) (k : Nat) (f : Context → Context) : (s.onCtx k f).combine = s.combine := rfl
@[simp] theorem onCtx_mxAllocs (s : State) (k : Nat) (f : Context → Context) : (s.onCtx k f).mxAllocs = s.mxAllocs := rfl
@[simp] theorem onCtx_mxReqs (s : State) (k : Nat) (f : Context → Context) : (s.onCtx k f).mxReqs = s.mxReqs := rfl
@[simp] theorem onCtx_mxEntries (s : State) (k : Nat) (f : Context → Context) : (s.onCtx k f).mxEntries = s.mxEntries := rfl
@[simp] theorem onCtx_unfenced (s : State) (k : Nat) (f : Context → Context) : (s.onCtx k f).unfenced = s.unfenced := rfl
@[simp] theorem onCtx_ports (s : State) (k : Nat) (f : Context → Context) : (s.onCtx k f).ports = s.ports := rfl
@[simp] theorem onCtx_stops (s : State) (k : Nat) (f : Context → Context) : (s.onCtx k f).stops = s.stops := rfl
@[simp] theorem onCtx_stopping (s : State) (k : Nat) (f : Context → Context) : (s.onCtx k f).stopping = s.stopping := rfl
@[simp] theorem onCtx_fabric (s : State) (k : Nat) (f : Context → Context) : (s.onCtx k f).fabric = s.fabric := rfl
@[simp] theorem onCtx_inbox (s : State) (k : Nat) (f : Context → Context) : (s.onCtx k f).inbox = s.inbox := rfl
@[simp] theorem onCtx_inPuts (s : State) (k : Nat) (f : Context → Context) : (s.onCtx k f).inPuts = s.inPuts := rfl
@[simp] theorem onCtx_windows (s : State) (k : Nat) (f : Context → Context) : (s.onCtx k f).windows = s.windows := rfl
@[simp] theorem onCtx_results (s : State) (k : Nat) (f : Context → Context) : (s.onCtx k f).results = s.results := rfl
@[simp] theorem onCtx_chunks (s : State) (k : Nat) (f : Context → Context) : (s.onCtx k f).chunks = s.chunks := rfl
@[simp] theorem onCtx_sent (s : State) (k : Nat) (f : Context → Context) : (s.onCtx k f).sent = s.sent := rfl
@[simp] theorem onCtx_queues (s : State) (k : Nat) (f : Context → Context) : (s.onCtx k f).queues = s.queues := rfl
@[simp] theorem onCtx_scans (s : State) (k : Nat) (f : Context → Context) : (s.onCtx k f).scans = s.scans := rfl
@[simp] theorem onCtx_arbiter (s : State) (k : Nat) (f : Context → Context) : (s.onCtx k f).arbiter = s.arbiter := rfl
@[simp] theorem onCtx_arbAt (s : State) (k : Nat) (f : Context → Context) : (s.onCtx k f).arbAt = s.arbAt := rfl
@[simp] theorem onCtx_preempts (s : State) (k : Nat) (f : Context → Context) : (s.onCtx k f).preempts = s.preempts := rfl
@[simp] theorem onCtx_returns (s : State) (k : Nat) (f : Context → Context) : (s.onCtx k f).returns = s.returns := rfl
@[simp] theorem onCtx_parked (s : State) (k : Nat) (f : Context → Context) : (s.onCtx k f).parked = s.parked := rfl
@[simp] theorem onCtx_colours (s : State) (k : Nat) (f : Context → Context) : (s.onCtx k f).colours = s.colours := rfl
@[simp] theorem onCtx_gone (s : State) (k : Nat) (f : Context → Context) : (s.onCtx k f).gone = s.gone := rfl
@[simp] theorem onCtx_freed (s : State) (k : Nat) (f : Context → Context) : (s.onCtx k f).freed = s.freed := rfl
@[simp] theorem onCtx_tabled (s : State) (k : Nat) (f : Context → Context) : (s.onCtx k f).tabled = s.tabled := rfl
@[simp] theorem onCtx_replayQ (s : State) (k : Nat) (f : Context → Context) : (s.onCtx k f).replayQ = s.replayQ := rfl
@[simp] theorem onCtx_mgmt (s : State) (k : Nat) (f : Context → Context) : (s.onCtx k f).mgmt = s.mgmt := rfl
@[simp] theorem onCtx_toContain (s : State) (k : Nat) (f : Context → Context) : (s.onCtx k f).toContain = s.toContain := rfl
@[simp] theorem onCtx_dying (s : State) (k : Nat) (f : Context → Context) : (s.onCtx k f).dying = s.dying := rfl
@[simp] theorem onCtx_leaving (s : State) (k : Nat) (f : Context → Context) : (s.onCtx k f).leaving = s.leaving := rfl
@[simp] theorem onCtx_launches (s : State) (k : Nat) (f : Context → Context) : (s.onCtx k f).launches = s.launches := rfl
@[simp] theorem onCtx_blocks (s : State) (k : Nat) (f : Context → Context) : (s.onCtx k f).blocks = s.blocks := rfl
@[simp] theorem onCtx_cur (s : State) (k : Nat) (f : Context → Context) : (s.onCtx k f).cur = s.cur := rfl
@[simp] theorem onCtx_others (s : State) (k : Nat) (f : Context → Context) : (s.onCtx k f).others = s.others := rfl

/-! ## State.account -/

@[simp] theorem account_hbeat (s : State) (n : Nat) : (s.account n).hbeat = s.hbeat := rfl
@[simp] theorem account_mxemu (s : State) (n : Nat) : (s.account n).mxemu = s.mxemu := rfl
@[simp] theorem account_slot (s : State) (n : Nat) : (s.account n).slot = s.slot := rfl
@[simp] theorem account_nextKey (s : State) (n : Nat) : (s.account n).nextKey = s.nextKey := rfl
@[simp] theorem account_agenda (s : State) (n : Nat) : (s.account n).agenda = s.agenda := rfl
@[simp] theorem account_turn (s : State) (n : Nat) : (s.account n).turn = s.turn := rfl
@[simp] theorem account_cue (s : State) (n : Nat) : (s.account n).cue = s.cue := rfl
@[simp] theorem account_mem (s : State) (n : Nat) : (s.account n).mem = s.mem := rfl
@[simp] theorem account_poison (s : State) (n : Nat) : (s.account n).poison = s.poison := rfl
@[simp] theorem account_mended (s : State) (n : Nat) : (s.account n).mended = s.mended := rfl
@[simp] theorem account_hdm (s : State) (n : Nat) : (s.account n).hdm = s.hdm := rfl
@[simp] theorem account_hdmNext (s : State) (n : Nat) : (s.account n).hdmNext = s.hdmNext := rfl
@[simp] theorem account_l1 (s : State) (n : Nat) : (s.account n).l1 = s.l1 := rfl
@[simp] theorem account_l2 (s : State) (n : Nat) : (s.account n).l2 = s.l2 := rfl
@[simp] theorem account_homes (s : State) (n : Nat) : (s.account n).homes = s.homes := rfl
@[simp] theorem account_icache (s : State) (n : Nat) : (s.account n).icache = s.icache := rfl
@[simp] theorem account_tlb (s : State) (n : Nat) : (s.account n).tlb = s.tlb := rfl
@[simp] theorem account_olog (s : State) (n : Nat) : (s.account n).olog = s.olog := rfl
@[simp] theorem account_ats (s : State) (n : Nat) : (s.account n).ats = s.ats := rfl
@[simp] theorem account_segs (s : State) (n : Nat) : (s.account n).segs = s.segs := rfl
@[simp] theorem account_vlines (s : State) (n : Nat) : (s.account n).vlines = s.vlines := rfl
@[simp] theorem account_views (s : State) (n : Nat) : (s.account n).views = s.views := rfl
@[simp] theorem account_sibs (s : State) (n : Nat) : (s.account n).sibs = s.sibs := rfl
@[simp] theorem account_aliases (s : State) (n : Nat) : (s.account n).aliases = s.aliases := rfl
@[simp] theorem account_sharing (s : State) (n : Nat) : (s.account n).sharing = s.sharing := rfl
@[simp] theorem account_unpresPages (s : State) (n : Nat) : (s.account n).unpresPages = s.unpresPages := rfl
@[simp] theorem account_eave (s : State) (n : Nat) : (s.account n).eave = s.eave := rfl
@[simp] theorem account_unpresLines (s : State) (n : Nat) : (s.account n).unpresLines = s.unpresLines := rfl
@[simp] theorem account_items (s : State) (n : Nat) : (s.account n).items = s.items := rfl
@[simp] theorem account_owed (s : State) (n : Nat) : (s.account n).owed = s.owed := rfl
@[simp] theorem account_sched (s : State) (n : Nat) : (s.account n).sched = s.sched := rfl
@[simp] theorem account_mails (s : State) (n : Nat) : (s.account n).mails = s.mails := rfl
@[simp] theorem account_combine (s : State) (n : Nat) : (s.account n).combine = s.combine := rfl
@[simp] theorem account_mxAllocs (s : State) (n : Nat) : (s.account n).mxAllocs = s.mxAllocs := rfl
@[simp] theorem account_mxReqs (s : State) (n : Nat) : (s.account n).mxReqs = s.mxReqs := rfl
@[simp] theorem account_mxEntries (s : State) (n : Nat) : (s.account n).mxEntries = s.mxEntries := rfl
@[simp] theorem account_unfenced (s : State) (n : Nat) : (s.account n).unfenced = s.unfenced := rfl
@[simp] theorem account_ports (s : State) (n : Nat) : (s.account n).ports = s.ports := rfl
@[simp] theorem account_stops (s : State) (n : Nat) : (s.account n).stops = s.stops := rfl
@[simp] theorem account_stopping (s : State) (n : Nat) : (s.account n).stopping = s.stopping := rfl
@[simp] theorem account_fabric (s : State) (n : Nat) : (s.account n).fabric = s.fabric := rfl
@[simp] theorem account_inbox (s : State) (n : Nat) : (s.account n).inbox = s.inbox := rfl
@[simp] theorem account_inPuts (s : State) (n : Nat) : (s.account n).inPuts = s.inPuts := rfl
@[simp] theorem account_windows (s : State) (n : Nat) : (s.account n).windows = s.windows := rfl
@[simp] theorem account_results (s : State) (n : Nat) : (s.account n).results = s.results := rfl
@[simp] theorem account_chunks (s : State) (n : Nat) : (s.account n).chunks = s.chunks := rfl
@[simp] theorem account_sent (s : State) (n : Nat) : (s.account n).sent = s.sent := rfl
@[simp] theorem account_queues (s : State) (n : Nat) : (s.account n).queues = s.queues := rfl
@[simp] theorem account_scans (s : State) (n : Nat) : (s.account n).scans = s.scans := rfl
@[simp] theorem account_arbiter (s : State) (n : Nat) : (s.account n).arbiter = s.arbiter := rfl
@[simp] theorem account_arbAt (s : State) (n : Nat) : (s.account n).arbAt = s.arbAt := rfl
@[simp] theorem account_preempts (s : State) (n : Nat) : (s.account n).preempts = s.preempts := rfl
@[simp] theorem account_returns (s : State) (n : Nat) : (s.account n).returns = s.returns := rfl
@[simp] theorem account_parked (s : State) (n : Nat) : (s.account n).parked = s.parked := rfl
@[simp] theorem account_colours (s : State) (n : Nat) : (s.account n).colours = s.colours := rfl
@[simp] theorem account_gone (s : State) (n : Nat) : (s.account n).gone = s.gone := rfl
@[simp] theorem account_freed (s : State) (n : Nat) : (s.account n).freed = s.freed := rfl
@[simp] theorem account_tabled (s : State) (n : Nat) : (s.account n).tabled = s.tabled := rfl
@[simp] theorem account_replayQ (s : State) (n : Nat) : (s.account n).replayQ = s.replayQ := rfl
@[simp] theorem account_mgmt (s : State) (n : Nat) : (s.account n).mgmt = s.mgmt := rfl
@[simp] theorem account_toContain (s : State) (n : Nat) : (s.account n).toContain = s.toContain := rfl
@[simp] theorem account_dying (s : State) (n : Nat) : (s.account n).dying = s.dying := rfl
@[simp] theorem account_leaving (s : State) (n : Nat) : (s.account n).leaving = s.leaving := rfl
@[simp] theorem account_ctxs (s : State) (n : Nat) : (s.account n).ctxs = s.ctxs := rfl
@[simp] theorem account_cur (s : State) (n : Nat) : (s.account n).cur = s.cur := rfl
@[simp] theorem account_others (s : State) (n : Nat) : (s.account n).others = s.others := rfl

/-! ## State.setWide -/

@[simp] theorem setWide_cycle (s : State) : (s.setWide).cycle = s.cycle := rfl
@[simp] theorem setWide_hbeat (s : State) : (s.setWide).hbeat = s.hbeat := rfl
@[simp] theorem setWide_mxemu (s : State) : (s.setWide).mxemu = s.mxemu := rfl
@[simp] theorem setWide_slot (s : State) : (s.setWide).slot = s.slot := rfl
@[simp] theorem setWide_free (s : State) : (s.setWide).free = s.free := rfl
@[simp] theorem setWide_nextKey (s : State) : (s.setWide).nextKey = s.nextKey := rfl
@[simp] theorem setWide_agenda (s : State) : (s.setWide).agenda = s.agenda := rfl
@[simp] theorem setWide_turn (s : State) : (s.setWide).turn = s.turn := rfl
@[simp] theorem setWide_cue (s : State) : (s.setWide).cue = s.cue := rfl
@[simp] theorem setWide_mem (s : State) : (s.setWide).mem = s.mem := rfl
@[simp] theorem setWide_poison (s : State) : (s.setWide).poison = s.poison := rfl
@[simp] theorem setWide_mended (s : State) : (s.setWide).mended = s.mended := rfl
@[simp] theorem setWide_hdm (s : State) : (s.setWide).hdm = s.hdm := rfl
@[simp] theorem setWide_hdmNext (s : State) : (s.setWide).hdmNext = s.hdmNext := rfl
@[simp] theorem setWide_l1 (s : State) : (s.setWide).l1 = s.l1 := rfl
@[simp] theorem setWide_l2 (s : State) : (s.setWide).l2 = s.l2 := rfl
@[simp] theorem setWide_homes (s : State) : (s.setWide).homes = s.homes := rfl
@[simp] theorem setWide_icache (s : State) : (s.setWide).icache = s.icache := rfl
@[simp] theorem setWide_tlb (s : State) : (s.setWide).tlb = s.tlb := rfl
@[simp] theorem setWide_olog (s : State) : (s.setWide).olog = s.olog := rfl
@[simp] theorem setWide_ats (s : State) : (s.setWide).ats = s.ats := rfl
@[simp] theorem setWide_segs (s : State) : (s.setWide).segs = s.segs := rfl
@[simp] theorem setWide_vlines (s : State) : (s.setWide).vlines = s.vlines := rfl
@[simp] theorem setWide_views (s : State) : (s.setWide).views = s.views := rfl
@[simp] theorem setWide_sibs (s : State) : (s.setWide).sibs = s.sibs := rfl
@[simp] theorem setWide_aliases (s : State) : (s.setWide).aliases = s.aliases := rfl
@[simp] theorem setWide_sharing (s : State) : (s.setWide).sharing = s.sharing := rfl
@[simp] theorem setWide_unpresPages (s : State) : (s.setWide).unpresPages = s.unpresPages := rfl
@[simp] theorem setWide_eave (s : State) : (s.setWide).eave = s.eave := rfl
@[simp] theorem setWide_unpresLines (s : State) : (s.setWide).unpresLines = s.unpresLines := rfl
@[simp] theorem setWide_items (s : State) : (s.setWide).items = s.items := rfl
@[simp] theorem setWide_owed (s : State) : (s.setWide).owed = s.owed := rfl
@[simp] theorem setWide_sched (s : State) : (s.setWide).sched = s.sched := rfl
@[simp] theorem setWide_mails (s : State) : (s.setWide).mails = s.mails := rfl
@[simp] theorem setWide_combine (s : State) : (s.setWide).combine = s.combine := rfl
@[simp] theorem setWide_mxAllocs (s : State) : (s.setWide).mxAllocs = s.mxAllocs := rfl
@[simp] theorem setWide_mxReqs (s : State) : (s.setWide).mxReqs = s.mxReqs := rfl
@[simp] theorem setWide_mxEntries (s : State) : (s.setWide).mxEntries = s.mxEntries := rfl
@[simp] theorem setWide_unfenced (s : State) : (s.setWide).unfenced = s.unfenced := rfl
@[simp] theorem setWide_ports (s : State) : (s.setWide).ports = s.ports := rfl
@[simp] theorem setWide_stops (s : State) : (s.setWide).stops = s.stops := rfl
@[simp] theorem setWide_stopping (s : State) : (s.setWide).stopping = s.stopping := rfl
@[simp] theorem setWide_fabric (s : State) : (s.setWide).fabric = s.fabric := rfl
@[simp] theorem setWide_inbox (s : State) : (s.setWide).inbox = s.inbox := rfl
@[simp] theorem setWide_inPuts (s : State) : (s.setWide).inPuts = s.inPuts := rfl
@[simp] theorem setWide_windows (s : State) : (s.setWide).windows = s.windows := rfl
@[simp] theorem setWide_results (s : State) : (s.setWide).results = s.results := rfl
@[simp] theorem setWide_chunks (s : State) : (s.setWide).chunks = s.chunks := rfl
@[simp] theorem setWide_sent (s : State) : (s.setWide).sent = s.sent := rfl
@[simp] theorem setWide_queues (s : State) : (s.setWide).queues = s.queues := rfl
@[simp] theorem setWide_scans (s : State) : (s.setWide).scans = s.scans := rfl
@[simp] theorem setWide_arbiter (s : State) : (s.setWide).arbiter = s.arbiter := rfl
@[simp] theorem setWide_arbAt (s : State) : (s.setWide).arbAt = s.arbAt := rfl
@[simp] theorem setWide_preempts (s : State) : (s.setWide).preempts = s.preempts := rfl
@[simp] theorem setWide_returns (s : State) : (s.setWide).returns = s.returns := rfl
@[simp] theorem setWide_parked (s : State) : (s.setWide).parked = s.parked := rfl
@[simp] theorem setWide_colours (s : State) : (s.setWide).colours = s.colours := rfl
@[simp] theorem setWide_gone (s : State) : (s.setWide).gone = s.gone := rfl
@[simp] theorem setWide_freed (s : State) : (s.setWide).freed = s.freed := rfl
@[simp] theorem setWide_tabled (s : State) : (s.setWide).tabled = s.tabled := rfl
@[simp] theorem setWide_replayQ (s : State) : (s.setWide).replayQ = s.replayQ := rfl
@[simp] theorem setWide_mgmt (s : State) : (s.setWide).mgmt = s.mgmt := rfl
@[simp] theorem setWide_toContain (s : State) : (s.setWide).toContain = s.toContain := rfl
@[simp] theorem setWide_dying (s : State) : (s.setWide).dying = s.dying := rfl
@[simp] theorem setWide_leaving (s : State) : (s.setWide).leaving = s.leaving := rfl
@[simp] theorem setWide_ctxs (s : State) : (s.setWide).ctxs = s.ctxs := rfl
@[simp] theorem setWide_launches (s : State) : (s.setWide).launches = s.launches := rfl
@[simp] theorem setWide_cur (s : State) : (s.setWide).cur = s.cur := rfl
@[simp] theorem setWide_others (s : State) : (s.setWide).others = s.others := rfl

/-! ## State.goesOn -/

@[simp] theorem goesOn_cycle (s : State) : (s.goesOn).cycle = s.cycle := rfl
@[simp] theorem goesOn_hbeat (s : State) : (s.goesOn).hbeat = s.hbeat := rfl
@[simp] theorem goesOn_mxemu (s : State) : (s.goesOn).mxemu = s.mxemu := rfl
@[simp] theorem goesOn_slot (s : State) : (s.goesOn).slot = s.slot := rfl
@[simp] theorem goesOn_free (s : State) : (s.goesOn).free = s.free := rfl
@[simp] theorem goesOn_nextKey (s : State) : (s.goesOn).nextKey = s.nextKey := rfl
@[simp] theorem goesOn_agenda (s : State) : (s.goesOn).agenda = s.agenda := rfl
@[simp] theorem goesOn_turn (s : State) : (s.goesOn).turn = s.turn := rfl
@[simp] theorem goesOn_cue (s : State) : (s.goesOn).cue = s.cue := rfl
@[simp] theorem goesOn_mem (s : State) : (s.goesOn).mem = s.mem := rfl
@[simp] theorem goesOn_poison (s : State) : (s.goesOn).poison = s.poison := rfl
@[simp] theorem goesOn_mended (s : State) : (s.goesOn).mended = s.mended := rfl
@[simp] theorem goesOn_hdm (s : State) : (s.goesOn).hdm = s.hdm := rfl
@[simp] theorem goesOn_hdmNext (s : State) : (s.goesOn).hdmNext = s.hdmNext := rfl
@[simp] theorem goesOn_l1 (s : State) : (s.goesOn).l1 = s.l1 := rfl
@[simp] theorem goesOn_l2 (s : State) : (s.goesOn).l2 = s.l2 := rfl
@[simp] theorem goesOn_homes (s : State) : (s.goesOn).homes = s.homes := rfl
@[simp] theorem goesOn_icache (s : State) : (s.goesOn).icache = s.icache := rfl
@[simp] theorem goesOn_tlb (s : State) : (s.goesOn).tlb = s.tlb := rfl
@[simp] theorem goesOn_olog (s : State) : (s.goesOn).olog = s.olog := rfl
@[simp] theorem goesOn_ats (s : State) : (s.goesOn).ats = s.ats := rfl
@[simp] theorem goesOn_segs (s : State) : (s.goesOn).segs = s.segs := rfl
@[simp] theorem goesOn_vlines (s : State) : (s.goesOn).vlines = s.vlines := rfl
@[simp] theorem goesOn_views (s : State) : (s.goesOn).views = s.views := rfl
@[simp] theorem goesOn_sibs (s : State) : (s.goesOn).sibs = s.sibs := rfl
@[simp] theorem goesOn_aliases (s : State) : (s.goesOn).aliases = s.aliases := rfl
@[simp] theorem goesOn_sharing (s : State) : (s.goesOn).sharing = s.sharing := rfl
@[simp] theorem goesOn_unpresPages (s : State) : (s.goesOn).unpresPages = s.unpresPages := rfl
@[simp] theorem goesOn_eave (s : State) : (s.goesOn).eave = s.eave := rfl
@[simp] theorem goesOn_unpresLines (s : State) : (s.goesOn).unpresLines = s.unpresLines := rfl
@[simp] theorem goesOn_items (s : State) : (s.goesOn).items = s.items := rfl
@[simp] theorem goesOn_owed (s : State) : (s.goesOn).owed = s.owed := rfl
@[simp] theorem goesOn_sched (s : State) : (s.goesOn).sched = s.sched := rfl
@[simp] theorem goesOn_mails (s : State) : (s.goesOn).mails = s.mails := rfl
@[simp] theorem goesOn_combine (s : State) : (s.goesOn).combine = s.combine := rfl
@[simp] theorem goesOn_mxAllocs (s : State) : (s.goesOn).mxAllocs = s.mxAllocs := rfl
@[simp] theorem goesOn_mxReqs (s : State) : (s.goesOn).mxReqs = s.mxReqs := rfl
@[simp] theorem goesOn_mxEntries (s : State) : (s.goesOn).mxEntries = s.mxEntries := rfl
@[simp] theorem goesOn_unfenced (s : State) : (s.goesOn).unfenced = s.unfenced := rfl
@[simp] theorem goesOn_ports (s : State) : (s.goesOn).ports = s.ports := rfl
@[simp] theorem goesOn_stops (s : State) : (s.goesOn).stops = s.stops := rfl
@[simp] theorem goesOn_stopping (s : State) : (s.goesOn).stopping = s.stopping := rfl
@[simp] theorem goesOn_fabric (s : State) : (s.goesOn).fabric = s.fabric := rfl
@[simp] theorem goesOn_inbox (s : State) : (s.goesOn).inbox = s.inbox := rfl
@[simp] theorem goesOn_inPuts (s : State) : (s.goesOn).inPuts = s.inPuts := rfl
@[simp] theorem goesOn_windows (s : State) : (s.goesOn).windows = s.windows := rfl
@[simp] theorem goesOn_results (s : State) : (s.goesOn).results = s.results := rfl
@[simp] theorem goesOn_chunks (s : State) : (s.goesOn).chunks = s.chunks := rfl
@[simp] theorem goesOn_sent (s : State) : (s.goesOn).sent = s.sent := rfl
@[simp] theorem goesOn_queues (s : State) : (s.goesOn).queues = s.queues := rfl
@[simp] theorem goesOn_scans (s : State) : (s.goesOn).scans = s.scans := rfl
@[simp] theorem goesOn_arbiter (s : State) : (s.goesOn).arbiter = s.arbiter := rfl
@[simp] theorem goesOn_arbAt (s : State) : (s.goesOn).arbAt = s.arbAt := rfl
@[simp] theorem goesOn_preempts (s : State) : (s.goesOn).preempts = s.preempts := rfl
@[simp] theorem goesOn_returns (s : State) : (s.goesOn).returns = s.returns := rfl
@[simp] theorem goesOn_parked (s : State) : (s.goesOn).parked = s.parked := rfl
@[simp] theorem goesOn_colours (s : State) : (s.goesOn).colours = s.colours := rfl
@[simp] theorem goesOn_gone (s : State) : (s.goesOn).gone = s.gone := rfl
@[simp] theorem goesOn_freed (s : State) : (s.goesOn).freed = s.freed := rfl
@[simp] theorem goesOn_tabled (s : State) : (s.goesOn).tabled = s.tabled := rfl
@[simp] theorem goesOn_replayQ (s : State) : (s.goesOn).replayQ = s.replayQ := rfl
@[simp] theorem goesOn_mgmt (s : State) : (s.goesOn).mgmt = s.mgmt := rfl
@[simp] theorem goesOn_toContain (s : State) : (s.goesOn).toContain = s.toContain := rfl
@[simp] theorem goesOn_dying (s : State) : (s.goesOn).dying = s.dying := rfl
@[simp] theorem goesOn_leaving (s : State) : (s.goesOn).leaving = s.leaving := rfl
@[simp] theorem goesOn_ctxs (s : State) : (s.goesOn).ctxs = s.ctxs := rfl
@[simp] theorem goesOn_launches (s : State) : (s.goesOn).launches = s.launches := rfl
@[simp] theorem goesOn_others (s : State) : (s.goesOn).others = s.others := rfl

/-! ## State.stall -/

@[simp] theorem stall_cycle (s : State) : (s.stall).cycle = s.cycle := rfl
@[simp] theorem stall_hbeat (s : State) : (s.stall).hbeat = s.hbeat := rfl
@[simp] theorem stall_mxemu (s : State) : (s.stall).mxemu = s.mxemu := rfl
@[simp] theorem stall_slot (s : State) : (s.stall).slot = s.slot := rfl
@[simp] theorem stall_free (s : State) : (s.stall).free = s.free := rfl
@[simp] theorem stall_nextKey (s : State) : (s.stall).nextKey = s.nextKey := rfl
@[simp] theorem stall_agenda (s : State) : (s.stall).agenda = s.agenda := rfl
@[simp] theorem stall_turn (s : State) : (s.stall).turn = s.turn := rfl
@[simp] theorem stall_cue (s : State) : (s.stall).cue = s.cue := rfl
@[simp] theorem stall_mem (s : State) : (s.stall).mem = s.mem := rfl
@[simp] theorem stall_poison (s : State) : (s.stall).poison = s.poison := rfl
@[simp] theorem stall_mended (s : State) : (s.stall).mended = s.mended := rfl
@[simp] theorem stall_hdm (s : State) : (s.stall).hdm = s.hdm := rfl
@[simp] theorem stall_hdmNext (s : State) : (s.stall).hdmNext = s.hdmNext := rfl
@[simp] theorem stall_l1 (s : State) : (s.stall).l1 = s.l1 := rfl
@[simp] theorem stall_l2 (s : State) : (s.stall).l2 = s.l2 := rfl
@[simp] theorem stall_homes (s : State) : (s.stall).homes = s.homes := rfl
@[simp] theorem stall_icache (s : State) : (s.stall).icache = s.icache := rfl
@[simp] theorem stall_tlb (s : State) : (s.stall).tlb = s.tlb := rfl
@[simp] theorem stall_olog (s : State) : (s.stall).olog = s.olog := rfl
@[simp] theorem stall_ats (s : State) : (s.stall).ats = s.ats := rfl
@[simp] theorem stall_segs (s : State) : (s.stall).segs = s.segs := rfl
@[simp] theorem stall_vlines (s : State) : (s.stall).vlines = s.vlines := rfl
@[simp] theorem stall_views (s : State) : (s.stall).views = s.views := rfl
@[simp] theorem stall_sibs (s : State) : (s.stall).sibs = s.sibs := rfl
@[simp] theorem stall_aliases (s : State) : (s.stall).aliases = s.aliases := rfl
@[simp] theorem stall_sharing (s : State) : (s.stall).sharing = s.sharing := rfl
@[simp] theorem stall_unpresPages (s : State) : (s.stall).unpresPages = s.unpresPages := rfl
@[simp] theorem stall_eave (s : State) : (s.stall).eave = s.eave := rfl
@[simp] theorem stall_unpresLines (s : State) : (s.stall).unpresLines = s.unpresLines := rfl
@[simp] theorem stall_items (s : State) : (s.stall).items = s.items := rfl
@[simp] theorem stall_owed (s : State) : (s.stall).owed = s.owed := rfl
@[simp] theorem stall_sched (s : State) : (s.stall).sched = s.sched := rfl
@[simp] theorem stall_mails (s : State) : (s.stall).mails = s.mails := rfl
@[simp] theorem stall_combine (s : State) : (s.stall).combine = s.combine := rfl
@[simp] theorem stall_mxAllocs (s : State) : (s.stall).mxAllocs = s.mxAllocs := rfl
@[simp] theorem stall_mxReqs (s : State) : (s.stall).mxReqs = s.mxReqs := rfl
@[simp] theorem stall_mxEntries (s : State) : (s.stall).mxEntries = s.mxEntries := rfl
@[simp] theorem stall_unfenced (s : State) : (s.stall).unfenced = s.unfenced := rfl
@[simp] theorem stall_ports (s : State) : (s.stall).ports = s.ports := rfl
@[simp] theorem stall_stops (s : State) : (s.stall).stops = s.stops := rfl
@[simp] theorem stall_stopping (s : State) : (s.stall).stopping = s.stopping := rfl
@[simp] theorem stall_fabric (s : State) : (s.stall).fabric = s.fabric := rfl
@[simp] theorem stall_inbox (s : State) : (s.stall).inbox = s.inbox := rfl
@[simp] theorem stall_inPuts (s : State) : (s.stall).inPuts = s.inPuts := rfl
@[simp] theorem stall_windows (s : State) : (s.stall).windows = s.windows := rfl
@[simp] theorem stall_results (s : State) : (s.stall).results = s.results := rfl
@[simp] theorem stall_chunks (s : State) : (s.stall).chunks = s.chunks := rfl
@[simp] theorem stall_sent (s : State) : (s.stall).sent = s.sent := rfl
@[simp] theorem stall_queues (s : State) : (s.stall).queues = s.queues := rfl
@[simp] theorem stall_scans (s : State) : (s.stall).scans = s.scans := rfl
@[simp] theorem stall_arbiter (s : State) : (s.stall).arbiter = s.arbiter := rfl
@[simp] theorem stall_arbAt (s : State) : (s.stall).arbAt = s.arbAt := rfl
@[simp] theorem stall_preempts (s : State) : (s.stall).preempts = s.preempts := rfl
@[simp] theorem stall_returns (s : State) : (s.stall).returns = s.returns := rfl
@[simp] theorem stall_parked (s : State) : (s.stall).parked = s.parked := rfl
@[simp] theorem stall_colours (s : State) : (s.stall).colours = s.colours := rfl
@[simp] theorem stall_gone (s : State) : (s.stall).gone = s.gone := rfl
@[simp] theorem stall_freed (s : State) : (s.stall).freed = s.freed := rfl
@[simp] theorem stall_tabled (s : State) : (s.stall).tabled = s.tabled := rfl
@[simp] theorem stall_replayQ (s : State) : (s.stall).replayQ = s.replayQ := rfl
@[simp] theorem stall_mgmt (s : State) : (s.stall).mgmt = s.mgmt := rfl
@[simp] theorem stall_toContain (s : State) : (s.stall).toContain = s.toContain := rfl
@[simp] theorem stall_dying (s : State) : (s.stall).dying = s.dying := rfl
@[simp] theorem stall_leaving (s : State) : (s.stall).leaving = s.leaving := rfl
@[simp] theorem stall_ctxs (s : State) : (s.stall).ctxs = s.ctxs := rfl
@[simp] theorem stall_launches (s : State) : (s.stall).launches = s.launches := rfl
@[simp] theorem stall_blocks (s : State) : (s.stall).blocks = s.blocks := rfl
@[simp] theorem stall_others (s : State) : (s.stall).others = s.others := rfl

/-! ## What they change -/

@[simp] theorem mapGroups_cur (s : State) (p : Group → Bool) (f : Group → Group) : (s.mapGroups p f).cur = if p s.cur then f s.cur else s.cur := rfl
@[simp] theorem mapGroups_others (s : State) (p : Group → Bool) (f : Group → Group) :
    (s.mapGroups p f).others = s.others.map fun g => if p g then f g else g := rfl
@[simp] theorem onBlock_blocks (s : State) (k : Nat) (f : Block → Block) :
    (s.onBlock k f).blocks = s.blocks.map fun b => if b.key == k then f b else b := rfl
@[simp] theorem onLaunch_launches (s : State) (k : Nat) (f : Launch → Launch) :
    (s.onLaunch k f).launches = s.launches.map fun l => if l.key == k then f l else l := rfl
@[simp] theorem onCtx_ctxs (s : State) (k : Nat) (f : Context → Context) :
    (s.onCtx k f).ctxs = s.ctxs.map fun c => if c.pasid == k then f c else c := rfl
@[simp] theorem account_free (s : State) (n : Nat) : (s.account n).free = s.free + 1 := rfl
@[simp] theorem account_cycle (s : State) (n : Nat) : (s.account n).cycle = max s.cycle n := rfl
@[simp] theorem goesOn_cur (s : State) : s.goesOn.cur = { s.cur with refused := false } := rfl
@[simp] theorem stall_cur (s : State) : s.stall.cur = { s.cur with run := HoldRun.none, hold := .stalled } := rfl

end Sys2Proof.Machine
end

