-- ==== Sys2Proof/Laws/Step.lean ====
section
/-! SUPPORT. A word that is read is executed as the instruction that it decodes to. -/

namespace Sys2Proof.Machine

theorem execWord_eq (d : Decoded) (s : State) : execWord d s = exec d.toInstr s := by
  cases d with
  | common i => rfl
  | rare r => cases r <;> rfl

end Sys2Proof.Machine
end

