-- ==== Sys2Proof/Tests/Slice0.lean ====
section
/-! SUPPORT. Tests: words of the spec decode to what they stand for; ill-formed terms are refused; small effects with results worked out from the
spec's rules; and for each statement a state and operands that meet its hypotheses. -/

namespace Sys2Proof.Tests
set_option Elab.async false
open Sys2Proof Sys2Proof.Machine

/-! ## Where the tests stand -/

/-- One group of 128 rows and 64 KiB of vault, ready to issue at 0x1000. -/
def ready : State := State.reset.withGroup
/-- Its run. -/
def run : Run := ⟨allOnes, 0x1000, 0⟩
/-- Fields with a counter: v8, v4, v6, v10. -/
def fld : F64 := ⟨0, false, false, 8, 4, 6, 10, 1, 0, false, 0⟩
/-- The same with scalar registers: s8, s4, s6, s10. -/
def sfld : F64 := ⟨0, false, false, 0x88, 0x84, 0x86, 0x8A, 1, 0, false, 0⟩
/-- The same with predicates: p1, p2, p3, p4. -/
def pfld : F64 := ⟨0, false, false, 1, 2, 3, 4, 1, 0, false, 0⟩
/-- The ready group with scalar registers set. -/
def withS (s : State) (xs : List (Nat × Nat)) : State :=
  { s with cur := xs.foldl (fun g x => g.setSreg x.1 (BitVec.ofNat 64 x.2)) s.cur }
/-- The ready group, privileged. -/
def privileged : State := { ready with cur := { ready.cur with priv := true, handler := { Handler.none with act := allOnes, pc := Lanes.const 0x1000 } } }
/-- Every instruction of a list completes. -/
def good (s : State) (xs : List (Hdr × Plan)) : Bool := xs.all fun x => s.clears x.1 x.2 run
/-- No value. -/
def nil2 : Cx → Nat → DWord × BitVec 5 := fun _ _ => (0, 0)
def nilB : Cx → Nat → Bool × BitVec 5 := fun _ _ => (false, 0)

/-! ## Statements of completion: states and operands that meet their hypotheses -/

theorem test_ready_run : ready.cur.nextRun = some run := by decide +kernel

theorem test_meets_TwoAddressForms : good ready ((List.range 16).map fun k =>
    let h := hdrTwo (BitVec.ofNat 4 k) 1 2
    (h, lanePlan h false 1 (if k = 0 then [(2, false)] else [(1, false), (2, false)]) nil2)) = true := by decide +kernel

def w32 : F32 := ⟨0, false, false, 8, 4, 6, false⟩
def word1 (k : Nat) : Hdr × Plan := (hdr32 (BitVec.ofNat 6 k) w32, lanePlan (hdr32 (BitVec.ofNat 6 k) w32) false 8 [(4, false)] nil2)
def word2 (w : Bool) (k : Nat) : Hdr × Plan :=
  (hdr32 (BitVec.ofNat 6 k) w32, lanePlan (hdr32 (BitVec.ofNat 6 k) w32) w 8 [(4, w), (6, w)] nil2)
def word3 (w : Bool) (k : Nat) : Hdr × Plan :=
  (hdr32 (BitVec.ofNat 6 k) w32, lanePlan (hdr32 (BitVec.ofNat 6 k) w32) w 8 [(4, w), (6, w), (8, w)] nil2)

theorem test_meets_IntegerForms32 : good ready ([0x07, 0x0C, 0x11, 0x12, 0x13, 0x14, 0x16].map word1 ++
    [0x00, 0x01, 0x02, 0x03, 0x05, 0x06, 0x08, 0x09, 0x0A, 0x0B, 0x0D, 0x0E, 0x0F, 0x10, 0x15].map (word2 false) ++ [word3 false 0x04]) = true := by
  decide +kernel

theorem test_meets_FloatForms32 : good ready ([0x18, 0x19, 0x1A, 0x1C, 0x1D, 0x1E, 0x28, 0x29, 0x2A, 0x2C, 0x2D].map (word2 false) ++
    [0x20, 0x21, 0x22, 0x24, 0x25].map (word2 true) ++ [word3 false 0x1B, word3 true 0x23, word3 false 0x2B]) = true := by decide +kernel

/-- A 64-bit lane instruction on the first `n` sources. -/
def lanes (maj : BitVec 6) (w : Bool) (n : Nat) (min : Nat) : Hdr × Plan :=
  let h := hdr64 maj (BitVec.ofNat 6 min) fld
  (h, lanePlan h w 8 ([(4, w), (6, w), (10, w)].take n) nil2)

theorem test_meets_IntegerArithmetic : good ready ([false, true].flatMap fun w =>
    let m : BitVec 6 := if w then 1 else 0
    [0x09, 0x0E, 0x1C].map (lanes m w 1) ++ [0, 1, 2, 3, 5, 6, 7, 8, 0x0A, 0x0B, 0x0C, 0x0D].map (lanes m w 2) ++ [lanes m w 3 4]) = true := by
  decide +kernel

theorem test_meets_IntegerBits : good ready ([false, true].flatMap fun w =>
    let h (k : Nat) := hdr64 (if w then 1 else 0) (BitVec.ofNat 6 k) fld
    [0x15, 0x16, 0x17, 0x18].map (lanes (if w then 1 else 0) w 1) ++
    ([0x0F, 0x10, 0x11, 0x12, 0x13, 0x19].map fun k => (h k, lanePlan (h k) w 8 [(4, w), (6, false)] nil2)) ++
    [(h 0x14, lanePlan (h 0x14) w 8 [(4, w), (6, w), (10, false)] nil2), (h 0x1A, testPlan (h 0x1A) 1 [(4, w), (6, w)] nilB),
     (h 0x1B, { ops := fun c => c.vecOk w 8 && c.srcOk w 4 && c.srcOk w 6 && predOk 3, uses := [(4, w), (6, w)], also := [.prd 3] })]) = true := by
  decide +kernel

theorem test_meets_ImmediateForms : good ready (
    ([0, 2, 7, 8, 0x0A, 0x0B, 0x0C, 0x0F, 0x10, 0x11, 0x12, 0x13].map (lanes 2 false 1)) ++
    [(hdr64 2 0x14 fld, lanePlan (hdr64 2 0x14 fld) false 8 [(8, false), (4, false)] nil2),
     (hdr64 2 0x1A fld, testPlan (hdr64 2 0x1A fld) 8 [(4, false)] nilB), lanes 3 false 0 0,
     (hdr64 3 1 fld, lanePlan (hdr64 3 1 fld) false 8 [(8, false)] nil2)]) = true := by decide +kernel

theorem test_meets_FloatArithmetic : good ready ([false, true].flatMap fun w =>
    let m : BitVec 6 := if w then 5 else 4
    ([0, 1, 2, 4, 5].map (lanes m w 2)) ++
    [lanes m w 3 3, (hdr64 m 6 fld, testPlan (hdr64 m 6 fld) 8 [(4, w), (6, w)] nilB),
     (hdr64 m 7 fld, lanePlan (hdr64 m 7 fld) false 8 [(4, w)] nil2)] ++
    ([0, 1, 2, 4, 5, 6].map (lanes 6 false 2)) ++ [lanes 6 false 3 3]) = true := by decide +kernel

theorem test_meets_FloatFunctions : good ready ([false, true].flatMap fun w =>
    let m : BitVec 6 := if w then 5 else 4
    ([8, 9, 0xA, 0xC, 0xD, 0xE, 0xF, 0x10, 0x12].map (lanes m w 1)) ++
    [lanes m w 2 0xB, (hdr64 m 0x11 fld, lanePlan (hdr64 m 0x11 fld) w 8 [(4, w), (6, false)] nil2)]) = true := by decide +kernel

theorem test_meets_Conversions : good ready [lanes 7 false 1 0, (hdr64 7 1 fld, lanePlan (hdr64 7 1 fld) false 8 [(8, false), (4, false), (6, false)] nil2),
    lanes 7 false 1 2, (hdr64 7 3 fld, { ops := fun c => sregOk 0x88 && c.srcOk false 4, uses := [(4, false)] }),
    (hdr64 7 4 fld, { lanePlan (hdr64 7 4 fld) false 8 [(4, false), (6, false), (10, false)] nil2 with
      ops := fun c => c.vecOk false 8 && c.srcOk false 4 && c.srcOk false 6 && (c.vecOk false 10 || sregOk 10) })] = true := by decide +kernel

theorem test_meets_LaneExchange : good ready [(hdr64 8 0 fld, lanePlan (hdr64 8 0 fld) false 8 [(4, false), (6, false)] nil2),
    (hdr64 8 1 fld, { ops := fun _ => predOk 1 && predOk 2, also := [.prd 2] }),
    (hdr64 8 1 fld, { ops := fun _ => sregOk 0x88 && predOk 2, also := [.prd 2] }),
    (hdr64 8 1 fld, { ops := fun c => predOk 1 && c.srcOk false 4, uses := [(4, false)] }),
    (hdr64 8 2 fld, { ops := fun c => sregOk 0x88 && c.srcOk false 4, uses := [(4, false)] }), lanes 8 false 1 3,
    (hdr64 8 4 fld, lanePlan (hdr64 8 4 fld) true 8 [(4, false)] nil2)] = true := by decide +kernel

theorem test_meets_PredicateForms : good ready (
    ([0, 1, 2].map fun k => (hdr64 9 (BitVec.ofNat 6 k) pfld, { ops := fun _ => predOk 1 && predOk 2 && predOk 3, also := [.prd 2, .prd 3] })) ++
    ([3, 4].map fun k => (hdr64 9 (BitVec.ofNat 6 k) pfld, { ops := fun _ => predOk 1 && predOk 2, also := [.prd 2] })) ++
    [(hdr64 9 4 pfld, { ops := fun _ => predOk 1 && sregOk 0x84, uses := [(0x84, true)] }),
     (hdr64 9 4 pfld, { ops := fun _ => sregOk 0x88 && predOk 2, also := [.prd 2] }),
     (hdr64 0x19 2 pfld, { ops := fun _ => predOk 1 })]) = true := by decide +kernel

/-- A scalar instruction on the first `n` sources. -/
def scalars (maj : BitVec 6) (n : Nat) (min : Nat) : Hdr × Plan :=
  let h := hdr64 maj (BitVec.ofNat 6 min) sfld
  (h, scalarPlan h 0x88 ([0x84, 0x86].take n) fun _ => 0)

theorem test_meets_ScalarForms : good ready ([0, 1, 2, 3, 4, 5, 6, 7].map (scalars 0x0A 2) ++ [scalars 0x0A 1 0x0A,
    (hdr64 0x0A 8 sfld, { ops := fun _ => predOk 1 && [0x84, 0x86].all ssrcOk, uses := [(0x84, true), (0x86, true)] }),
    (hdr64 0x0A 9 sfld, { ops := fun _ => sregOk 0x88 && ssrcOk 0x84 && ssrcOk 0x86 && predOk 3, uses := [(0x84, true), (0x86, true)], also := [.prd 3] }),
    (hdr64 0x0A 0xB fld, { ops := fun c => c.vecOk false 8 && c.vecOk false 4 && ssrcOk 0x86, uses := [(4, false), (0x86, true)] }),
    (hdr64 0x0A 0xC fld, { ops := fun c => sregOk 0x88 && c.vecOk false 4 && ssrcOk 0x86, uses := [(4, false), (0x86, true)] })]) = true := by
  decide +kernel

theorem test_meets_ScalarImmediates : good ready ([0, 1, 2, 3, 4, 5, 6, 7].map (scalars 0x0B 1) ++ [scalars 0x0C 0 0,
    (hdr64 0x0B 8 sfld, { ops := fun _ => predOk 1 && [0x84].all ssrcOk, uses := [(0x84, true)] }),
    (hdr64 0x0C 1 sfld, scalarPlan (hdr64 0x0C 1 sfld) 0x88 [0x88] fun _ => 0),
    (hdr64 0x0C 2 sfld, scalarPlan (hdr64 0x0C 2 sfld) 0x88 [0x88] fun _ => 0)]) = true := by decide +kernel

def w0 : F64 := ⟨0, false, false, 1, 0x84, 0x86, 0, 1, 0, false, 0⟩
theorem test_meets_WalkerForms : good (withS ready [(6, 1)]) [(hdr64 0x0D 0 w0, wsetPlan w0),
    (hdr64 0x0D 1 sfld, { ops := fun _ => sregOk 0x88 && walkerOk 1, also := [.wlk 1] }),
    (hdr64 0x0D 2 pfld, { ops := fun _ => walkerOk 1, also := [.wlk 1] })] = true := by decide +kernel

/-! Memory, fences and barriers: s4 and s6 hold local addresses, v4 lanes of zeros. -/

def mform (f : F64) (kind : AccKind) (once : Bool) (dst : Dst) (data : Cx → Nat → DWord) (loc : Bool) (q : Qual) : MemForm :=
  { kind := kind, loc := loc, once := once, wlk := f.wlk, type := f.type, size := typeSize f.type
    ofs := f.s2.signExtend 64 * BitVec.ofNat 64 (typeSize f.type), ord := f.ord, pro := false, scope := f.scope, qual := q
    dst := dst, pod := false, data := data, expect := fun _ _ => 0 }
def memH (min : BitVec 6) : Hdr := hdr64 0x10 min fld
/-- v8 from and to memory at the address in s4. -/
def ldF : F64 := ⟨0, false, false, 8, 0x84, 0, 0, 1, 0, false, 0⟩
/-- s8 from and to memory at the address in s4. -/
def sldF : F64 := ⟨0, false, false, 0x88, 0x84, 0, 0, 1, 0, false, 0⟩
def memS : State := withS ready [(4, 0x100), (6, 0x1000), (10, 16)]
def hL (f : F64) (min : BitVec 6) : Hdr := hdr64 0x10 min f

theorem test_meets_LoadsAndStores : good memS [
    (hL ldF 0, memAccessPlan (hL ldF 0) ldF (mform ldF .load false (.vec 8 (typeSize ldF.type == 8)) (fun _ _ => 0) false .plain)
      (fun c => c.vecOk (typeSize ldF.type == 8) 8) [] (vecRefs 8 (typeSize ldF.type == 8)) false),
    (hL ldF 1, memAccessPlan (hL ldF 1) ldF (mform ldF .store false .none (fun c k => c.at (ldF.dst, typeSize ldF.type == 8) k) false .plain)
      (fun c => c.vecOk (typeSize ldF.type == 8) 8 || sregOk 8) [(8, typeSize ldF.type == 8)] [] false),
    (hL ldF 8, memAccessPlan (hL ldF 8) ldF (mform ldF .load false (.vec 8 (typeSize ldF.type == 8)) (fun _ _ => 0) true .plain)
      (fun c => c.vecOk (typeSize ldF.type == 8) 8) [] (vecRefs 8 (typeSize ldF.type == 8)) false),
    (hL ldF 9, memAccessPlan (hL ldF 9) ldF (mform ldF .store false .none (fun c k => c.at (ldF.dst, typeSize ldF.type == 8) k) true .plain)
      (fun c => c.vecOk (typeSize ldF.type == 8) 8 || sregOk 8) [(8, typeSize ldF.type == 8)] [] false),
    (hL sldF 0x10, memAccessPlan (hL sldF 0x10) sldF (mform sldF .load true (.sca 8) (fun _ _ => 0) false .plain) (fun _ => sregOk 0x88) []
      [.sca 8] false),
    (hL sldF 0x11, memAccessPlan (hL sldF 0x11) sldF (mform sldF .store true .none (fun c _ => c.ssrc sldF.dst) false .plain)
      (fun _ => sregOk 0x88) [(0x88, true)] [] false)] = true := by decide +kernel

/-- An atomic at the address in s4 with v6. -/
def atF : F64 := ⟨0, false, false, 8, 0x84, 6, 0, 1, 0, false, 0⟩
def atPlan (min : BitVec 6) (loc old : Bool) : Hdr × Plan :=
  (hL atF min, memAccessPlan (hL atF min) atF
    { kind := .atom, loc := loc, once := false, wlk := false, type := atF.type, size := 4, ofs := 0
      ord := atF.ord, pro := atF.pro, scope := atF.scope, qual := .plain, dst := if old then .vec 8 false else .none, pod := !loc
      data := fun c k => c.at (6, false) k, expect := fun _ _ => 0 }
    (fun c => c.srcOk false 6 && (!old || c.vecOk false 8)) ([(6, false)] ++ []) (if old then vecRefs 8 false else []) atF.wlk)

theorem test_meets_AtomicsAndPlanes : good memS [atPlan 3 false true, atPlan 4 false false, atPlan 0xA true true,
    (hL ldF 2, prefPlan ldF), (hdr64 7 5 ldF, planeAccessPlan 5 ldF .store), (hdr64 7 6 ldF, planeAccessPlan 6 ldF .load)] = true := by
  decide +kernel

theorem test_meets_FencesAndBarriers :
    good ready [(hdr64 0x10 0x18 ldF, { fencePlan ldF with eff := fun _ s => s }), (hdr64 0x19 0 ldF, barrierPlan 0 true ldF),
      (hdr64 0x19 1 ldF, barrierPlan 1 false ldF)] = true := by decide +kernel

/-! Scopes, vaults, and what reads a record: a page of global memory translated one to one. -/

/-- A flat page table at 0x8000: the first 2 MiB one to one, the second on the pool from its start. -/
def mapped (s : State) : State :=
  { s with
    ctxs := s.ctxs.map fun c => { c with ptroot := 0x8001 }
    mem := (s.mem.write 0x8000 (natBytes 8 0x9001)).write 0x9000 (natBytes 8 0x3F ++ natBytes 8 0x100000000003F) }
def scF : F64 := ⟨0, false, false, 0x88, 0x84, 0x86, 0x8A, 1, 0, false, 0⟩

theorem test_meets_ScopeAndVaultInstructions :
    let query (min : BitVec 6) (srcs : List (BitVec 8)) : Hdr × Plan :=
      (hdr64 0x11 min scF, { ops := fun _ => sregOk scF.dst && srcs.all sregOk, uses := srcs.map fun u => (u, true) })
    good (mapped (withS ready [(4, 0x1000), (6, 0x2000), (10, 1)])) [query 0 [], query 1 [0x84, 0x86], query 2 [0x84],
      (hdr64 0x12 0 scF, vmapPlan scF), (hdr64 0x12 1 { scF with s2 := 0x8A }, vunmapPlan { scF with s2 := 0x8A }),
      (hdr64 0x12 2 scF, { sjoinPlan scF with eff := fun _ s => s }), (hdr64 0x12 3 scF, { sleavePlan scF with eff := fun _ s => s }),
      (hdr64 0x12 4 scF, feRangePlan 4 true scF), (hdr64 0x12 5 scF, feRangePlan 5 false scF)] = true := by decide +kernel

/-- Window 0 of the context is at 0x3000: base 0x10000, size 4096, valid, PUT and GET permitted. -/
def winS : State :=
  let s := mapped (withS ready [(4, 0x100), (6, 0x1000000000), (10, 0), (12, 0x4000)])
  { s with
    ctxs := s.ctxs.map fun c => { c with winbase := 0x3000 }
    mem := ((s.mem.write 0x3000 (natBytes 8 0x10000)).write 0x3008 (natBytes 8 4096)).write 0x3010 (natBytes 2 7) }
/-- An NMO record at 0x4000 of the block's vault: one word of the pool at its start. -/
def nmoS : State :=
  (winS.blocks.map (·.key)).foldl (fun (s : State) k => (s.vaultWrite k 0x4000 [0, 1]).vaultWrite k 0x4008 (natBytes 8 0x200000)) winS
def nmoF : F64 := ⟨0, false, false, 0, 0x8C, 0, 0, 1, 0, false, 0⟩

theorem test_meets_FabricInstructions : good winS [(hdr64 0x13 0 scF, transferPlan 0 true scF), (hdr64 0x13 1 scF, transferPlan 1 false scF),
    (hdr64 0x13 2 { scF with s1 := 0x8A }, wcntPlan { scF with s1 := 0x8A })] && good nmoS [(hdr64 0x13 3 nmoF, nmoPlan nmoF)] = true := by
  decide +kernel

/-- Records of one row of `n` words at the address `a` of memory. -/
def rec1 (a n base : Nat) (m : Memory) : Memory :=
  (((m.write a (natBytes 8 base)).write (a + 8) [0xC, 0, 1]).write (a + 0x10) (natBytes 4 n)).write (a + 0x20) (natBytes 8 4)
/-- Two and two dimensions, for rows. -/
def rec2 (a n k base : Nat) (m : Memory) : Memory :=
  ((((m.write a (natBytes 8 base)).write (a + 8) [0xC, 0, 2]).write (a + 0x10) (natBytes 4 n)).write (a + 0x14) (natBytes 4 k)).write (a + 0x20)
    (natBytes 8 4 ++ natBytes 8 16)
def copyS : State :=
  let s := mapped (withS ready [(4, 0x4000), (6, 0x4080), (10, 0x4100), (12, 0x4200)])
  { s with
    ctxs := s.ctxs.map fun c => { c with tsbase := 0x5000 }
    tlb := [⟨.l1, 0, 1, 0, 0x200000, 0, true, true, false, 0, false, true⟩]
    mem := (rec1 0x4000 4 0x10000 (rec1 0x4080 4 0x11000 s.mem)).write 0x4100 ([0, 0, 0xB] ++ zeros 5 ++ natBytes 8 1) }
def rowsS : State :=
  let s := copyS
  { s with mem := (rec2 0x4000 4 2 0x10000 (rec2 0x4080 4 2 0x11000 (rec1 0x4100 2 0x12000 s.mem))).write 0x4108 [5] }

def h14 (min : BitVec 6) : Hdr := hdr64 0x14 min scF

theorem test_meets_CopyInstructions : good copyS [
    (h14 0, copyInstrPlan 0 .copy scF 0 (fun _ d s _ => copyChecks d s) none),
    (h14 3, copyInstrPlan 3 .coll scF 64 (fun st d s c => (copyChecks d s).or ((collFault (packageOf st.cur.locid) (Tensor.parse s) c).map fun k => (k, 2)))
      (some (scF.modBit 0))),
    (h14 4, tcancelPlan scF), (h14 5, tschedPlan scF), (h14 6, { tstatPlan scF with eff := fun _ s => s })] = true := by decide +kernel
theorem test_meets_CopyInstructions_rows : good rowsS [(h14 1, copyInstrPlan 1 .gather scF 128 (fun _ => rowChecks true) none),
      (h14 2, copyInstrPlan 2 .scatter scF 128 (fun _ => rowChecks false) none)] = true := by decide +kernel

/-- The parameter block of a command at 0x4000 of the vault, and an allocation of tile 0. -/
def mxRec (op k m s0 s1 : Nat) : List Byte :=
  natBytes 1 op ++ zeros 7 ++ natBytes 2 k ++ natBytes 2 k ++ natBytes 2 m ++ zeros 6 ++ natBytes 4 s0 ++ natBytes 4 s1 ++ List.replicate 8 255
def mxS (a : Nat) (rec : List Byte) : State :=
  let s := withS ready [(4, a), (6, 1)]
  (s.blocks.map (·.key)).foldl (fun (s : State) k =>
    { s.vaultWrite k 0x4000 rec with mxAllocs := [⟨s.mxCluster s.cur, k, 1, 0, [.clean 0], [], [], []⟩] }) s
def h15 (min : BitVec 6) : Hdr := hdr64 0x15 min sfld

theorem test_meets_MatrixInstructions :
    good (mxS 0x4000 (mxRec 1 128 0 0 128)) [(h15 2, mxCommandPlan 2 1 sfld)] &&
    good (mxS 0x4000 (mxRec 2 128 1 0 128)) [(h15 3, mxCommandPlan 3 2 sfld)] &&
    good (mxS 0x4000 (mxRec 3 0 1 512 16)) [(h15 4, mxCommandPlan 4 3 sfld)] &&
    good (mxS 0x4000 (mxRec 4 0 1 512 16)) [(h15 5, mxCommandPlan 5 4 sfld)] &&
    good (withS ready [(4, 1)]) [(h15 0, mxallocPlan sfld)] &&
    good (mxS 1 []) [(h15 1, mxfreePlan sfld), (h15 6, mxzeroPlan sfld), (h15 7, mxfencePlan sfld), (h15 8, mxstatPlan sfld),
      (h15 9, mxcancelPlan sfld)] = true := by decide +kernel

/-! Control. -/

def h18 (min : BitVec 6) : Hdr := hdr64 0x18 min sfld
def deep (c : Cx) : Option Trap := if c.run.depth = 255 then some (.precise Cause.softTrap 0 0x100) else none
theorem test_meets_Branches : good (withS ready [(4, 0x2000)]) [
    (hdr16 0x02A .c false true, {}), (h18 0, {}), (hdr64 0x18 1 pfld, { ops := fun _ => predOk 1, also := [.prd 1] }),
    (h18 2, { ops := fun c => targetOk c 0x84, uses := [(0x84, true)], own := fun c => oddTarget c 0x84 c.en }),
    (hdr64 0x18 3 pfld, { ops := fun _ => walkerOk 2, also := [.wlk 2] }),
    (hdr64 0x18 4 fld, { ops := fun c => c.vecOk true 8 && true, own := deep }),
    (hdr64 0x18 5 sfld, { ops := fun c => c.vecOk true 8 && targetOk c 0x84, uses := [(0x84, true)], own := fun c => (deep c).or (oddTarget c 0x84 c.en) }),
    (h18 6, { ops := fun c => targetOk c 0x84, uses := [(0x84, true)], own := fun c => if c.run.depth = 0 then none else oddTarget c 0x84 c.en })] = true := by
  decide +kernel

/-- The ready group waiting on counter 0, which is 1 or 0. -/
def waiting (n : BitVec 6) : State := { ready with cur := { ready.cur with hold := .wait 1, cnts := ready.cur.cnts.set 0 n } }

theorem test_meets_ExitsAndWaits : good ready [(h18 7, { exits := true }), (hdr16 0x36 .c false true, { exits := true }),
    (hdr64 0x19 3 sfld, { ops := fun _ => sregOk 0x84 || (0x84 : BitVec 8) == 0xE4, uses := [(0x84, true)] }),
    (hdr16 0x0012 .c false true, waitPlan 1), (hdr16 0x16 .c false true, {}), (hdr16 0x006 .c false true, {}),
    ({ hdr32 0x3F ⟨0, false, false, 0, 0, 0, false⟩ with lat := .hint, latch := false, nowb := false }, {}),
    ({ hdr64 0x3F 0 sfld with cnt := 15, pred := 0, pneg := false, nowb := false }, {})] = true ∧
    ready.cur.hold = .free ∧
    (∀ n ∈ [(0 : BitVec 6), 1], (waiting n).cur.hold = .wait 1 ∧ (waiting n).cur.nextRun = some run ∧
      (waiting n).cur.dueDeferred (waitPlan 1) = none ∧ countersZero (waiting n).cur 1 = (n == 0)) := by decide +kernel

/-- A launch record at 0x4000 of global memory. -/
def spawnS : State :=
  let s := mapped (withS ready [(4, 0x4000), (6, 1), (10, 0x40)])
  { s with mem := s.mem.write 0x4000 (natBytes 8 0x1000 ++ zeros 120) }
theorem test_meets_WorkAndRegisters : good spawnS [(hdr64 0x19 4 sfld, spawnPlan sfld),
    (hdr64 0x19 5 { sfld with s2 := 0x8A }, fetchwPlan { sfld with s2 := 0x8A }),
    (hdr64 0x19 6 { sfld with s2 := 96, s3 := 0 }, { reggrowPlan { sfld with s2 := 96, s3 := 0 } with eff := fun _ s => s }),
    (hdr64 0x19 7 { sfld with s2 := 96, s3 := 0 }, { ops := fun _ => allocOk (96 : Nat) })] = true := by decide +kernel

/-! The system. -/

/-- MFX or MTX of the register numbered `n`. -/
def sysF (n : Nat) : F64 := ⟨0, false, false, 0x88, 0x84, BitVec.ofNat 8 n, BitVec.ofNat 8 (n / 256), 1, 0, false, 0⟩
theorem test_meets_SystemRegisters : ∀ n ∈ [0, 1, 0x100, 0x101, 0x105, 0x110, 0x200, 0x201, 0x206, 0x207, 0x211, 0x240, 0x284],
    regNum (sysF n) = n ∧
    good privileged [(hdr64 0x1A 3 (sysF n), { secret := privReg n, ops := fun _ => sregOk 0x88 && knownReg n }),
      (hdr64 0x1A 4 (sysF n), { secret := privReg n, ops := fun _ => sregOk 0x84 && knownReg n, uses := [(0x84, true)] })] = true := by
  decide +kernel

theorem test_meets_SystemActions : good privileged [(hdr64 0x1A 2 sfld, { secret := true }),
    (hdr64 0x1A 5 { sfld with s3 := 1 }, { tlbinvPlan { sfld with s3 := 1 } with eff := fun _ s => s }),
    (hdr64 0x1A 6 { sfld with s3 := 1 }, { ops := fun c => (c.scope 1).isSome, uses := scopeUse 1 })] = true := by decide +kernel

theorem test_meets_TrapInstructions :
    (∀ h ∈ [hdr16 0x2146 .c false true, hdr16 0x0726 .c false true, hdr64 0x1A 0 sfld, hdr64 0x1A 1 sfld],
      ready.tries h {} run = true ∧ (ready.issuing h run).lawful h {} = true ∧ (ready.issuing h run).operandsGood h {} = true ∧
        (ready.issuing h run).en ≠ 0) ∧
    (let w : DWord := 0x7E3
     ready.tries ⟨lengthOf w, w, if lengthOf w = 2 then 0 else (w.extractLsb' 2 3).toNat, false, false, .c, false, 15, 0, false, true⟩ {} run = true) ∧
    (∀ x ∈ [(hdr64 0x1A 2 sfld, {}), (hdr64 0x1A 5 sfld, tlbinvPlan sfld), (hdr64 0x1A 3 (sysF 0x100), {}),
        (hdr64 0x1A 4 (sysF 0x100), { uses := [(0x84, true)] })],
      ready.tries x.1 x.2 run = true ∧ (ready.issuing x.1 run).g.priv = false ∧ (ready.issuing x.1 run).g.front = false) ∧
    privReg (regNum (sysF 0x100)) = true := by decide +kernel

/-- The ready block in the second of two worlds, and its set still open. -/
def worldS : State :=
  let s := withS ready [(4, 1)]
  let b := (s.blocks.map (·.key)).headD 0
  { s with
    blocks := s.blocks.map fun b => { b with view := 2, worldIdx := 1 }
    views := [⟨1, 0, 0, 0, .running, 0, 0, 0, false, none, 0, []⟩, ⟨1, 1, 0, 9, .running, 1, 0, 2, false, none, 0, []⟩,
      ⟨1, 2, 0, 9, .running, 1, 1, 2, false, none, b, []⟩]
    sibs := [⟨9, 1, (s.launches.map (·.key)).headD 0, 0, 2, .openSet, 0, false, 0⟩] }
/-- A fork of four in a context with a budget of eight. -/
def forkS : State := { ready with ctxs := ready.ctxs.map fun c => { c with budget := 8 } }
def forkF : F64 := ⟨0, false, false, 0x88, 0xE4, 4, 0, 1, 0, false, 0⟩
theorem test_meets_WorldInstructions : good worldS [(hdr64 0x1B 1 sfld, choosePlan sfld), (hdr64 0x1B 3 sfld, abandonPlan),
    (hdr64 0x1B 2 sfld, worldPlan sfld)] &&
    good forkS [(hdr64 0x1B 0 forkF, { forkwPlan forkF with eff := fun _ s => s })] = true := by decide +kernel

/-- A snapshot descriptor at 0x4000: layer scope, destination 0x100000 of 64 KiB; the launch may take snapshots. -/
def snapS : State :=
  let s := mapped (withS ready [(4, 0x4000)])
  { s with
    launches := s.launches.map fun l => { l with rc := { l.rc with flags := 4 } }
    mem := s.mem.write 0x4000 (natBytes 4 1 ++ [1, 0, 0, 0] ++ natBytes 8 0x100000 ++ natBytes 8 65536) }
def snapF : F64 := ⟨0, false, false, 0x88, 0x84, 2, 0, 1, 0, false, 0⟩
theorem test_meets_SnapshotInstructions : good snapS [(hdr64 0x1C 0 snapF, snapPlan snapF),
    (hdr64 0x1C 1 snapF, { snapstPlan snapF with eff := fun _ s => s })] = true := by decide +kernel

/-! ## Events: for each clause, a state that meets its premises. The ready group is group 0 of block 2, of launch 1, in context 1. -/

def cueOf (block gidx key : Nat) (nums : List Nat) (yes : Bool) : Cue := ⟨block, gidx, key, nums, [], yes⟩
/-- The ready state, changed, with a cue. -/
def onCue (s : State) (c : Cue) : State := { s with cue := c }
/-- An instruction in flight under the name 7. -/
def flying (due : Option Nat) (op : FlightOp) : State :=
  { ready with cur := { ready.cur with flights := [⟨7, 0, 0x1000, due, 15, [], [], 0, [], op⟩] } }
/-- The flight that the cue names. -/
def namedFlight (s : State) : Option Flight :=
  if s.isResident s.cue.block then (s.group? s.cue.block s.cue.gidx).bind fun g => g.flight? s.cue.key else none
/-- An access of one lane in flight. -/
def oneAccess (loc : Bool) (st : LaneState) : FlightOp :=
  .access ⟨.load, loc, 4, 4, 0, false, 0, .plain, .vec 8 false, false, [], [⟨0, 0x100, 0, 0, 0, 0, st, 0⟩]⟩

theorem test_meets_TimeAndCompletion :
    (namedFlight (onCue (flying (some 5) .result) (cueOf 2 0 7 [] false))).map (·.due) = some (some 5) ∧
    (namedFlight (onCue (flying none .result) (cueOf 2 0 7 [] false))).map (·.due) = some none ∧
    (let s := onCue (mapped ready) (cueOf 2 0 0 [] false)
     (s.group? 2 0).bind (·.nextRun) = some run ∧ s.isResident s.cur.block = true ∧
      (match s.codeWord (s.coreOfGroup s.cur) (s.pasidOf s.cur) run.pc with | .error va => va == 0x1000 | _ => false) = true ∧
      (match s.translate (s.coreOfGroup s.cur) (s.pasidOf s.cur) ((BitVec.ofNat 57 0x1000).signExtend 64) .code with
        | (.ok pa _ _ _, t) => pa == 0x1000 && !t.inTransit pa
        | _ => false) = true) := by decide +kernel
theorem test_meets_TimeAndCompletion_time :
    ready.readyBefore 256 = false ∧ ready.readyBefore 5 = false := by decide +kernel

theorem test_meets_WaitsEnd :
    (let s := onCue { ready with cur := { ready.cur with hold := .sleep 0 } } (cueOf 2 0 0 [] false)
     s.isResident 2 = true ∧ (s.group? 2 0).map (·.hold) = some (.sleep 0)) ∧
    (let s := onCue { ready with cur := { ready.cur with hold := .spawn } } (cueOf 0 0 2 [] false)
     (s.block? 2).map (fun b => (s.heldOff b, b.children)) = some (false, 0) ∧ ((s.groupsOf 2).any fun g => g.hold == .spawn) = true) ∧
    (let s := onCue { ready with
        mails := [⟨5, 1, 2, 0, true, 2, 0x40, []⟩]
        launches := ready.launches.map fun l => { l with rc := { l.rc with gridx := 2 } } } (cueOf 0 0 1 [] false)
     (s.mails.find? fun x => x.pasid == s.cue.key && x.here && x.bytes == []).isSome = true ∧
      ((s.launches.find? fun x => x.pasid == 1 && !x.torn && x.rc.launchId == 0).bind Launch.lowestUnplaced).isSome = true) ∧
    (let s := onCue { ready with mails := [⟨5, 1, 2, 0, true, 2, 0x40, zeros 16⟩] } (cueOf 0 0 5 [] false)
     (s.mails.find? fun x => x.key == s.cue.key && x.bytes != []).isSome = true ∧ s.localTransit 2 0x40 = false ∧ s.segmentWaits 2 0x40 = false ∧
      s.isResident 2 = true ∧ s.isFull 2 (granOf 0x40) = false ∧
      ((s.block? 2).map fun b => b.vault.waiters.any fun w => w.2 == Waiter.mailbox 5) = some false) ∧
    (let s := onCue { forkS with cur := { forkS.cur with hold := .fork 2 8 } } (cueOf 2 0 0 [] false)
     (s.block? 2).isSome = true ∧ (s.group? 2 0).map (·.hold) = some (.fork 2 8) ∧ s.forkReady 2 = true ∧ s.tableBusy s.cur s.cycle = false ∧
      ((s.block? 2).map fun b => (s.forkCode b true, (placeUnit (s.site b.pasid) (s.clusters b.pasid)
        (List.replicate 1 ⟨b.lin, s.needOf b, ((s.launch? b.launch).map fun (l : Launch) => (l.want b.lin).sets).getD []⟩)
        (((s.launch? b.launch).map s.setKeys).getD []) s.occ).isSome)) = some (none, true) ∧
      (s.views.filter fun w => w.state != .abandoned).length + s.aliases.length + 2 ≤ 255) := by decide +kernel
/-- The ready block saved, with its groups in a hold. -/
def aside (h : Hold) : State :=
  { ready with
    cur := { ready.cur with hold := h }
    blocks := ready.blocks.map fun b => { b with res := .saved }
    parked := [⟨2, [], [], [], [], [], 0, none⟩]
    returns := [2] }
def spawned : State := onCue (aside .spawn) (cueOf 0 0 2 [] false)
theorem test_meets_WaitsEnd_spawn :
    ((spawned.block? 2).any fun b => !spawned.heldOff b && b.children == 0 && spawned.suspended b && b.res == .saved &&
      (spawned.blocks.filter fun x => (spawned.together [b.key]).contains x.key && !spawned.awaits x) == [b] &&
      spawned.returns.head? == some b.key && (spawned.restoreBlock b.key).isSome) = true := by decide +kernel

theorem test_meets_WaitsEnd_fetchw :
    let s := onCue { ready with
        mails := [⟨5, 1, 2, 0, true, 2, 0x40, []⟩]
        launches := ready.launches.map fun l => { l with rc := { l.rc with gridx := 2 } } } (cueOf 0 0 1 [] false)
    ((s.withdraw 1 1 2).block? 2).isSome = true := by decide +kernel

def atsReq (pri : Bool) : AtsReq := ⟨5, 0, 1, 0, 4096, 0, true, true, 0, false, false, pri, false⟩
theorem test_meets_TranslationEvents :
    (ready.ctx? 1).isSome = true ∧ State.reset.updating = false ∧ ready.leaving = [] ∧ ready.dying = [] ∧ (onCue ready (cueOf 0 0 1 [] false)).ctx? 1 ≠ none ∧
    (let s := { ready with ats := [atsReq false] }
     (s.ats.find? fun x => x.key == 5 && !x.pri && !x.refused) = some (atsReq false) ∧ (atsReq false).unit < 128) ∧
    (let s := { flying none (oneAccess false (.logged 1 0 false)) with ats := [atsReq true] }
     (s.ats.find? fun x => x.key == 5 && x.pri) = some (atsReq true) ∧ s.hostLanes (atsReq true) true ≠ []) := by decide +kernel
theorem test_meets_TranslationEvents_answers :
    ready.mayWalk 0 1 0x1000 2 = true ∧
    (let s := { flying none (oneAccess false (.logged 1 0 false)) with olog := [⟨0, 2, 0, 7, .pending, 1, 0, false, 0⟩] }
     (s.olog.find? fun x => x.block == 2 && x.gidx == 0 && x.flight == 7 && x.state == .pending).isSome = true ∧
       (s.loggedLane ⟨2, 0, 7⟩).isSome = true) ∧
    ({ ready with ats := [atsReq true] } : State).hostLanes (atsReq true) true = [] := by decide +kernel

/-- An item of four words from 0x11000 to 0x10000, with the moves that it has made. -/
def item (kind : CopyKind) (moved : List Nat) : CopyItem :=
  { CopyItem.new 5 kind 1 0 (some 2) 0 7 0x1000 128 (Tensor.parse (copyS.mem.read 0x4000 128)) (Tensor.parse (copyS.mem.read 0x4080 128)) Tensor.zero
      [] (copyS.mem.read 0x4000 128 ++ copyS.mem.read 0x4080 128 ++ zeros 128) [] with moved := moved, state := 1, rows := some [] }
theorem test_meets_VaultAndCopyEvents :
    ((flying none (oneAccess true .todo)).access? ⟨2, 0, 7⟩).map (·.2.2.loc) = some true ∧
    (∀ k ∈ [CopyKind.copy, .tier 3], let s := { copyS with items := [item k [0]] }
      s.item? 5 = some (item k [0]) ∧ (item k [0]).over = true) := by decide +kernel
/-- A lane at vault byte 0x100; a mapped page coming and going; an item with a granule still to move. -/
theorem test_meets_VaultAndCopyEvents_bank :
    let s := onCue (flying none (.access ⟨.load, true, 4, 4, 0, false, 0, .plain, .vec 8 false, false, [], [⟨0, 0x100, 2, 0x100, 0, 0, .todo, 0⟩]⟩))
      (cueOf 2 0 7 [] false)
    ((s.access? ⟨2, 0, 7⟩).any fun x => x.2.2.loc && x.2.2.ord == 0 && x.2.2.qual == .plain && (match x.2.2.lanes with
      | [l] => l.st == .todo && !s.laneHeld x.1 x.2.1 x.2.2 l && x.1.differs.isNone && !s.localTransit l.blk l.off && s.isResident l.blk && !s.segmentWaits l.blk l.off
      | _ => false)) = true := by decide +kernel
def mappedPage (leaving : Bool) : Segment := ⟨0x4000, 0x4000, 1, 2, 0, false, true, leaving⟩
theorem test_meets_VaultAndCopyEvents_transit : ∀ b ∈ [false, true],
    (({ ready with segs := [mappedPage b] } : State).segs.find? fun x => x.pa == 0x4000 && x.transit) = some (mappedPage b) := by decide +kernel
theorem test_meets_VaultAndCopyEvents_items :
    let it := item .copy []
    let s := { copyS with items := [it] }
    s.item? 5 = some it ∧ it.blocked = false ∧ it.waitva = 0 ∧ s.behind it = false ∧ it.state = 1 ∧ (s.itemState 5 1).item? 5 = some it ∧
      ((s.itemState 5 1).itemIndex it).1 = some [] ∧ it.src.fetake = false ∧ (item .copy [0]).over = true ∧ (item (.tier 3) [0]).over = true := by decide +kernel

/-- A schedule at 0x5000 of one entry with a replica: the item of `copyS`. -/
def tierS : State :=
  { copyS with mem := ((((((copyS.mem.write 0x5004 (natBytes 4 1)).write 0x5040 (natBytes 8 0x4080 ++ natBytes 8 0x4000)).write 0x5054 [1, 3]).write 0x5058
      (natBytes 8 0x4080)).write 0x5060 (natBytes 8 0x5800))) }
theorem test_meets_VaultAndCopyEvents_tier :
    let reader := engineRecord (engineUnit 0) 1
    (tierS.tierHead? 1).any (fun h => h.count == 1 && h.cursor == 0 && h.ahead == 0) = true ∧
    (match tierEntries reader 0x5000 0 1 0 false tierS with
      | (.ok [e], t) => e.valid && e.index == 0 && e.layer == 0 && !t.tierStarted 1 0 && (match entriesCheck reader 1 0 [e] t with | none => true | _ => false)
      | _ => false) = true := by decide +kernel

/-- The entry has ended with one poisoned granule. -/
def tierPoisoned : State := { tierS with sched := [⟨1, 0, 2, 1⟩], poison := [0x1000] }
theorem test_meets_VaultAndCopyEvents_replica :
    let reader := engineRecord (engineUnit 0) 1
    let s := tierPoisoned
    (match s.tierEntry? 1 (engineUnit 0) 0, s.tierUnit 1 none 0, (reader 0x4000 128 s).1, (reader 0x4080 128 s).1 with
      | some e, some unit, .ok d, .ok r =>
        let dst := Tensor.parse d
        let src := Tensor.parse r
        let ms := copyMoves dst src
        let it := { tierItem s.nextKey 1 0 unit e none { dst with fewait := false, feset := false } { src with fetake := false } [] with install := false, state := 1 }
        let it := { it with moved := (((granulesOf ms).zipIdx).filter fun p => !({ s with nextKey := s.nextKey + 1 } : State).tierBad it p.1).map (·.2) }
        let t := State.copyGranules s.nextKey ms false (it.left ms) { s with nextKey := s.nextKey + 1, items := s.items ++ [it] }
        let u := (it.left ms).foldl (fun (t : State) p => t.tierClean it p.2) t
        s.tierState 1 0 == 2 && decide (e.dtier < 4) && e.flags / 2 % 2 == 1 && e.dst == 0x4000 && e.src == 0x4080 && e.replica == 0x4080 &&
          (src.fault 1).isNone && (copyPairFault dst src).isNone && it.moved == [] &&
          ((t.item? s.nextKey).any fun j => j.npoison == 0 && ((it.left ms).all fun p => j.moved.contains p.1) && j.reason == 0) &&
          (granulesOf ms).all fun p => !u.tierBad it p
      | _, _, _, _ => false) = true := by decide +kernel

/-- An entry of MXZERO, arrived at cycle 0. -/
def mxZero (granted : Option Nat) : MxEntry :=
  ⟨9, 0, 2, 0, 7, 5, [], 1, [], 0, some 0, granted, 0, false, false, 0, [], false, 0, []⟩
theorem test_meets_MatrixEvents :
    (let s := { flying none (.mxalloc 1 1 8) with mxReqs := [⟨0, 2, 0, 7, 1, 1, 0, none⟩] }
     (s.mxReqs.find? fun x => x.cluster == 0) = some ⟨0, 2, 0, 7, 1, 1, 0, none⟩ ∧
      ((panesOf 1 0).any ((s.mxAllocs.filter fun x => x.cluster == 0).flatMap fun a => panesOf a.mode a.pane).contains) = false ∧
      ((s.group? 2 0).bind fun g => g.flight? 7).map (·.op) = some (.mxalloc 1 1 8)) ∧
    (({ mxS 0x4000 [] with mxEntries := [mxZero none] } : State).mxNote.mxNext 0).map (·.key) = some 9 ∧
    (let s := { ready with mxEntries := [mxZero (some 0)] }
     (s.mxEntries.find? fun x => x.key == 9) = some (mxZero (some 0)) ∧ (mxZero (some 0)).streamDone ≤ s.planeCycle ∧ (mxZero (some 0)).ended = 0 ∧
      s.releaseStuck (s.mxView (mxZero (some 0))) (mxZero (some 0)).scope = false ∧ s.updating = false ∧ (mxZero (some 0)).void = false) := by decide +kernel

/-- A fabric request named 5. -/
def fab (kind : FabKind) : FabReq := FabReq.new 5 kind 1 0 2 0 none
def collItem : CopyItem := item .coll []
theorem test_meets_FabricEvents :
    (∀ r ∈ [fab .put, { fab .put with code := 3 }, fab .get, { fab .get with host := true }, { fab .nmo with pa := 2 ^ 48 },
        { fab .nmo with code := 3 }], ({ ready with fabric := [r] } : State).fabReq? 5 = some r) ∧
    State.reset.lostNode (2 ^ 48) = false ∧
    (let r := { fab .nmo with result := some ([], 0) }
     let s := { ready with fabric := [r] }
     s.fabReq? 5 = some r ∧ (match s.localVia r.slots 2 (BitVec.ofNat 64 (r.win + 0x50)) 40 with | .ok p => p == (2, 0x50) | _ => false) = true ∧ s.localTransit 2 0x50 = false ∧ s.segmentWaits 2 0x50 = false) ∧
    (let c : Combine := ⟨2 ^ 48, false, [⟨0, 0, 2, 0, 7, 0, 1⟩]⟩
     let s := { ready with cycle := 64, combine := [c] }
     (s.combine.find? fun x => x.pa == 2 ^ 48) = some c ∧ (c.reqs.head?.all fun (r : AddReq) => decide (r.since + 64 ≤ s.cycle)) = true) ∧
    ({ ready with items := [collItem] } : State).item? 5 = some collItem ∧ ready.ports = [] ∧ ready.colours = [] ∧ ready.fabric = [] := by
  decide +kernel
/-- One chunk of 16 bytes between vault byte 0x100 and window 0 of this package. -/
def chunkReq (kind : FabKind) : FabReq :=
  { fab kind with loc := true, slots := winS.window 2, addr := 0x100, n := 16, todo := [0] }
theorem test_meets_FabricEvents_chunks :
    (∀ k ∈ [FabKind.put, .get], ({ winS with fabric := [chunkReq k] } : State).fabReq? 5 = some (chunkReq k)) ∧
    (let r := chunkReq .put
     let s := { winS with fabric := [r] }
     s.route 0 = some 0 ∧ s.isOwn r.pasid r.target = true ∧ (match readPieces r.own r.addr r.off (r.chunk 0) s with
       | (.ok ps, t) => t.isOwn r.pasid r.target && r.code == 0 && (match t.window? r.pasid r.win r.refused with
         | (some w, u) => (w.refuses true r.off r.n).isNone && (writePieces r.far w.base 0 ps u).1.isNone
         | _ => false)
       | _ => false) = true) ∧
    (let r := chunkReq .get
     let s := { winS with fabric := [r] }
     r.host = false ∧ (match s.window? r.pasid r.win r.refused with
       | (some w, t) => (w.refuses false r.off r.n).isNone && (match readPieces r.far w.base 0 (r.chunk 0) t with | (.ok _, _) => true | _ => false)
       | _ => false) = true) := by decide +kernel
/-- What comes from outside: a chunk of a PUT, one of a collective; and the port of an NMO takes it. -/
theorem test_meets_FabricEvents_arrivals :
    ((cueOf 0 0 0 [1, 0, 0, 0, 0, 16, 0, 3] true).arrival true).any (fun a => a.port == 3) = true ∧
    ((cueOf 0 0 0 [1, 0, 0, 0, 0, 16, 0, 3] true).arrival false).isSome = true ∧ ready.inbox = [] ∧ ((List.range 32).all fun p => !ready.logStops p) = true ∧
    (let r := { fab .nmo with pa := 2 ^ 48, asize := 2 ^ 21 }
     let s := { ready with fabric := [r] }
     (s.placeNmo r).1 = some r ∧ (s.placeNmo r).2.lostNode r.pa = false ∧ (s.placeNmo r).2.portWaits (nodeOf r.pa) 1 = false) ∧
    ready.nodeFull (nodeOf (2 ^ 48)) 3 = false ∧
    (fab .get).left = [] ∧ (fab .get).data = [] ∧ (fab .get).todo = [] ∧ (0 : Nat) < 2 ^ 39 := by decide +kernel

/-- In an SPDM session, in which firmware serves the host. -/
def session (s : State) : State := { s with mgmt := { s.mgmt with spdm := 3 } }
/-- A packet of a type with a prologue at 0x1001 - 1, and a queue that holds it. -/
def pkt (type : Nat) (started : Bool) (pro : Option Nat) (runs : Nat) : Packet :=
  ⟨0, natBytes 1 type ++ zeros 7 ++ natBytes 8 0x4000 ++ natBytes 8 0x1000 ++ natBytes 8 0x4000 ++ zeros 32, started, false, none, pro, runs, false, 0⟩
def queue (ps : List Packet) : Queue := ⟨1, 0, true, 0x6000, 3, 1, 0x6400, 0x6408, 0x6410, 0, 0, 0, false, 0, ps, none, false, 0, 0⟩
def queueS (ps : List Packet) : State :=
  { mapped ready with queues := [queue ps], arbiter := [(1, 0)], ctxs := (mapped ready).ctxs.map fun c => { c with qbase := 0x7000 } }
/-- The ready group as the prologue that has ended with a result. -/
def prologueS (n runs : Nat) : State :=
  let s := queueS [pkt 2 true (some 2) runs]
  { s with cur := { (s.cur.setSreg 3 (BitVec.ofNat 64 n)) with act := 0 } }

theorem test_meets_QueueEvents :
    ((queueS []).ctx? 1).map (fun c => (decide (c.qdue ≤ (queueS []).cycle), c.qbase, c.begun)) = some (true, 0x7000, true) ∧
    (session (queueS [])).serving = true ∧
    (queueS []).queue? 1 0 = some (queue []) ∧
    (match (({ queueS [] with ctxs := ready.ctxs } : State).podAcquire).deviceRead 1 0x6400 8 true with | (.lost, _) => true | _ => false) = true ∧
    (match ((queueS []).podAcquire).deviceRead 1 0x6400 8 false with | (.bytes bs, _) => bs == zeros 8 | _ => false) = true ∧
    (∀ k ∈ [0, 3, 4], let s := queueS [pkt k false none 0]
      s.packet? [1, 0, 0] = some (queue [pkt k false none 0], pkt k false none 0) ∧ (pkt k false none 0).type = k ∧
        s.starts (queue [pkt k false none 0]) (pkt k false none 0) = true) ∧
    (match (queueS [pkt 3 false none 0]).translate deviceUnit 1 (BitVec.ofNat 64 (pkt 3 false none 0).addr) .engineWrite with
      | (.ok pa _ _ _, _) => pa == 0x4000 | _ => false) = true ∧
    (∀ k ∈ [1, 2], (queueS [pkt k true none 0]).packet? [1, 0, 0] = some (queue [pkt k true none 0], pkt k true none 0)) ∧
    ([pkt 1 true none 0].find? fun x => x.started && x.type == 1 && x.launch.isNone).map (·.idx) = some 0 ∧
    (∀ n ∈ [0, 1, 2], (prologueS n 0).packet? [1, 0, 0] = some (queue [pkt 2 true (some 2) 0], pkt 2 true (some 2) 0) ∧
      (prologueS n 0).prologueCode (pkt 2 true (some 2) 0) = some n ∧ ((prologueS n 0).group? 2 0).isSome = true) ∧
    (prologueS 2 65535).prologueCode (pkt 2 true (some 2) 65535) = some 2 ∧
    ({ prologueS 0 0 with blocks := ready.blocks.map fun b => { b with issued := 1048577 } } : State).block? 2 ≠ none ∧
    ready.arbitrate.arbiter = [] ∧ (queueS [pkt 0 false none 0]).arbitrate.arbiter[0]? = some (1, 0) := by decide +kernel
theorem test_meets_QueueEvents_scans :
    (∀ b ∈ [false, true], let q := { queue [] with asked := b }
      let s := { queueS [] with queues := [q] }
      s.queue? 1 0 = some q ∧ s.mayScan q = true ∧ q.valid = true ∧ q.stopped = false) ∧
    (match State.readTable (((queueS []).ctx? 1).getD (Context.plain 1 0)) true (List.range 64) false (queueS []).podAcquire with
      | (b, _) => !b) = true ∧
    (match ({ queueS [] with scans := (0, if (queueS []).scans.1 = 0 then (queueS []).scans.2 + 1 else 1) } : State).podAcquire.deviceRead 1 0x6400 8 false with
      | (.bytes bs, _) => decide (leNat bs - 0 ≤ 2 ^ 64) && decide (0 ≤ leNat bs) && decide (leNat bs ≤ 0 + 2 ^ 3)
      | _ => false) = true ∧
    (queueS []).updating = false ∧ ((queueS []).groups.any fun g => g.front && g.locid.toNat == (pkt 2 true none 0).core) = false := by decide +kernel
/-- A WAITGE whose word is read, and one whose page is not there; a visit that leaves the queue in the arbiter, and one that takes it out. -/
theorem test_meets_QueueEvents_visits :
    (let q := queue [pkt 4 false none 0]
     let t := (queueS [pkt 4 false none 0]).onPacket 1 0 0 fun x => { x with started := true }
     q.pasid = 1 ∧ (match t.deviceRead 1 0x4000 8 true with | (.lost, _) => false | _ => true) = true ∧
      (match ({ t with ctxs := ready.ctxs } : State).deviceRead 1 0x4000 8 true with | (.lost, _) => true | _ => false) = true) ∧
    (∀ d ∈ [(0 : Int), -2 ^ 24], let s := { queueS [] with queues := [{ queue [pkt 1 false none 0] with deficit := d }] }
     let t := s.arbitrate
     let v := State.startPackets 1 0 2 (t.onQueue 1 0 fun q =>
        { q with deficit := min (q.deficit + ((q.weight * 2 ^ 23 : Nat) : Int)) ((q.weight * 2 ^ 24 : Nat) : Int) })
     t.arbiter[t.arbAt % max 1 t.arbiter.length]? = some (1, 0) ∧ (v.queue? 1 0).map v.activeQueue = some (d != 0)) ∧
    ready.updating = false := by decide +kernel

/-- The ready block in a residence. -/
def staying (r : Residence) : State := { ready with blocks := ready.blocks.map fun b => { b with res := r } }
theorem test_meets_PlacementAndPreemption :
    ready.isResident 2 = true ∧ ready.cur.front = false ∧ (ready.launchOf ready.cur).isSome = true ∧ (session ready).serving = true ∧
    (ready.ctx? 1).isSome = true ∧ ready.returns = [] ∧ ((staying (.draining 0 0)).block? 2).map (·.res) = some (.draining 0 0) ∧ (staying (.draining 0 0)).completing 2 = false ∧
    ({ staying (.draining 9 0) with cur := { ready.cur with act := 0 } } : State).completing 2 = true ∧
    (let s := { ready with cur := { ready.cur with hold := .grow 8 } }
     s.pressed 0 = true ∧ ((s.blocks.filter fun x => x.onCores && (s.groupsOn 0).any fun g => g.block == x.key).getLast?).isSome = true) ∧
    (let s := { staying (.draining 9 0) with hbeat := 4096 }
     (s.block? 2).map (·.res) = some (.draining 9 0) ∧ 0 + 4096 ≤ s.hbeat.toNat) ∧
    (∀ r ∈ [Residence.saving, .suspending], ((staying r).block? 2).map (·.res) = some r ∧ (staying r).saveReady 2 = true ∧
      (staying r).cutHolds 1 = false ∧ (staying r).holdsGranules 2 = false) ∧
    ((staying .flushing).block? 2).map (·.res) = some .flushing ∧ (staying .flushing).stopped 2 = true ∧
    ((staying .saved).block? 2).map (fun b => ((staying .saved).heldOff b, b.children)) = some (false, 0) := by decide +kernel
/-- A launch with a block still to place. -/
def unplacedS : State :=
  { ready with
    cur := Group.idle
    others := []
    blocks := []
    launches := ready.launches.map fun (l : Launch) => { l with nextBlk := 0 } }
theorem test_meets_PlacementAndPreemption_places :
    (unplacedS.launches.head?.any fun l => !unplacedS.launchHeld l && l.unit != [] &&
      (placeUnit (unplacedS.site l.pasid) (unplacedS.clusters l.pasid) (l.unit.map l.want) (unplacedS.setKeys l) unplacedS.occ).isSome) = true := by
  decide +kernel
/-- A saved block that can come back. -/
def cameBack : State := aside .free
theorem test_meets_PlacementAndPreemption_restores :
    ((cameBack.block? 2).any fun b => !cameBack.heldOff b && b.children == 0 && b.res == .saved &&
      (cameBack.blocks.filter fun x => (cameBack.together [b.key]).contains x.key && !cameBack.awaits x) == [b] &&
      cameBack.returns.head? == some b.key && (cameBack.restoreBlock b.key).isSome) = true := by decide +kernel

def snapDesc : List Byte := natBytes 4 1 ++ [1, 0, 0, 0] ++ natBytes 8 0x100000 ++ natBytes 8 65536 ++ zeros 40
def colour (st : ColourState) (cut : Bool) (recs : List SnapRec) (un : List SnapRef) : Colour :=
  ⟨1, 0, st, 1, snapDesc, none, some 0, cut, 0, [], [], [], [], recs, un, [], 0, 0, [], false, 0⟩
def colourS (c : Colour) : State := { mapped ready with colours := [c] }
def snapRec : SnapRec := ⟨1, 0, .page 0x4000, 0x4000, 0, zeros 8, none⟩
theorem test_meets_SnapshotEvents :
    snapDescFault snapDesc = none ∧ (session ready).serving = true ∧ (colourS (colour .cutting false [] [])).cutHolds 1 = true ∧ ready.isOwn 1 0 = true ∧ ready.isOwn 9 0 = false ∧
    ((session ready).claim 1 snapDesc none true).isSome = true ∧
    (colourS (colour .cutting false [] [])).colour? 1 0 = some (colour .cutting false [] []) ∧ (colourS (colour .cutting false [] [])).cutReady 1 = true ∧
    (colourS (colour .recording true [] [.matrix 0 0])).colour? 1 0 = some (colour .recording true [] [.matrix 0 0]) ∧
    ((colourS (colour .recording true [] [.matrix 0 0])).unpreserved (colour .recording true [] [.matrix 0 0]))[0]? = some (.matrix 0 0) ∧
    (colourS (colour .recording true [] [.matrix 0 0])).stager (.matrix 0 0) = some 0 ∧
    (colourS (colour .recording true [] [.matrix 0 0])).stageFull 0 (SnapRef.matrix 0 0).size = false ∧
    (colourS (colour .recording true [] [.matrix 0 0])).logStops 0 = false ∧
    (colour .recording true [snapRec] []).recs[0]? = some snapRec ∧
    (let s := colourS (colour .recording true [snapRec] [])
     s.unstaged (colour .recording true [snapRec] []) snapRec.ref = false ∧
      s.streamerFree (s.streamerOf (colour .recording true [snapRec] []) snapRec) = true ∧ snapRec.out = none) ∧
    (let s := colourS (colour .recording true [] [])
     (((s.failColour 1 0 3).beginColour 1 0 2 snapDesc none false).colour? 1 0).map (fun d => (d.st != .free, d.seq)) = some (true, 2)) ∧
    (let s := { colourS (colour .closing true [] []) with slot := 1 }
     s.colour? 1 0 = some (colour .closing true [] []) ∧ s.isOwn 1 0 = false ∧ (List.range 8).all s.streamerFree = true) := by decide +kernel

theorem test_meets_ReliabilityEvents :
    (let s := { State.reset with mgmt := { Management.reset with quarantine := [0x5000], retired := [3] } }
     s.mgmt.quarantine.contains 0x5000 = true ∧ s.pageHeld 0x5000 = false ∧ 0x5000 < vaultPage 0 0 ∧ s.mgmt.retired.contains 3 = true) ∧
    State.reset.mgmt.ridge = none ∧ State.reset.mgmt.update = .idle ∧ (ready.ctxs.find? fun x => x.vf == 0).isSome = true := by decide +kernel
/-- The eighth mismatch in a partition, the seventh, and one that is too old; a Ridge mismatch 2^22 ticks after the last; a clean L1. -/
theorem test_meets_ReliabilityEvents_counts :
    (∀ x ∈ [(7, 8), (6, 7)], (((List.replicate x.1 (3, 0)) ++ [(3, 2 ^ 20)] : List (Nat × Nat)).filter fun y => y.1 == 3 && decide (2 ^ 20 ≤ y.2 + 2 ^ 20)).length = x.2) ∧
    Management.reset.retired.contains 3 = false ∧
    (let x : Replayed := ⟨3, 0x4930, allOnes, []⟩
     ({ ready with replayQ := [x] } : State).replayQ.filter (·.part == 3) = [x]) ∧ ready.colours = [] ∧
    (∀ x ∈ (some 0 : Option Nat), x + 2 ^ 22 < 2 ^ 22 + 1) ∧ (2 : Nat) ^ 22 ≤ 0 + 2 ^ 22 ∧
    (∀ c ∈ [(⟨0, 1, 0, 0x105, 7, false⟩ : CByte)], c.unit = 0 → c.pasid = 1 → c.view = 0 → c.pa / 16 = 0x10 → c.dirty = false) ∧
    (127 : Nat) < 128 := by decide +kernel

theorem test_meets_SpdmEvents : (let s := session State.reset
    1 ≤ s.mgmt.spdm ∧ 2 ≤ s.mgmt.spdm ∧ 3 ≤ s.mgmt.spdm ∧ s.updating = false ∧ s.mgmt.tripped = false ∧ (s.mgmt.measured 0).isSome = true) ∧
    ({ State.reset with mgmt := { Management.reset with update := .trial } } : State).updating = true := by decide +kernel

/-- Reset, in a state of the update. -/
def updS (u : UpdateState) : State := { State.reset with mgmt := { Management.reset with update := u } }
theorem test_meets_UpdateEvents :
    (∀ u ∈ [UpdateState.idle, .staged, .quiescing, .handing, .trial], (updS u).mgmt.update = u ∧ (updS u).atBoundary = true ∧
      (updS u).mgmt.tripped = false) ∧
    (∀ u ∈ [UpdateState.idle, .staged], (session (updS u)).serving = true ∧ (session (updS u)).compared.mgmt.update = u) ∧
    (session State.reset).compared.mgmt.active = 0 ∧ State.reset.serving = false ∧
    ({ State.reset with mgmt := { (session State.reset).mgmt with active := 1 } } : State).compared.mgmt.active ≠ 0 ∧
    (updS .trial).hbeat.toNat ≤ (updS .trial).mgmt.trial + 65536 ∧ (updS .trial).mgmt.newEmu = (updS .trial).mxemu ∧
    (let s := { updS .trial with hbeat := 65537 }
     s.mgmt.trial + 65536 < s.hbeat.toNat) := by decide +kernel
theorem test_meets_UpdateEvents_trial :
    (let s := { ready with mgmt := { ready.mgmt with update := .trial, newEmu := 0x40 } }
     s.mgmt.newEmu ≠ s.mxemu ∧ ∃ b ∈ s.blocks, b.resident = true) ∧
    (let s := { updS .trial with mgmt := { (updS .trial).mgmt with newEmu := 0x40 } }
     s.hbeat.toNat ≤ s.mgmt.trial + 65536 ∧ s.mgmt.newEmu ≠ s.mxemu ∧ ∀ b ∈ s.blocks, b.resident = false) ∧
    (cueOf 0 0 0 [0x40, 7] false).nums = 0x40 :: [7] := by decide +kernel

/-- A context alone, with a save area of 8 KiB at 0x10000 that holds an image without sections. -/
def imageHead : List Byte := natBytes 4 0x4B474349 ++ natBytes 4 1 ++ natBytes 8 64 ++ natBytes 4 0 ++ natBytes 4 0xF80 ++ zeros 16
def image : List Byte := imageHead ++ shake256 (imageHead ++ zeros 24) 8 ++ zeros 16
def savedS : State := { ready with
  ctxs := ready.ctxs.map fun c => { c with saveBase := 0x10000, saveSize := 0x2000 }
  mem := Memory.write [] 0x10000 image
  launches := []
  blocks := []
  cur := Group.idle }
theorem test_meets_ManagementCommands :
    (session ready).serving = true ∧ (session ready).agrees = true ∧ ready.serving = false ∧ (ready.dying.any fun x => x.1 == 1) = false ∧ 1500 ≤ 2000 ∧ 2000 ≤ 3000 ∧ 2000 % 50 = 0 ∧ ready.ctxs ≠ [] ∧
    (savedS.ctx? 1).map (fun c => (decide (0 + 64 ≤ c.saveSize), placementBad (Shape.of c.shape) c.place)) = some (true, false) ∧
    savedS.launches = [] ∧ savedS.blocks = [] ∧
    imageStatus 0xF80 (savedS.mem.read 0x10000 (min (field (savedS.mem.read 0x10000 16) 8 8) 0x2000)) = 0 := by decide +kernel
/-- RESTORE into an empty context; of one whose blocks are saved, with a placement table at host address 0. -/
def tableS : State :=
  let s := cameBack
  { s with
    ctxs := s.ctxs.map fun c => { c with saveBase := 0x10000, saveSize := 0x2000 }
    mem := (s.mem.write 0x10000 image).write hostBase [0x80, 2, 0xE4, 0xE4] }
theorem test_meets_ManagementCommands_restore :
    ((savedS.ctx? 1).any fun c => ((savedS.onCtx 1 fun x => { x with place := c.place }).loadContext 1
      (savedS.mem.read 0x10000 (min (field (savedS.mem.read 0x10000 16) 8 8) 0x2000)) ownParts).enginesFit) = true ∧
    imageStatus 0xF80 [] ≠ 0 := by decide +kernel
theorem test_meets_ManagementCommands_table :
    ((tableS.ctx? 1).any fun c => !placementBad (Shape.of c.shape) ((List.range (c.shape.toNat % 128 + 1)).map fun k =>
        PlEntry.parse (tableS.mem.read (hostBase + 0 + 16 * k) 16)) &&
      imageStatus c.shape (tableS.mem.read (c.saveBase + 0) (min (field (tableS.mem.read (c.saveBase + 0) 16) 8 8) (c.saveSize - 0))) == 0) = true ∧
    (tableS.blocks.map fun b => (b.pasid, b.res)) = [(1, .saved)] ∧ (ready.blocks.map fun b => (b.pasid, b.res)) = [(1, .running)] := by decide +kernel

/-! ## Decoding: words put together by the layouts of R42 to R50 and the code tables of R42, R44, R66 and R68 -/

/-- R50, with DIST 2, DST 8, S1 4, S2 6. -/
def w64 (maj min cnt s3 mod : Nat) : DWord :=
  BitVec.ofNat 64 (3 + 2 * 2 ^ 2 + maj * 2 ^ 6 + min * 2 ^ 12 + 8 * 2 ^ 19 + 4 * 2 ^ 27 + 6 * 2 ^ 35 + s3 * 2 ^ 43 + cnt * 2 ^ 51 + mod * 2 ^ 60)
def f64 (cnt s3 mod : Nat) : F64 := ⟨2, false, false, 8, 4, 6, BitVec.ofNat 8 s3, BitVec.ofNat 4 cnt, 0, false, BitVec.ofNat 4 mod⟩
/-- Each minor of a major decodes to its instruction with its fields. -/
noncomputable def minors (maj cnt s3 mod : Nat) (l : List (Nat × (F64 → Instr))) : Bool :=
  l.all fun p => decodeWord (w64 maj p.1 cnt s3 mod) == p.2 (f64 cnt s3 mod)
/-- R48, with DIST 2, DST 8, SRC1 4, SRC2 6. -/
noncomputable def majors32 (l : List (Nat × (F32 → Instr))) : Bool :=
  l.all fun p => decodeWord (BitVec.ofNat 64 (1 + 2 * 2 ^ 2 + p.1 * 2 ^ 6 + 8 * 2 ^ 13 + 4 * 2 ^ 19 + 6 * 2 ^ 25)) == p.2 ⟨2, false, false, 8, 4, 6, false⟩

theorem test_decode_two_address : ([Instr.mov16, .iadd16, .isub16, .imul16, .and16, .or16, .xor16, .shl16, .shr16, .sar16, .imin16, .imax16,
    .faddF32_16, .fsubF32_16, .fmulF32_16, .fmaxF32_16].zipIdx.all fun p =>
      decodeWord (BitVec.ofNat 64 (p.2 * 2 ^ 2 + 4 * 2 ^ 6 + 9 * 2 ^ 11)) == p.1 4 9) = true := by decide +kernel
theorem test_decode_halfwords : decodeWord 0x0052 = .wait 5 ∧ decodeWord 0x0706 = .nop16 7 ∧ decodeWord 0x0016 = .yield ∧
    decodeWord 0x0726 = .brk16 7 ∧ decodeWord 0x0036 = .exit16 ∧ decodeWord 0x2146 = .trap16 0x21 ∧ decodeWord 0xFFFA = .brs 0xFFF ∧
    decodeWord 0x000E = .illegalInstr 0x000E ∧ decodeWord 0x0056 = .illegalInstr 0x0056 ∧ decodeWord 0x0116 = .illegalInstr 0x0116 := by
  decide +kernel
theorem test_decode_words32 : majors32 [(0x00, .iadd32), (0x01, .isub32), (0x02, .imul32), (0x03, .imulh32), (0x04, .imad32), (0x05, .imin32),
    (0x06, .imax32), (0x07, .iabs32), (0x08, .and32), (0x09, .or32), (0x0A, .xor32), (0x0B, .andn32), (0x0C, .not32), (0x0D, .shl32), (0x0E, .shr32),
    (0x0F, .sar32), (0x10, .rotl32), (0x11, .popc32), (0x12, .clz32), (0x13, .ctz32), (0x14, .brev32), (0x15, .lea32), (0x16, .mov32),
    (0x18, .faddF32_32), (0x19, .fsubF32_32), (0x1A, .fmulF32_32), (0x1B, .ffmaF32_32), (0x1C, .fminF32_32), (0x1D, .fmaxF32_32),
    (0x1E, .fscaleF32_32), (0x20, .faddF64_32), (0x21, .fsubF64_32), (0x22, .fmulF64_32), (0x23, .ffmaF64_32), (0x24, .fminF64_32),
    (0x25, .fmaxF64_32), (0x28, .faddX2_32), (0x29, .fsubX2_32), (0x2A, .fmulX2_32), (0x2B, .ffmaX2_32), (0x2C, .fminX2_32), (0x2D, .fmaxX2_32),
    (0x3F, .nop32)] = true := by decide +kernel
theorem test_decode_integer : (∀ w ∈ [false, true], minors (if w then 1 else 0) 1 0 0 [(0x00, .iadd w), (0x01, .isub w), (0x02, .imul w),
    (0x03, .imulh w), (0x04, .imad w), (0x05, .idiv w), (0x06, .irem w), (0x07, .imin w), (0x08, .imax w), (0x09, .iabs w), (0x0A, .and w), (0x0B, .or w),
    (0x0C, .xor w), (0x0D, .andn w), (0x0E, .not w), (0x0F, .shl w), (0x10, .shr w), (0x11, .sar w), (0x12, .rotl w), (0x13, .bfx w), (0x14, .bfi w),
    (0x15, .popc w), (0x16, .clz w), (0x17, .ctz w), (0x18, .brev w), (0x19, .lea w), (0x1A, .icmp w), (0x1B, .sel w), (0x1C, .mov w)] = true) ∧
    minors 2 1 0 0 [(0x00, .iaddImm), (0x02, .imulImm), (0x07, .iminImm), (0x08, .imaxImm), (0x0A, .andImm), (0x0B, .orImm), (0x0C, .xorImm),
      (0x0F, .shlImm), (0x10, .shrImm), (0x11, .sarImm), (0x12, .rotlImm), (0x13, .bfxImm), (0x14, .bfiImm), (0x1A, .icmpImm)] = true ∧
    minors 3 1 0 0 [(0, .movi), (1, .moviHi)] = true := by decide +kernel
theorem test_decode_float : (∀ w ∈ [false, true], minors (if w then 5 else 4) 1 0 0 [(0x00, .fadd w), (0x01, .fsub w), (0x02, .fmul w),
    (0x03, .ffma w), (0x04, .fmin w), (0x05, .fmax w), (0x06, .fcmp w), (0x07, .fclass w), (0x08, .frcp w), (0x09, .frsq w), (0x0A, .fsqrt w), (0x0B, .fdiv w),
    (0x0C, .fexp2 w), (0x0D, .flog2 w), (0x0E, .fsin w), (0x0F, .fcos w), (0x10, .frnd w), (0x11, .fscale w), (0x12, .fgetexp w)] = true) ∧
    minors 6 1 0 0 [(0, .faddX2), (1, .fsubX2), (2, .fmulX2), (3, .ffmaX2), (4, .fminX2), (5, .fmaxX2), (6, .fcmpX2)] = true := by decide +kernel
theorem test_decode_lanes : minors 7 1 0 0 [(0, .cvt), (1, .pack), (4, .quant), (5, .plpack), (6, .plunpack)] = true ∧ minors 7 1 0 2 [(2, .unpack)] = true ∧
    minors 7 1 0xC 0 [(3, .amax)] = true ∧
    minors 8 1 4 0 [(0, .shfl), (1, .vote), (2, .redux), (3, .scan), (4, .matchLanes)] = true ∧
    minors 9 1 0 0 [(0, .pand), (1, .por), (2, .pxor), (3, .pnot), (4, .pmov)] = true := by decide +kernel
theorem test_decode_scalar : minors 0xA 1 0 0 [(0, .sadd), (1, .ssub), (2, .smul), (3, .sand), (4, .sor), (5, .sxor), (6, .sshl), (7, .sshr), (8, .scmp),
      (9, .ssel), (0xA, .smov), (0xB, .bcast), (0xC, .rdlane)] = true ∧
    minors 0xB 1 0 0 [(0, .saddImm), (1, .ssubImm), (2, .smulImm), (3, .sandImm), (4, .sorImm), (5, .sxorImm), (6, .sshlImm), (7, .sshrImm), (8, .scmpImm)] = true ∧
    minors 0xC 1 0 0 [(0, .smovi), (1, .smoviMid), (2, .smoviTop)] = true ∧ minors 0xD 1 0 0 [(0, .wset), (1, .wstat), (2, .wrew)] = true := by
  decide +kernel
theorem test_decode_memory : minors 0x10 1 4 0 [(0x00, .ldg), (0x01, .stg), (0x03, .atomg), (0x04, .redg), (0x08, .ldl), (0x09, .stl),
      (0x0A, .atoml), (0x10, .sld), (0x11, .sst)] = true ∧ minors 0x10 15 0 0 [(0x02, .pref), (0x18, .fence)] = true ∧
    minors 0x11 1 0 0 [(0, .locid), (1, .scopeof), (2, .scopecost)] = true ∧
    minors 0x12 1 0 0 [(0, .vmap), (1, .vunmap), (2, .sjoin), (3, .sleave), (4, .feset), (5, .feclr)] = true := by decide +kernel
theorem test_decode_engines : minors 0x13 1 0 0 [(0, .put), (1, .get), (2, .wcnt), (3, .nmo)] = true ∧
    minors 0x14 1 0 0 [(0, .tcopy), (1, .tgather), (2, .tscatter), (3, .tcoll), (4, .tcancel), (5, .tsched), (6, .tstat)] = true ∧
    minors 0x15 1 0 0 [(0, .mxalloc), (1, .mxfree), (2, .mxwload), (3, .mxrun), (4, .mxdrain), (5, .mxfill), (6, .mxzero), (7, .mxfence), (8, .mxstat),
      (9, .mxcancel)] = true := by decide +kernel
theorem test_decode_control : minors 0x18 15 0 0 [(0, .bra), (1, .brc), (2, .brx), (3, .brw), (4, .call), (5, .callx), (6, .ret), (7, .exit)] = true ∧
    minors 0x19 15 0 1 [(0, .bar), (1, .bara)] = true ∧
    minors 0x19 15 0 0 [(2, .elect), (3, .sleep), (4, .spawn), (6, .reggrow), (7, .regshrink)] = true ∧
    minors 0x19 1 0 0 [(5, .fetchw)] = true := by decide +kernel
theorem test_decode_system : minors 0x1A 15 0 0 [(0, .trap), (1, .brk), (2, .xret), (3, .mfx), (4, .mtx)] = true ∧ minors 0x1A 1 0 0 [(5, .tlbinv), (6, .icinv)] = true ∧
    minors 0x1B 15 0 0 [(0, .forkw), (2, .world), (3, .abandon)] = true ∧ minors 0x1B 1 0 0 [(1, .choose)] = true ∧
    minors 0x1C 1 0 0 [(0, .snap), (1, .snapst)] = true ∧
    (∀ k < 64, decodeWord (w64 0x3F k 15 0 0) = .nop64 (BitVec.ofNat 6 k) (f64 15 0 0)) := by decide +kernel
theorem test_decode_mtx : (∀ p ∈ [(0x000, Instr.mtx), (0x004, .mtxVbudget), (0x100, .mtxXpc), (0x101, .mtx), (0x205, .mtxVpbase), (0x207, .mtxVpsize),
    (0x284, .mtxXpc)], decodeWord (BitVec.ofNat 64 (3 + 0x1A * 2 ^ 6 + 4 * 2 ^ 12 + 0xE4 * 2 ^ 19 + 0x84 * 2 ^ 27 + p.1 * 2 ^ 35 + 15 * 2 ^ 51)) =
      p.2 ⟨0, false, false, 0xE4, 0x84, BitVec.ofNat 8 p.1, BitVec.ofNat 8 (p.1 / 256), 15, 0, false, 0⟩) := by decide +kernel

/-! ## Ill-formed terms, each refused by one check: MOD, CNT, NOWB, a control field, a defined word given as undefined, the wrong MTX -/

theorem test_wf_refuses :
    (Instr.iadd32 ⟨0, false, false, 8, 4, 6, true⟩).wf = true ∧ (Instr.imul32 ⟨0, false, false, 8, 4, 6, true⟩).wf = false ∧
    (Instr.iadd false { fld with mod := 2 }).wf = false ∧ (Instr.iadd false { fld with cnt := 13 }).wf = false ∧
    (Instr.idiv false { fld with cnt := 15 }).wf = false ∧ (Instr.bra fld).wf = false ∧ (Instr.sadd { fld with nowb := true }).wf = false ∧
    (Instr.ldg { fld with s3 := 0x0F }).wf = false ∧ (Instr.redg { fld with s3 := 8 }).wf = false ∧
    (Instr.trap { fld with cnt := 15, s3 := 1 }).wf = false ∧ (Instr.illegalInstr 0x4930).wf = false ∧ (Instr.illegalInstr 0x000E).wf = true ∧
    (Instr.mtx { fld with s2 := 4, s3 := 0, cnt := 15 }).wf = false ∧ (Instr.mtxVbudget { fld with s2 := 4, s3 := 0, cnt := 15 }).wf = true := by decide +kernel

/-! ## Effects of one instruction, with results worked out from the rules -/

/-- A vector register with one value in every lane. -/
def withV (s : State) (xs : List (Nat × Nat)) : State :=
  { s with cur := xs.foldl (fun g x => g.setRow x.1 allOnes (Lanes.const (BitVec.ofNat 32 x.2))) s.cur }
/-- Lane `k` of what an instruction will write, and its flags. -/
def result (i : Instr) (s : State) (k : Nat) : Option (DWord × BitVec 5) :=
  match exec i s with
  | .next t => match t.cur.flights with
    | [f] => match f.writes with
      | [.vec _ _ _ v] => some (v.get k, f.flags)
      | [.sca _ v] => some (v, f.flags)
      | [.prd _ _ v] => some (v, f.flags)
      | _ => none
    | _ => none
  | _ => none
/-- The group after an instruction. -/
def after (i : Instr) (s : State) : Option Group := match exec i s with | .next t => some t.cur | _ => none

/-- R78: the sum wraps; saturation stops at the signed maximum. -/
theorem test_iadd_wraps : result (.iadd false fld) (withV ready [(4, 0xFFFFFFFF), (6, 2)]) 63 = some (1, 0) ∧
    result (.iadd false { fld with mod := 1 }) (withV ready [(4, 0x7FFFFFFF), (6, 2)]) 0 = some (0x7FFFFFFF, 0) := by decide +kernel
/-- R78: division by zero gives all ones, and the remainder the dividend. -/
theorem test_idiv_by_zero : result (.idiv false fld) (withV ready [(4, 7), (6, 0)]) 5 = some (0xFFFFFFFF, 0) ∧
    result (.irem false fld) (withV ready [(4, 7), (6, 0)]) 5 = some (7, 0) := by decide +kernel
/-- R78: a shift by 32 or more gives 0 or the sign. -/
theorem test_shift_past_width : result (.shl false fld) (withV ready [(4, 1), (6, 32)]) 0 = some (0, 0) ∧
    result (.sar false fld) (withV ready [(4, 0x80000000), (6, 40)]) 0 = some (0xFFFFFFFF, 0) := by decide +kernel
/-- R54: a lane that is not enabled keeps its value, and nothing is in flight where no lane is. -/
theorem test_guard_off : (after (.iadd false { fld with pred := 1 }) ready).map (fun g => (g.flights, g.counter 1)) = some ([], 0) := by decide +kernel
/-- R82: 1 + 2 = 3 exactly. R87: 1 / 3 in FP32 is 0x3EAAAAAB, inexact. -/
theorem test_float : result (.fadd false fld) (withV ready [(4, 0x3F800000), (6, 0x40000000)]) 0 = some (0x40400000, 0) ∧
    result (.fdiv false fld) (withV ready [(4, 0x3F800000), (6, 0x40400000)]) 9 = some (0x3EAAAAAB, 0x10) := by decide +kernel
/-- R81, R87: infinity minus infinity is the canonical NaN and invalid. -/
theorem test_float_invalid : (result (.fsub false fld) (withV ready [(4, 0x7F800000), (6, 0x7F800000)]) 0).map (·.1) = some 0x7FC00000 := by decide +kernel
/-- R229: FP32 1.5 to I32 rounds to even, 2; the same for 2.5. -/
theorem test_cvt : (result (.cvt { fld with s3 := 0xC4 }) (withV ready [(4, 0x3FC00000)]) 0).map (·.1) = some 2 := by decide +kernel
/-- R241: 64-bit wrap, and 0 for a shift by 64. -/
theorem test_scalar : result (.sadd sfld) (withS ready [(4, 2 ^ 64 - 1), (6, 3)]) 0 = some (2, 0) ∧
    result (.sshl sfld) (withS ready [(4, 1), (6, 64)]) 0 = some (0, 0) := by decide +kernel
/-- R240: predicates. -/
theorem test_pnot : (result (.pnot pfld) ready 0).map (·.1) = some allOnes := by decide +kernel
/-- R352: a branch by 9 halfwords moves every lane by 18 bytes from its own address. -/
theorem test_bra : ((after (.bra { fld with cnt := 15, s1 := 9, s2 := 0, s3 := 0 }) ready).map fun g => (g.pc.get 0, g.pc.get 63)) = some (0x1012, 0x1012) := by
  decide +kernel
/-- R353: a call links to the next instruction and deepens the run by one. -/
theorem test_call : ((after (.call { fld with cnt := 15, s1 := 8, s2 := 0, s3 := 0 }) ready).map fun g => ((g.vrow 8).get 0, (g.vrow 9).get 0, g.depth.get 0, g.pc.get 0)) =
    some (0x1008, 0, 1, 0x1010) := by decide +kernel
/-- R388, R384: TRAP 0x21 with a handler at 0x2000. -/
def handled : State := { ready with ctxs := ready.ctxs.map fun c => { c with xvec := 0x2000 } }
theorem test_trap : ((after (.trap16 0x21) handled).map fun g => (g.priv, g.x.xpc, g.x.xscr, g.x.xinfo, g.handler.pc.get 0, g.pc.get 0)) =
    some (true, 0x1000, 0x1002, 0x21, 0x2000, 0x1000) := by decide +kernel
/-- R39: the same read of a privileged register traps with PRIV, code 3. -/
theorem test_priv : ((after (.mfx (sysF 0x100)) handled).map fun g => (g.priv, g.x.xcause)) = some (true, 3) := by decide +kernel
/-- R43: WAIT on a counter that is not zero holds the group. -/
theorem test_wait : ((after (.wait 1) { ready with cur := { ready.cur with cnts := ready.cur.cnts.set 0 1 } }).map fun g => (g.hold, g.pc.get 0)) = some (.wait 1, 0x1000) := by
  decide +kernel
/-- R4, R188: STL.U32 of 0x01020304 at local 0x100 puts 04 at the lowest address. -/
theorem test_stl : (match exec (.stl { ldF with s3 := 5 }) (withV memS [(8, 0x01020304)]) with
    | .next t => match t.cur.flights with
      | [f] => match exec .vaultBankAccess (onCue t (cueOf 2 0 f.key [0] false)) with
        | .next u => (u.vaultRead 2 0x100 4, u.cur.counter 1)
        | _ => ([], 0)
      | _ => ([], 0)
    | _ => ([], 0)) = ([4, 3, 2, 1], 1) := by decide +kernel

/-! ## The statements on words, steps, invariants, traps, registers and memory -/

theorem test_meets_EncodingAgrees : (Instr.ldg ldF).wf = true ∧ (Instr.ldg ldF).isWord = true ∧ (Instr.wait 5).wf = true ∧ (Instr.wait 5).isWord = true := by
  decide +kernel

/-- `iadd.i32 v4, v9` in 16 bits, placed where the step fetches. -/
def placed : State := State.reset.withFetchWord 16 0x4904
/-- The clause on the agenda, on the default order, and on an event. -/
theorem test_meets_StepRuns :
    placed.agenda = [.issue 2 0] ∧
    (∀ s ∈ [{ placed with agenda := [] }, { placed with agenda := [], turn := 1 }], (s.group? 2 0).isSome = true ∧ s.issues s.cur 0x4904 = true ∧
      s.nextWord s.cur = some 0x4904) ∧
    ({ placed with agenda := [] } : State).defaultTurn = .issue 2 0 ∧ (Instr.heartbeatTick).isWord = false := by decide +kernel
theorem test_meets_StepRuns_word : (match decode (leBytes 8 0x4904) with | .ok p => p == (.iadd16 4 9, zeros 6) | _ => false) = true := by decide +kernel

/-- A step of the default order answers a next state. -/
def steps (s : State) : Option State := match step s with | .next t => some t | _ => none
/-- A snapshot being taken, with a row of the ready group still unpreserved, and a tick next. -/
def taking : State :=
  { ready with
    colours := [colour .recording true [] []]
    cur := { ready.cur with unpres := #v[1#149 <<< 130, 0] }
    agenda := [.event .heartbeatTick Cue.none] }
theorem test_meets_SnapshotsStaySound : taking.snapshotsSound ∧ (steps taking).isSome = true :=
  ⟨Or.inr ⟨by decide +kernel, by
    intro c hc r hr
    have h : c = colour .recording true [] [] := by simpa [taking] using hc
    subst h
    simp [colour] at hr⟩, by decide +kernel⟩
theorem test_meets_UnpreservedRowsUnwritten :
    ((steps taking).map fun t => (t.colours.any (·.st != .free), t.cur.unpres.toList.any fun u => u.getLsbD (128 + 2))) = some (true, true) ∧
    3 < ready.cur.alloc ∧ (3 : Nat) < 128 := by decide +kernel

theorem test_meets_TrapEntry :
    (∀ s ∈ [ready, handled, privileged], s.cur.front = false ∧ (s.block? s.cur.block).isSome = true) ∧
    (ready.cur.priv = false ∧ (ready.ctxOf ready.cur).map (·.xvec) = some 0) ∧ (handled.cur.priv = false ∧ (handled.ctxOf handled.cur).map (·.xvec) = some 0x2000) ∧
    privileged.cur.priv = true := by decide +kernel
theorem test_meets_TrapReturn : privileged.cur.handler.act &&& ~~~1 ≠ 0 ∧ privileged.cur.handler.act &&& ~~~allOnes = 0 := by decide +kernel

/-- A deferred fault that is due at a read of v8. -/
def owing : State := { ready with cur := { ready.cur with deferred := [⟨.precise Cause.prot 0 0, 15, [.vec 8], 0, 7, false, false⟩] } }
def hAdd : Hdr := hdr64 0 0 fld
theorem test_meets_FaultOrder :
    owing.cur.hold = .free ∧ ready.cur.nextRun = some run ∧ owing.cur.nextRun = some run ∧
    ((owing.issuing hAdd run).g.dueDeferred { uses := [(8, false)] }).isSome = true ∧ (ready.issuing hAdd run).g.dueDeferred {} = none ∧
    (ready.issuing hAdd run).g.front = false ∧ (ready.issuing hAdd run).g.priv = false ∧ (privileged.issuing hAdd run).g.priv = true ∧
    (ready.issuing hAdd run).badLatch [(0xE1, false)] = some 1 ∧ (ready.issuing hAdd run).operandsGood hAdd {} = true ∧
    (ready.issuing hAdd run).en ≠ 0 ∧ poisoned (ready.issuing hAdd run).g [] = none := by decide +kernel

/-- The guard p1 is zero in every lane. -/
theorem test_meets_NoEnabledLane :
    let h : Hdr := hdr64 0 0 { fld with pred := 1 }
    ready.tries h {} run = true ∧ (ready.issuing h run).lawful h {} = true ∧ (ready.issuing h run).operandsGood h {} = true ∧ (ready.issuing h run).en = 0 ∧
      lane (0xFFFF : DWord) 16 = false := by decide +kernel

theorem test_meets_ResultsLand : (flying (some 5) .result).cur.flights.map (fun f => (f.late, f.due)) = [([], some 5)] ∧ hAdd.lat ≠ .v ∧
    (127 : Nat) < ready.cur.alloc ∧ (126 : Nat) + 1 < 128 ∧ lane allOnes 63 = true := by decide +kernel

/-- Zero, the signed minimum by -1, and a shift by the width, in both widths. -/
theorem test_meets_IntegerEdges :
    ((0 : DWord).setWidth 32).toInt = 0 ∧ ((0x80000000 : DWord).setWidth 32).toInt = -2 ^ 31 ∧ ((0xFFFFFFFF : DWord).setWidth 32).toInt = -1 ∧
    (0x8000000000000000 : DWord).toInt = -2 ^ 63 ∧ (allOnes : DWord).toInt = -1 ∧ 32 ≤ (32 : DWord).toNat % 2 ^ 32 ∧
    good ready [lanes 0 false 2 0, lanes 0 false 2 1, lanes 0 false 2 2, lanes 0 false 2 5, lanes 0 false 2 6] = true := by decide +kernel

theorem test_meets_MemoryBytes : Memory.wf [⟨0, 1⟩, ⟨5, 2⟩] = true ∧ (4 : Nat) < 5 ∧ 5 + 2 ≤ 7 := by decide +kernel
theorem test_meets_RegisterFrame : (Instr.iadd false fld).onRegisters = true ∧ (after (.iadd false fld) ready).isSome = true := by decide +kernel
theorem test_meets_AccessFrame : (∀ i ∈ [Instr.ldg ldF, .stg ldF, .ldl ldF, .stl ldF, .sld sldF, .sst sldF, .atomg atF, .redg atF, .atoml atF, .plpack ldF,
    .plunpack ldF], (after i memS).isSome = true) := by decide +kernel
theorem test_meets_StoresWriteTheirBytes :
    (ready.block? 2).map (fun b => b.vault.bytes.wf) = some true ∧ ready.mem.wf = true ∧ ready.segAt 0x7C = none ∧
    0x7C % 128 + [(1 : Byte), 2, 3, 4].length ≤ 128 ∧ ready.tierOf 0x7C ≠ .flash := by decide +kernel

/-- The sixteen lines of a set of core 0's L1, the first one dirty at 0x105. -/
def fullSet : List CByte := ⟨0, 1, 0, 0x105, 7, true⟩ :: (List.range 15).map fun k => ⟨0, 1, 0, 0x8000 * (k + 1) + 0x106, 8, false⟩
/-- R172, R174: a dirty line that leaves a full set is written to its home; from a set with room no line leaves. -/
theorem test_evict :
    (steps { State.reset with l1 := fullSet, agenda := [.evict (.l1 0) 0 1 0x100] }).map
      (fun t => (t.l1.length, t.mem.get 0x105, t.mem.get 0x8106)) = some (15, 7, 0) ∧
    (steps { State.reset with l1 := fullSet.take 15, agenda := [.evict (.l1 0) 0 1 0x100] }).map (·.l1.length) = some 15 := by decide +kernel

end Sys2Proof.Tests
end

section
/-! The two statements on state and encoding: branches (R45, R352 to R354) and instructions without an enabled lane (R54). -/

namespace Sys2Proof.Machine

/-! ## Completion of an instruction whose meaning is one issue -/

/-- Where an instruction is the shared issue of a header and a plan, that plan says what it completes with. -/
theorem completes_of_exec_eq_issue {i : Instr} {h : Hdr} {p : Plan} (e : ∀ s, exec i s = issue h p s) : Completes i h p :=
  fun s r hc => (e s).trans (issue_completes h p s r hc)

/-! ## The checks before the effect -/

theorem tries_iff (s : State) (h : Hdr) (p : Plan) (r : Run) :
    s.tries h p r = true ↔
      s.cur.hold = .free ∧ s.cur.nextRun = some r ∧ (s.issuing h r).g.dueDeferred p = none := by
  simp [State.tries, and_assoc]

/-- Steps 1 and 2 of R65, in the form in which the issue tests them. -/
theorem lawful_iff (c : Cx) (h : Hdr) (p : Plan) :
    c.lawful h p = true ↔
      (p.bad || (c.g.front && !h.front)) = false ∧ (p.secret && !c.g.priv) = false := by
  simp only [Cx.lawful, Bool.and_eq_true, Bool.or_eq_true, Bool.not_eq_true', Bool.or_eq_false_iff, Bool.and_eq_false_iff,
    Bool.not_eq_false']

theorem operandsGood_iff (c : Cx) (h : Hdr) (p : Plan) :
    c.operandsGood h p = true ↔
      p.ops c = true ∧ c.badLatch p.uses = none ∧ poisoned c.g [RegRef.prd h.pred] = none := by
  simp [Cx.operandsGood, and_assoc]

/-- R54, R332: the state after an instruction that no lane enables. The run's PCs, the hold run and the time of the issue go on; no
counter is claimed. -/
def Cx.passed (c : Cx) (h : Hdr) : State :=
  { c.s with cur := { (c.g.advance c.run h.len) with
      last := some c.t, lastPc := c.run.pc, lastRun := c.run.mask, run := c.g.run.after h } }

/-- R54: past the encoding checks, an instruction with no enabled lane has only its accounts left. -/
theorem issue_without_lane (h : Hdr) (p : Plan) (s : State) (r : Run) (ht : s.tries h p r = true)
    (hl : (s.issuing h r).lawful h p = true) (ho : (s.issuing h r).operandsGood h p = true) (he : (s.issuing h r).en = 0) :
    issue h p s = .next (((s.issuing h r).passed h).account (s.issuing h r).t) := by
  obtain ⟨hfree, hrun, hdue⟩ := (tries_iff ..).mp ht
  obtain ⟨hword, hpriv⟩ := (lawful_iff ..).mp hl
  obtain ⟨hops, hlatch, hguard⟩ := (operandsGood_iff ..).mp ho
  have hgo : (s.cur.hold != Hold.free) = false := by simp [hfree]
  simp only [State.issuing, Cx.g] at hdue hword hpriv hops hlatch hguard
  simp only [issue, hgo, hrun, hdue, hword, hpriv, hops, hlatch, hguard, Cx.g, Bool.not_true, Bool.false_eq_true, if_false]
  exact if_pos he

/-! ## Lanes that a write does not enable -/

theorem writeReg_vrow (g : Group) (w : RegWrite) (q : Nat) : (g.writeReg w).vrow q = (g.putReg w).vrow q := rfl

theorem writeReg_preg (g : Group) (w : RegWrite) (q : Nat) : (g.writeReg w).preg q = (g.putReg w).preg q := rfl

theorem setRow_disabled_lane (g : Group) (r q k : Nat) (m : DWord) (v : Lanes Word) (hk : k < 64) (hm : lane m k = false) :
    ((g.setRow r m v).vrow q).get k = (g.vrow q).get k := by
  rw [setRow_vrow]
  split
  next h =>
    obtain ⟨rfl, -, -⟩ := h
    simp [mergeLanes_get _ _ _ _ hk, hm]
  next => rfl

/-- R54 for a vector destination: a pair is two rows, and each keeps its lanes. -/
theorem writeReg_vec_disabled_lane (g : Group) (r q k : Nat) (pair : Bool) (m : DWord) (v : Lanes DWord) (hk : k < 64)
    (hm : lane m k = false) : ((g.writeReg (.vec r pair m v)).vrow q).get k = (g.vrow q).get k := by
  rw [writeReg_vrow]
  cases pair with
  | false => exact setRow_disabled_lane _ _ _ _ _ _ hk hm
  | true => exact (setRow_disabled_lane _ _ _ _ _ _ hk hm).trans (setRow_disabled_lane _ _ _ _ _ _ hk hm)

/-- R53: a write to p0 is ignored, and so is one to a predicate that there is not. -/
theorem setPred_preg_ignored (g : Group) (r q : Nat) (m v : DWord) (hr : r = 0 ∨ 16 ≤ r) :
    (g.setPred r m v).preg q = g.preg q := by
  obtain rfl | h16 := hr
  · rfl
  · have h0 : r ≠ 0 := by omega
    have hout : ¬ r < 16 := by omega
    simp only [Group.setPred, h0, if_false, Group.preg, vget_set, hout, and_false]

/-- R54 for a predicate destination. -/
theorem writeReg_prd_disabled_lane (g : Group) (r q k : Nat) (m v : DWord) (hk : k < 64) (hm : lane m k = false) :
    lane ((g.writeReg (.prd r m v)).preg q) k = lane (g.preg q) k := by
  rw [writeReg_preg]
  simp only [Group.putReg]
  by_cases hr : 0 < r ∧ r < 16
  · rw [setPred_preg g r q m v hr.1 hr.2]
    split
    next h =>
      subst h
      simp only [lane] at hm ⊢
      simp only [BitVec.getLsbD_or, BitVec.getLsbD_and, BitVec.getLsbD_not, hm, hk, decide_true, Bool.not_false, Bool.and_false,
        Bool.and_true, Bool.false_or]
    next => rfl
  · rw [setPred_preg_ignored g r q m v (by omega)]

end Sys2Proof.Machine

namespace Sys2Proof.Proofs
open Sys2Proof.Machine

/-- Settles O22: each branch is one shared issue, and its plan in the model is the one that the statement writes out: `near` is the
model's `target`, and `far` the lane's source cut to an address. -/
theorem branches : Obligations.Branches := by
  intro f o
  refine ⟨?brs, ?bra, ?brc, ?brx, ?brw, ?call, ?callx, ?ret⟩
  case brs => exact completes_of_exec_eq_issue fun s => show execBrs o s = _ from rfl
  case bra => exact completes_of_exec_eq_issue fun s => show execBra f s = _ from rfl
  case brc => exact completes_of_exec_eq_issue fun s => show execBrc f s = _ from rfl
  case brx => exact completes_of_exec_eq_issue fun s => show execBrx f s = _ from rfl
  case brw => exact completes_of_exec_eq_issue fun s => show execBrw f s = _ from rfl
  case call => exact completes_of_exec_eq_issue fun s => show execCall f s = _ from rfl
  case callx => exact completes_of_exec_eq_issue fun s => show execCallx f s = _ from rfl
  case ret => exact completes_of_exec_eq_issue fun s => show execRet f s = _ from rfl

/-- Settles O54: the issue stops at its test for an enabled lane, and every register write merges by its mask. -/
theorem noEnabledLane : Obligations.NoEnabledLane :=
  ⟨issue_without_lane,
   fun g r k pair m v _ hk hm q => writeReg_vec_disabled_lane g r q k pair m v hk hm,
   fun g r k m v hk hm q => writeReg_prd_disabled_lane g r q k m v hk hm⟩

end Sys2Proof.Proofs
end

section
/-! The statement on execution and control: what a cold reset leaves (R474), and what a group starts with (R34, R330). -/

namespace Sys2Proof.Machine

/-! ## Elements of vectors -/

/-- A vector of one value reads as it everywhere when that value is also what stands past its end. -/
@[simp] theorem vget_replicate {α : Type} (n i : Nat) (a : α) : vget (Vector.replicate n a) i a = a := by
  simp only [vget, Vector.getElem?_replicate]
  split <;> rfl

/-- As `vget_set`, for an index known to be in bounds. -/
theorem vget_set_inBounds {α : Type} {n : Nat} (v : Vector α n) (i j : Nat) (x d : α) (hi : i < n) :
    vget (v.set i x hi) j d = if i = j then x else vget v j d := by
  simp only [vget, Vector.getElem?_set]
  split <;> rfl

/-! ## Registers at group start (R34) -/

section
variable (block gidx alloc age : Nat) (loc : Word) (entry : BitVec 57) (a b : DWord)

@[simp] theorem start_vrow (r : Nat) : (Group.start block gidx loc alloc entry a b age).vrow r = Lanes.const 0 :=
  vget_replicate 128 r _

/-- The launch values stand in s0 and s1. -/
theorem start_sreg (r : Nat) :
    (Group.start block gidx loc alloc entry a b age).sreg r = if r = 1 then b else if r = 0 then a else 0 := by
  simp only [Group.sreg, Group.start, vget_set_inBounds, vget_replicate, eq_comm]

theorem start_preg (r : Nat) : (Group.start block gidx loc alloc entry a b age).preg r = if r = 0 then allOnes else 0 := by
  simp only [Group.preg, Group.start, vget_set_inBounds, vget_replicate]
  by_cases hr : r = 0
  · simp [hr]
  · simp [hr, Ne.symm hr]

@[simp] theorem start_walker (r : Nat) : (Group.start block gidx loc alloc entry a b age).walker r = Walker.unbound :=
  vget_replicate 8 r _

@[simp] theorem start_counter (r : Nat) : (Group.start block gidx loc alloc entry a b age).counter r = 0 :=
  vget_replicate 12 r _

/-! ## The PC table at group start (R330) -/

@[simp] theorem start_pc_get (k : Nat) : (Group.start block gidx loc alloc entry a b age).pc.get k = entry :=
  Lanes.get_const entry k

@[simp] theorem start_depth_get (k : Nat) : (Group.start block gidx loc alloc entry a b age).depth.get k = 0 :=
  Lanes.get_const 0 k

end

/-! ## The package after a cold reset (R474) -/

/-- Only the idle place is there, and it holds no group. -/
theorem reset_groups : State.reset.groups = [] := rfl

end Sys2Proof.Machine

namespace Sys2Proof.Proofs
open Sys2Proof.Machine

/-- Settles O50: the reset state has its lists empty and its place idle, and each register file of a starting group is one value
throughout but for s0, s1 and p0. -/
theorem resetAndGroupStart : Obligations.ResetAndGroupStart := by
  refine ⟨rfl, rfl, rfl, rfl, rfl, reset_groups, rfl, rfl, rfl, rfl, rfl, rfl, rfl, ?start⟩
  case start =>
    intro block gidx alloc age loc entry a b g
    have hzero (r : Nat) (hr : 2 ≤ r) : g.sreg r = 0 := by
      have h1 : r ≠ 1 := by omega
      have h0 : r ≠ 0 := by omega
      simp [g, start_sreg, h1, h0]
    have hclear (r : Nat) (hr : 1 ≤ r) : g.preg r = 0 := by
      have h0 : r ≠ 0 := by omega
      simp [g, start_preg, h0]
    exact ⟨fun r _ k _ => by simp [g, Lanes.get_const], by simp [g, start_sreg], by simp [g, start_sreg],
      fun r hr _ => hzero r hr, by simp [g, start_preg], fun r hr _ => hclear r hr, fun r _ => start_walker .., rfl,
      fun r _ => start_counter .., rfl, fun k _ => ⟨start_pc_get .., start_depth_get ..⟩, rfl, rfl, rfl, rfl⟩

end Sys2Proof.Proofs
end

section
/-! The statement on traps and preemption: TRAP and BRK (R388), words without a definition (R46) and privileged instructions (R39, R387)
take their traps, in the order of R65. -/

namespace Sys2Proof.Machine

/-! ## The traps of the shared issue -/

/-- R65 step 1: a word that no instruction defines traps before any other check. -/
theorem issue_undefined_traps (h : Hdr) (p : Plan) (s : State) (r : Run) (ht : s.tries h p r = true) (hb : p.bad = true) :
    issue h p s = .next ((s.issuing h r).s.takeTrap (.precise Cause.illegalInstr 0 h.word) r (s.issueCycle h.dist)) := by
  obtain ⟨hfree, hrun, hdue⟩ := (tries_iff ..).mp ht
  have hgo : (s.cur.hold != Hold.free) = false := by simp [hfree]
  simp only [State.issuing, Cx.g] at hdue ⊢
  simp only [issue, hgo, hrun, hdue, hb, Bool.true_or, Bool.false_eq_true, if_false, if_true]

/-- R65 step 2: a defined instruction that is privileged, or names a privileged register, traps in a group that is not. -/
theorem issue_unprivileged_traps (h : Hdr) (p : Plan) (s : State) (r : Run) (ht : s.tries h p r = true) (hb : p.bad = false)
    (hs : p.secret = true) (hg : (s.issuing h r).g.priv = false) (hf : (s.issuing h r).g.front = false ∨ h.front = true) :
    issue h p s = .next ((s.issuing h r).s.takeTrap (.precise Cause.priv 0 h.word) r (s.issueCycle h.dist)) := by
  obtain ⟨hfree, hrun, hdue⟩ := (tries_iff ..).mp ht
  have hgo : (s.cur.hold != Hold.free) = false := by simp [hfree]
  have hprofile : ((s.issuing h r).g.front && !h.front) = false := by obtain e | e := hf <;> simp [e]
  simp only [State.issuing, Cx.g] at hdue hg hprofile ⊢
  simp only [issue, hgo, hrun, hdue, hb, hprofile, hs, hg, Bool.or_false, Bool.not_false, Bool.and_true, Bool.false_eq_true,
    if_false, if_true]

/-- R65 step 5: past the checks of steps 1 to 4, an instruction whose sources can be read and are not poisoned takes its own fault where a
lane is enabled. -/
theorem issue_own_traps (h : Hdr) (p : Plan) (s : State) (r : Run) (tr : Trap) (ht : s.tries h p r = true)
    (hl : (s.issuing h r).lawful h p = true) (ho : (s.issuing h r).operandsGood h p = true) (he : (s.issuing h r).en ≠ 0)
    (hp : poisoned (s.issuing h r).g (p.uses.flatMap Use.refs ++ p.also) = none) (hr : p.reading (s.issuing h r) = false)
    (hw : p.own (s.issuing h r) = some tr) :
    issue h p s = .next ((p.mark (s.issuing h r) (s.issuing h r).s).takeTrap tr r (s.issueCycle h.dist)) := by
  obtain ⟨hfree, hrun, hdue⟩ := (tries_iff ..).mp ht
  obtain ⟨hword, hpriv⟩ := (lawful_iff ..).mp hl
  obtain ⟨hops, hlatch, hguard⟩ := (operandsGood_iff ..).mp ho
  have hgo : (s.cur.hold != Hold.free) = false := by simp [hfree]
  simp only [State.issuing, Cx.g] at hdue hword hpriv hops hlatch hguard he hp hr hw ⊢
  simp only [issue, hgo, hrun, hdue, hword, hpriv, hops, hlatch, hguard, he, hp, hr, hw, Cx.g, Bool.not_true, Bool.false_eq_true, if_false]

theorem poisoned_nil (g : Group) : poisoned g [] = none := by simp [poisoned]

/-! ## The instructions that trap -/

/-- R388: what TRAP and BRK issue has no source and no fault but its own. -/
theorem raiseNow_traps (h : Hdr) (cause : Nat) (imm : BitVec 8) (s : State) (r : Run) (ht : s.tries h {} r = true)
    (hl : (s.issuing h r).lawful h {} = true) (ho : (s.issuing h r).operandsGood h {} = true) (he : (s.issuing h r).en ≠ 0) :
    raiseNow h cause imm s = .next ((s.issuing h r).s.takeTrap
      { Trap.precise cause 0 (imm.setWidth 64) with xscr := some (r.pc + BitVec.ofNat 57 h.len) } r (s.issueCycle h.dist)) :=
  issue_own_traps h _ s r _ ht hl ho he (poisoned_nil _) rfl rfl

/-- R39: every MTX of a privileged register traps alike, whatever it would write. -/
theorem moveTo_unprivileged_traps (f : F64) (write : DWord → State → State) (s : State) (r : Run) (hn : privReg (regNum f) = true)
    (ht : s.tries (hdr64 0x1A 0x04 f) { uses := [(f.s1, true)] } r = true)
    (hg : (s.issuing (hdr64 0x1A 0x04 f) r).g.priv = false)
    (hf : (s.issuing (hdr64 0x1A 0x04 f) r).g.front = false ∨ (hdr64 0x1A 0x04 f).front = true) :
    moveTo f write s = .next ((s.issuing (hdr64 0x1A 0x04 f) r).s.takeTrap (.precise Cause.priv 0 (hdr64 0x1A 0x04 f).word) r
      (s.issueCycle (hdr64 0x1A 0x04 f).dist)) :=
  issue_unprivileged_traps _ _ s r ht rfl hn hg hf

/-! ## Halfwords that end in 0b1110 (R46) -/

/-- R41: a word whose first bit is clear is a halfword. -/
theorem lengthOf_of_even {w : DWord} (h : w.getLsbD 0 = false) : lengthOf w = 2 := by simp only [lengthOf, h, Bool.false_eq_true, if_false]

theorem decode16_reserved {w : Half} (h : w.extractLsb' 0 4 = 0xE) : decode16 w = none := by simp [decode16, h]

/-- R46: the four low bits are those of the halfword too, which alone is kept of the word. -/
theorem decodeWord_reserved {w : DWord} (h : w.extractLsb' 0 4 = 0xE) : decodeWord w = .illegalInstr (w &&& 0xFFFF) := by
  have hhalf : (w.extractLsb' 0 16).extractLsb' 0 4 = 0xE := by rw [BitVec.extractLsb'_extractLsb'_of_le (by decide)]; exact h
  have heven : w.getLsbD 0 = false := by simpa using congrArg (·.getLsbD 0) h
  simp [decodeWord, readWord, defined, ownBits, lengthOf_of_even heven, decode16_reserved hhalf, Decoded.toInstr, Rare.toInstr]

end Sys2Proof.Machine

namespace Sys2Proof.Proofs
open Sys2Proof.Machine

/-- Settles O27: each instruction is one shared issue that stops at its own step of R65: an undefined word at step 1, a privileged
instruction or register at step 2, TRAP and BRK at step 5. -/
theorem trapInstructions : Obligations.TrapInstructions := by
  intro f imm w s r next takes bad refused named
  have himm : f.imm16.extractLsb' 0 8 = f.imm16.setWidth 8 := (BitVec.setWidth_eq_extractLsb' (by decide)).symm
  refine ⟨?trap16, ?brk16, ?trap, ?brk, ?undefined, decodeWord_reserved, ?xret, ?tlbinv, fun hn => ⟨?mfx, ?mtx, ?xpc, ?vbudget, ?vpsize, ?vpbase⟩⟩
  case trap16 => exact fun ht hl ho he => show execTrap16 imm s = _ from raiseNow_traps _ _ imm s r ht hl ho he
  case brk16 => exact fun ht hl ho he => show execBrk16 imm s = _ from raiseNow_traps _ _ imm s r ht hl ho he
  case trap => exact fun ht hl ho he => show execTrap f s = _ from himm ▸ raiseNow_traps _ _ _ s r ht hl ho he
  case brk => exact fun ht hl ho he => show execBrk f s = _ from himm ▸ raiseNow_traps _ _ _ s r ht hl ho he
  case undefined => exact fun ht => show execIllegalInstr w s = _ from issue_undefined_traps bad _ s r ht rfl
  case xret => exact fun ht hg hf => show execXret f s = _ from issue_unprivileged_traps _ _ s r ht rfl rfl hg hf
  case tlbinv => exact fun ht hg hf => show execTlbinv f s = _ from issue_unprivileged_traps _ _ s r ht rfl rfl hg hf
  case mfx => exact fun ht hg hf => show execMfx f s = _ from issue_unprivileged_traps _ _ s r ht rfl hn hg hf
  case mtx => exact fun ht hg hf => show execMtx f s = _ from moveTo_unprivileged_traps f _ s r hn ht hg hf
  case xpc => exact fun ht hg hf => show execMtxXpc f s = _ from moveTo_unprivileged_traps f _ s r hn ht hg hf
  case vbudget => exact fun ht hg hf => show execMtxVbudget f s = _ from moveTo_unprivileged_traps f _ s r hn ht hg hf
  case vpsize => exact fun ht hg hf => show execMtxVpsize f s = _ from moveTo_unprivileged_traps f _ s r hn ht hg hf
  case vpbase => exact fun ht hg hf => show execMtxVpbase f s = _ from moveTo_unprivileged_traps f _ s r hn ht hg hf

end Sys2Proof.Proofs
end

section
/-! The round trip of encoding and decoding (R41 to R51, R65 to R69): fields, bytes, the tables of codes, and words as a whole. -/

namespace Sys2Proof

/-! ## The fields of a word -/

/-- A single bit as a field of one bit. -/
theorem ofBool_getLsbD_eq_extract {n : Nat} (w : BitVec n) (k : Nat) : BitVec.ofBool (w.getLsbD k) = w.extractLsb' k 1 := by
  ext i hi
  obtain rfl : i = 0 := by omega
  simp

theorem getLsbD_eq_of_extract {n : Nat} {w : BitVec n} {k : Nat} {b : Bool} (h : w.extractLsb' k 1 = BitVec.ofBool b) :
    w.getLsbD k = b := by
  simpa using congrArg (·.getLsbD 0) h

/-- R48: a 32-bit word holds its major where the decoder reads it. -/
theorem F32.major_toWord (f : F32) (maj : BitVec 6) : (f.toWord maj).extractLsb' 6 6 = maj := by
  unfold F32.toWord
  repeat rw [BitVec.extractLsb'_append_eq_of_le (by decide)]
  exact BitVec.extractLsb'_append_eq_right

/-- R48: a 32-bit word holds each field where the decoder reads it. -/
theorem F32.ofWord_toWord (f : F32) (maj : BitVec 6) : F32.ofWord (f.toWord maj) = f := by
  obtain ⟨dist, hold, nowb, dst, src1, src2, mod⟩ := f
  unfold F32.ofWord
  congr 1
  case' e_hold | e_nowb | e_mod => apply getLsbD_eq_of_extract
  all_goals
    unfold F32.toWord
    repeat rw [BitVec.extractLsb'_append_eq_of_le (by decide)]
  case e_mod => exact BitVec.extractLsb'_eq_self
  all_goals exact BitVec.extractLsb'_append_eq_right

/-- R48: the fields of a 32-bit word are all of it. -/
theorem F32.toWord_ofWord (w : Word) (h : w.extractLsb' 0 2 = 1#2) : (F32.ofWord w).toWord (w.extractLsb' 6 6) = w := by
  simp only [F32.toWord, F32.ofWord, ofBool_getLsbD_eq_extract, ← h]
  repeat rw [BitVec.extractLsb'_append_extractLsb'_eq_extractLsb' (by decide)]
  exact BitVec.extractLsb'_eq_self

theorem F64.major_toWord (f : F64) (maj min : BitVec 6) : (f.toWord maj min).extractLsb' 6 6 = maj := by
  unfold F64.toWord
  repeat rw [BitVec.extractLsb'_append_eq_of_le (by decide)]
  exact BitVec.extractLsb'_append_eq_right

theorem F64.minor_toWord (f : F64) (maj min : BitVec 6) : (f.toWord maj min).extractLsb' 12 6 = min := by
  unfold F64.toWord
  repeat rw [BitVec.extractLsb'_append_eq_of_le (by decide)]
  exact BitVec.extractLsb'_append_eq_right

/-- R50: a 64-bit word holds each field where the decoder reads it. -/
theorem F64.ofWord_toWord (f : F64) (maj min : BitVec 6) : F64.ofWord (f.toWord maj min) = f := by
  obtain ⟨dist, hold, nowb, dst, s1, s2, s3, cnt, pred, pneg, mod⟩ := f
  unfold F64.ofWord
  congr 1
  case' e_hold | e_nowb | e_pneg => apply getLsbD_eq_of_extract
  all_goals
    unfold F64.toWord
    repeat rw [BitVec.extractLsb'_append_eq_of_le (by decide)]
  case e_mod => exact BitVec.extractLsb'_eq_self
  all_goals exact BitVec.extractLsb'_append_eq_right

/-- R50: the fields of a 64-bit word are all of it. -/
theorem F64.toWord_ofWord (w : DWord) (h : w.extractLsb' 0 2 = 3#2) :
    (F64.ofWord w).toWord (w.extractLsb' 6 6) (w.extractLsb' 12 6) = w := by
  simp only [F64.toWord, F64.ofWord, ofBool_getLsbD_eq_extract, ← h]
  repeat rw [BitVec.extractLsb'_append_extractLsb'_eq_extractLsb' (by decide)]
  exact BitVec.extractLsb'_eq_self

/-! ## Bytes -/

/-- R4: bit k of a word lies in byte k / 8. -/
theorem leWord_cons_getLsbD (b : Byte) (bs : List Byte) (k : Nat) (hk : k < 64) :
    (leWord (b :: bs)).getLsbD k = if k < 8 then b.getLsbD k else (leWord bs).getLsbD (k - 8) := by
  simp only [leWord, BitVec.getLsbD_or, BitVec.getLsbD_setWidth, BitVec.getLsbD_shiftLeft, hk, decide_true, Bool.true_and]
  split
  next h => simp [h]
  next h => simp [h, show b.getLsbD k = false from BitVec.getLsbD_of_ge _ _ (by omega)]

/-- The bytes of a word, read again with anything after them, give the word's low bits. -/
theorem leWord_leBytes_append (n : Nat) (w : DWord) (rest : List Byte) (k : Nat) (hk : k < 8 * n) (h64 : k < 64) :
    (leWord (leBytes n w ++ rest)).getLsbD k = w.getLsbD k := by
  induction n generalizing w k with
  | zero => omega
  | succ n ih =>
    rw [leBytes, List.cons_append, leWord_cons_getLsbD _ _ _ h64]
    split
    next h => simp [h]
    next h =>
      rw [ih _ _ (by omega) (by omega), BitVec.getLsbD_ushiftRight]
      congr 1; omega

theorem leBytes_length (n : Nat) (w : DWord) : (leBytes n w).length = n := by
  induction n generalizing w with
  | zero => rfl
  | succ n ih => simp [leBytes, ih]

/-- The low bytes of a word are those of its low bits. -/
theorem leBytes_congr (n : Nat) (v w : DWord) (h : ∀ k < 8 * n, v.getLsbD k = w.getLsbD k) : leBytes n v = leBytes n w := by
  induction n generalizing v w with
  | zero => rfl
  | succ n ih =>
    simp only [leBytes]
    congr 1
    · ext i hi; simpa using h i (by omega)
    · exact ih _ _ fun k hk => by simpa using h (8 + k) (by omega)

theorem leWord_leBytes (w : DWord) : leWord (leBytes 8 w) = w :=
  BitVec.eq_of_getLsbD_eq fun k hk => by simpa using leWord_leBytes_append 8 w [] k hk hk

/-! ## The bits that a word's length takes in -/

/-- R41: a word is 2, 4 or 8 bytes long, as its two lowest bits say. -/
theorem lengthOf_cases (w : DWord) :
    lengthOf w = 2 ∧ w.getLsbD 0 = false ∨ lengthOf w = 4 ∧ w.extractLsb' 0 2 = 1#2 ∨ lengthOf w = 8 ∧ w.extractLsb' 0 2 = 3#2 := by
  have hlow : w.extractLsb' 0 2 = BitVec.ofBool (w.getLsbD 1) ++ BitVec.ofBool (w.getLsbD 0) := by
    simp only [ofBool_getLsbD_eq_extract]
    rw [BitVec.extractLsb'_append_extractLsb'_eq_extractLsb' (by decide)]
  simp only [lengthOf, hlow]
  cases w.getLsbD 0 <;> cases w.getLsbD 1 <;> decide

theorem lengthOf_word32 {w : Word} (h : w.extractLsb' 0 2 = 1#2) : lengthOf (w.setWidth 64) = 4 := by
  have h0 : (w.setWidth 64).getLsbD 0 = true := by simpa using congrArg (·.getLsbD 0) h
  have h1 : (w.setWidth 64).getLsbD 1 = false := by simpa using congrArg (·.getLsbD 1) h
  simp only [lengthOf, h0, h1, if_true, Bool.false_eq_true, if_false]

theorem lengthOf_word64 {w : DWord} (h : w.extractLsb' 0 2 = 3#2) : lengthOf w = 8 := by
  have h0 : w.getLsbD 0 = true := by simpa using congrArg (·.getLsbD 0) h
  have h1 : w.getLsbD 1 = true := by simpa using congrArg (·.getLsbD 1) h
  simp only [lengthOf, h0, h1, if_true]

theorem extract_congr {v w : DWord} {n : Nat} (h : ∀ k < n, v.getLsbD k = w.getLsbD k) : v.extractLsb' 0 n = w.extractLsb' 0 n := by
  apply BitVec.eq_of_getLsbD_eq
  intro i hi
  simpa [hi] using h i hi

theorem and_low (w : DWord) (n : Nat) (hn : n ≤ 64) : w &&& BitVec.ofNat 64 (2 ^ n - 1) = (w.extractLsb' 0 n).setWidth 64 := by
  have hle : 2 ^ n ≤ 2 ^ 64 := Nat.pow_le_pow_right (by decide) hn
  have hpos : 0 < 2 ^ n := Nat.two_pow_pos n
  apply BitVec.eq_of_toNat_eq
  rw [BitVec.toNat_and, BitVec.toNat_ofNat, Nat.mod_eq_of_lt (by omega), Nat.and_two_pow_sub_one_eq_mod, BitVec.toNat_setWidth,
    BitVec.extractLsb'_toNat, Nat.shiftRight_zero, Nat.mod_eq_of_lt (a := _ % _)]
  exact Nat.lt_of_lt_of_le (Nat.mod_lt _ hpos) hle

theorem ownBits_of_half {w : DWord} (h : lengthOf w = 2) : ownBits w = (w.extractLsb' 0 16).setWidth 64 := by
  simp only [ownBits, h]; exact and_low w 16 (by decide)

theorem ownBits_of_word {w : DWord} (h : lengthOf w = 4) : ownBits w = (w.extractLsb' 0 32).setWidth 64 := by
  simp only [ownBits, h]; exact and_low w 32 (by decide)

theorem ownBits_of_dword {w : DWord} (h : lengthOf w = 8) : ownBits w = w := by simp only [ownBits, h]

/-- R41, R50: words that agree in the bits of the one's length are read as the same instruction of the same length. -/
theorem read_congr {v w : DWord} (h : ∀ k < 8 * lengthOf w, v.getLsbD k = w.getLsbD k) :
    lengthOf v = lengthOf w ∧ readWord v = readWord w := by
  have hv : lengthOf v = lengthOf w := by
    have hn : 2 ≤ lengthOf w := by obtain ⟨e, -⟩ | ⟨e, -⟩ | ⟨e, -⟩ := lengthOf_cases w <;> omega
    simp only [lengthOf, h 0 (by omega), h 1 (by omega)]
  refine ⟨hv, ?_⟩
  obtain ⟨e, -⟩ | ⟨e, -⟩ | ⟨e, -⟩ := lengthOf_cases w <;> rw [e] at h hv
  · simp only [readWord, defined, hv, e, ownBits_of_half, extract_congr h]
  · simp only [readWord, defined, hv, e, ownBits_of_word, extract_congr h]
  · rw [BitVec.eq_of_getLsbD_eq h]

/-- A word has the bits of its own length. -/
theorem ownBits_getLsbD (w : DWord) (k : Nat) (hk : k < 8 * lengthOf w) : (ownBits w).getLsbD k = w.getLsbD k := by
  obtain ⟨e, -⟩ | ⟨e, -⟩ | ⟨e, -⟩ := lengthOf_cases w <;> rw [e] at hk
  · rw [ownBits_of_half e]; simp [hk]; omega
  · rw [ownBits_of_word e]; simp [hk]; omega
  · rw [ownBits_of_dword e]

/-! ## What a code names -/

theorem cand16_of_code {i : Instr} {op : BitVec 4} {vd vs : BitVec 5} (h : i.code = .two op vd vs) : cand16 op.toNat vd vs = some i := by
  cases i <;> cases h <;> rfl

theorem cand32_of_code {i : Instr} {maj : BitVec 6} {f : F32} (h : i.code = .word maj f) : cand32 maj.toNat f = some i := by
  cases i <;> cases h <;> rfl

theorem illegalInstr_of_code {i : Instr} {w : DWord} (h : i.code = .raw w) : i = .illegalInstr w := by
  cases i <;> cases h; rfl

/-- R390: the MTX of a register number is the one that the number names. -/
theorem cand64_of_code {i : Instr} {maj min : BitVec 6} {f : F64} (h : i.code = .dword maj min f) (hm : i.mtxOk = true) :
    ∃ d, cand64 maj.toNat min.toNat f = some d ∧ d.toInstr = i := by
  cases i <;> cases h
  case mtx | mtxXpc | mtxVbudget | mtxVpsize | mtxVpbase => exact ⟨_, rfl, congrArg Rare.toInstr (beq_iff_eq.mp hm)⟩
  case nop64 => exact ⟨_, rfl, by simp [Decoded.toInstr, Rare.toInstr]⟩
  all_goals try exact ⟨_, rfl, rfl⟩
  all_goals rename_i wide; cases wide <;> exact ⟨_, rfl, rfl⟩

/-- R43 to R45: the low bits of a halfword tell its family, and the rest is its immediate. -/
theorem decode16_of_code {i : Instr} {w : Half} (h : i.code = .half w) : decode16 w = some i := by
  have low (n : BitVec 12) (k : BitVec 4) : BitVec.extractLsb' (n := 16) 0 4 (n ++ k) = k := BitVec.extractLsb'_append_eq_right
  have high (n : BitVec 12) (k : BitVec 4) : BitVec.extractLsb' (n := 16) 4 12 (n ++ k) = n := BitVec.extractLsb'_append_eq_left
  have low8 (n k : BitVec 8) : BitVec.extractLsb' (n := 16) 0 4 (n ++ k) = k.extractLsb' 0 4 :=
    BitVec.extractLsb'_append_eq_of_add_le (by decide)
  have mid8 (n k : BitVec 8) : BitVec.extractLsb' (n := 16) 4 4 (n ++ k) = k.extractLsb' 4 4 :=
    BitVec.extractLsb'_append_eq_of_add_le (by decide)
  have high8 (n k : BitVec 8) : BitVec.extractLsb' (n := 16) 8 8 (n ++ k) = n := BitVec.extractLsb'_append_eq_left
  cases i <;> cases h
  case wait => simp only [decode16, low, high]; rfl
  case brs => simp only [decode16, low, high]; rfl
  case yield => rfl
  case exit16 => rfl
  all_goals simp only [decode16, low8, mid8, high8]; rfl

theorem code_of_cand16 {i : Instr} {op : BitVec 4} {vd vs : BitVec 5} (h : cand16 op.toNat vd vs = some i) : i.code = .two op vd vs := by
  generalize hn : op.toNat = n at h
  obtain rfl : op = BitVec.ofNat 4 n := by simp [← hn]
  unfold cand16 at h
  split at h <;> cases h <;> rfl

theorem code_of_cand32 {i : Instr} {maj : BitVec 6} {f : F32} (h : cand32 maj.toNat f = some i) : i.code = .word maj f := by
  generalize hn : maj.toNat = n at h
  obtain rfl : maj = BitVec.ofNat 6 n := by simp [← hn]
  unfold cand32 at h
  split at h <;> cases h <;> rfl

/-- Every MTX has the one major and minor. -/
theorem code_candMtx (f : F64) : (candMtx f).toInstr.code = .dword 0x1A 0x04 f := by
  unfold candMtx
  dsimp only
  repeat' split
  all_goals rfl

theorem code_of_cand64 {d : Decoded} {maj min : BitVec 6} {f : F64} (h : cand64 maj.toNat min.toNat f = some d) :
    d.toInstr.code = .dword maj min f := by
  generalize hn : maj.toNat = n at h
  obtain rfl : maj = BitVec.ofNat 6 n := by simp [← hn]
  generalize hk : min.toNat = k at h
  obtain rfl : min = BitVec.ofNat 6 k := by simp [← hk]
  unfold cand64 at h
  split at h
  case h_27 => cases h
  case h_26 => cases h; rfl
  all_goals
    simp only [candInt, candFloat, candMajor02, candMajor03, candMajor06, candMajor07, candMajor08, candMajor09, candMajor0A, candMajor0B,
      candMajor0C, candMajor0D, candMajor10, candMajor11, candMajor12, candMajor13, candMajor14, candMajor15, candMajor18, candMajor19,
      candMajor1A, candMajor1B, candMajor1C] at h
    split at h <;> cases h
  all_goals try rfl
  exact code_candMtx f
/-! ## Words and what they are read as -/

/-- R42: the two low bits of a two-address halfword are clear, those of every other family are 0b10. -/
theorem halfNibble (h : Half) : (h.extractLsb' 0 4).toNat % 4 = (h.extractLsb' 0 2).toNat := by
  simp only [BitVec.extractLsb'_toNat, Nat.shiftRight_zero]; omega

theorem decode16_two (op : BitVec 4) (vd vs : BitVec 5) : decode16 (vs ++ vd ++ op ++ 0#2) = cand16 op.toNat vd vs := by
  have hlow : BitVec.extractLsb' (n := 16) 0 2 (vs ++ vd ++ op ++ 0#2) = 0#2 := BitVec.extractLsb'_append_eq_right
  have hop : BitVec.extractLsb' (n := 16) 2 4 (vs ++ vd ++ op ++ 0#2) = op := by
    rw [BitVec.extractLsb'_append_eq_of_le (by decide)]; exact BitVec.extractLsb'_append_eq_right
  have hvd : BitVec.extractLsb' (n := 16) 6 5 (vs ++ vd ++ op ++ 0#2) = vd := by
    repeat rw [BitVec.extractLsb'_append_eq_of_le (by decide)]
    exact BitVec.extractLsb'_append_eq_right
  have hvs : BitVec.extractLsb' (n := 16) 11 5 (vs ++ vd ++ op ++ 0#2) = vs := by
    repeat rw [BitVec.extractLsb'_append_eq_of_le (by decide)]
    exact BitVec.extractLsb'_eq_self
  have hn : (BitVec.extractLsb' (n := 16) 0 4 (vs ++ vd ++ op ++ 0#2)).toNat % 4 = 0 := by rw [halfNibble, hlow]; rfl
  simp only [decode16, hop, hvd, hvs]
  split
  case h_5 => rfl
  all_goals omega

/-- A halfword is what its instruction encodes as. -/
theorem toWord_of_decode16 {h : Half} {i : Instr} (hi : decode16 h = some i) (h0 : h.getLsbD 0 = false) :
    i.code ≠ .event ∧ i.code.toWord = h.setWidth 64 := by
  have hall : h = h.extractLsb' 4 12 ++ h.extractLsb' 0 4 := by
    rw [BitVec.extractLsb'_append_extractLsb'_eq_extractLsb' (by decide)]; exact BitVec.extractLsb'_eq_self.symm
  have hsys : h = h.extractLsb' 8 8 ++ (h.extractLsb' 4 4 ++ h.extractLsb' 0 4) := by
    repeat rw [BitVec.extractLsb'_append_extractLsb'_eq_extractLsb' (by decide)]
    exact BitVec.extractLsb'_eq_self.symm
  have hnib (n : Nat) (e : (h.extractLsb' 0 4).toNat = n) : h.extractLsb' 0 4 = BitVec.ofNat 4 n := by
    rw [← e, BitVec.ofNat_toNat, BitVec.setWidth_eq]
  have sys (k : Nat) (e : (h.extractLsb' 0 4).toNat = 6) (ek : (h.extractLsb' 4 4).toNat = k) :
      h.extractLsb' 8 8 ++ (BitVec.ofNat 4 k ++ 6#4) = h := by
    rw [← hnib _ e, ← ek, BitVec.ofNat_toNat, BitVec.setWidth_eq]; exact hsys.symm
  have half (w : Half) (e : i.code = .half w) (hw : w = h) : i.code ≠ .event ∧ i.code.toWord = h.setWidth 64 := by
    rw [e, hw]; exact ⟨nofun, rfl⟩
  simp only [decode16] at hi
  split at hi
  case h_1 e => cases hi; exact half _ rfl (by rw [← hnib _ e]; exact hall.symm)
  case h_2 e =>
    split at hi
    case h_1 k => cases hi; exact half _ rfl (sys 0 e k)
    case h_2 k =>
      split at hi
      next hz => cases hi; exact half 0x0016 rfl (by have := sys 1 e k; rw [hz] at this; exact this)
      next => cases hi
    case h_3 k => cases hi; exact half _ rfl (sys 2 e k)
    case h_4 k =>
      split at hi
      next hz => cases hi; exact half 0x0036 rfl (by have := sys 3 e k; rw [hz] at this; exact this)
      next => cases hi
    case h_5 k => cases hi; exact half _ rfl (sys 4 e k)
    case h_6 => cases hi
  case h_3 e => cases hi; exact half _ rfl (by rw [← hnib _ e]; exact hall.symm)
  case h_4 e => cases hi
  case h_5 e2 e6 ea ee =>
    have hlow : h.extractLsb' 0 2 = 0#2 := by
      have heven : h.toNat % 2 = 0 := by simpa [BitVec.getLsbD, Nat.testBit_zero] using h0
      have hbits := halfNibble h
      simp only [BitVec.extractLsb'_toNat, Nat.shiftRight_zero, imp_false] at e2 e6 ea ee hbits
      apply BitVec.eq_of_toNat_eq
      simp only [BitVec.extractLsb'_toNat, Nat.shiftRight_zero, BitVec.toNat_ofNat]
      omega
    rw [code_of_cand16 hi]
    refine ⟨nofun, ?_⟩
    simp only [Code.toWord, ← hlow]
    repeat rw [BitVec.extractLsb'_append_extractLsb'_eq_extractLsb' (by decide)]
    exact congrArg _ BitVec.extractLsb'_eq_self

/-- R41 to R51: a word that an instruction defines is what that instruction encodes as. -/
theorem toWord_of_defined {w : DWord} {d : Decoded} (hd : defined w = some d) :
    d.toInstr.code ≠ .event ∧ d.toInstr.code.toWord = ownBits w := by
  obtain ⟨e, h0⟩ | ⟨e, h2⟩ | ⟨e, h2⟩ := lengthOf_cases w <;> simp only [defined, e] at hd
  · obtain ⟨i, hi, rfl⟩ := Option.map_eq_some_iff.mp hd
    rw [ownBits_of_half e]
    exact toWord_of_decode16 hi (by simpa using h0)
  · obtain ⟨i, hi, rfl⟩ := Option.map_eq_some_iff.mp hd
    simp only [decode32] at hi
    split at hi
    · have hc : (Decoded.common i).toInstr.code = _ := code_of_cand32 hi
      rw [ownBits_of_word e, hc]
      refine ⟨nofun, congrArg (BitVec.setWidth 64) (F32.toWord_ofWord _ ?_)⟩
      rw [BitVec.extractLsb'_extractLsb'_of_le (by decide)]; exact h2
    · cases hi
  · simp only [decode64] at hd
    split at hd
    · rw [ownBits_of_dword e, code_of_cand64 hd]
      exact ⟨nofun, F64.toWord_ofWord w h2⟩
    · cases hd

/-- Every word is what it decodes to encodes as, an undefined one included, up to the bits above its length. -/
theorem toWord_decodeWord (w : DWord) : (decodeWord w).code ≠ .event ∧ (decodeWord w).code.toWord = ownBits w := by
  unfold decodeWord readWord
  cases hd : defined w with
  | some d => exact toWord_of_defined hd
  | none => exact ⟨nofun, rfl⟩

theorem encode_of_word {i : Instr} (h : i.code ≠ .event) : encode i = leBytes (lengthOf i.code.toWord) i.code.toWord := by
  unfold encode
  split
  · contradiction
  · rfl

theorem lengthOf_half {h : Half} (h0 : h.getLsbD 0 = false) : lengthOf (h.setWidth 64) = 2 :=
  Machine.lengthOf_of_even (by simpa using h0)

theorem setWidth_extract {n : Nat} (w : BitVec n) (hn : n ≤ 64) : (w.setWidth 64).extractLsb' 0 n = w := by
  apply BitVec.eq_of_getLsbD_eq
  intro i hi
  simp [hi, show i < 64 by omega]

theorem defined_half {h : Half} (h0 : h.getLsbD 0 = false) : defined (h.setWidth 64) = (decode16 h).map .common := by
  simp only [defined, lengthOf_half h0, setWidth_extract h (by decide)]

theorem defined_word {w : Word} (h : w.extractLsb' 0 2 = 1#2) : defined (w.setWidth 64) = (decode32 w).map .common := by
  simp only [defined, lengthOf_word32 h, setWidth_extract w (by decide)]

theorem defined_dword {w : DWord} (h : w.extractLsb' 0 2 = 3#2) : defined w = decode64 w := by
  simp only [defined, lengthOf_word64 h]

theorem decodeWord_of_defined {w : DWord} {d : Decoded} (h : defined w = some d) : decodeWord w = d.toInstr := by
  simp only [decodeWord, readWord, h]

theorem lowBit_append {v w : Nat} (hi : BitVec v) (lo : BitVec w) (hw : 0 < w) : (hi ++ lo).getLsbD 0 = lo.getLsbD 0 :=
  BitVec.getLsbD_append.trans (if_pos hw)

/-- R43 to R45: every halfword of an instruction is even. -/
theorem lowBit_of_code {i : Instr} {h : Half} (hc : i.code = .half h) : h.getLsbD 0 = false := by
  cases i <;> cases hc
  case yield | exit16 => rfl
  all_goals exact lowBit_append _ _ (by decide)

/-- R65: the word of a well-formed instruction decodes to it. -/
theorem decodeWord_toWord {i : Instr} (hwf : i.wf = true) (hw : i.code ≠ .event) : decodeWord i.code.toWord = i := by
  simp only [Instr.wf, Bool.and_eq_true] at hwf
  obtain ⟨hok, hm⟩ := hwf
  cases hc : i.code with
  | two op vd vs =>
    have h0 : BitVec.getLsbD (w := 16) (vs ++ vd ++ op ++ 0#2) 0 = false := lowBit_append _ _ (by decide)
    exact decodeWord_of_defined ((defined_half h0).trans (by rw [decode16_two, cand16_of_code hc]; rfl))
  | half h =>
    exact decodeWord_of_defined ((defined_half (lowBit_of_code hc)).trans (by rw [decode16_of_code hc]; rfl))
  | word maj f =>
    rw [hc] at hok
    have h2 : (f.toWord maj).extractLsb' 0 2 = 1#2 := BitVec.extractLsb'_append_eq_right
    refine decodeWord_of_defined (d := .common i) ((defined_word h2).trans ?_)
    rw [decode32, f.major_toWord, f.ofWord_toWord]
    simp only [show wordOk32 maj.toNat f = true from hok, if_true, cand32_of_code hc]
    rfl
  | dword maj min f =>
    rw [hc] at hok
    have h2 : (f.toWord maj min).extractLsb' 0 2 = 3#2 := BitVec.extractLsb'_append_eq_right
    obtain ⟨d, hd, rfl⟩ := cand64_of_code hc hm
    refine decodeWord_of_defined ((defined_dword h2).trans ?_)
    rw [decode64, f.major_toWord, f.minor_toWord, f.ofWord_toWord]
    simp only [show wordOk64 maj.toNat min.toNat f = true from hok, if_true, hd]
  | raw w =>
    rw [hc] at hok
    simp only [Code.ok, Bool.and_eq_true, Option.isNone_iff_eq_none, beq_iff_eq] at hok
    obtain ⟨hnone, hown⟩ := hok
    simp only [Code.toWord, decodeWord, readWord, hnone, hown]
    exact (illegalInstr_of_code hc).symm
  | event => contradiction

/-- R41: bytes that begin with those of a word decode to the word's instruction, and the rest is left. -/
theorem decode_leBytes_append (w : DWord) (rest : List Byte) :
    decode (leBytes (lengthOf w) w ++ rest) = .ok (decodeWord w, rest) := by
  have hlen : 2 ≤ lengthOf w ∧ lengthOf w ≤ 8 := by obtain ⟨e, -⟩ | ⟨e, -⟩ | ⟨e, -⟩ := lengthOf_cases w <;> omega
  have htake : (leBytes (lengthOf w) w ++ rest).take 8 = leBytes (lengthOf w) w ++ rest.take (8 - lengthOf w) := by
    rw [List.take_append, leBytes_length, List.take_of_length_le (by rw [leBytes_length]; exact hlen.2)]
  obtain ⟨hn, hread⟩ := read_congr (v := leWord ((leBytes (lengthOf w) w ++ rest).take 8)) (w := w) fun k hk => by
    rw [htake]; exact leWord_leBytes_append _ _ _ _ hk (by omega)
  have hdrop : (leBytes (lengthOf w) w ++ rest).drop (lengthOf w) = rest := by
    rw [List.drop_append, leBytes_length]; simp [leBytes_length]
  simp only [decode, hn, List.length_append, leBytes_length, hdrop, decodeWord, hread]
  rw [if_neg (by omega)]

end Sys2Proof

namespace Sys2Proof.Proofs

/-- Settles O43: an instruction's word decodes to it because its fields lie where the decoder reads them, and a word is what it decodes to
encodes as because the fields are all of its own bits. -/
theorem encodingAgrees : Obligations.EncodingAgrees := by
  constructor
  · intro i rest hwf hword
    have hcode : i.code ≠ .event := by simpa [Instr.isWord] using hword
    rw [encode_of_word hcode, decode_leBytes_append, decodeWord_toWord hwf hcode]
  · intro w
    obtain ⟨hcode, hown⟩ := toWord_decodeWord w
    have hn : lengthOf (ownBits w) = lengthOf w := (read_congr (ownBits_getLsbD w)).1
    rw [encode_of_word hcode, hown, hn]
    exact leBytes_congr _ _ _ (ownBits_getLsbD w)

end Sys2Proof.Proofs
end

section
/-! Completion of the instructions (O1 to O19, O21, O23 to O26, O28, O29). Each is the shared issue of one header and one plan; where the
statement writes that plan as the model does, unfolding the instruction shows it, and the lemmas before are for the others. -/

namespace Sys2Proof.Machine

/-- A predicate instruction with one source asks nothing of a second (R240). -/
theorem pred2_one_eq_issue (min : BitVec 6) (f : F64) (g : DWord → DWord) (s : State) :
    pred2 min f true (fun x _ => g x) s = issue (hdr64 0x09 min f)
      { ops := fun _ => predOk f.dst && predOk f.s1
        also := [.prd f.s1.toNat]
        eff := fun c s => c.finish (hdr64 0x09 min f) [.prd f.dst.toNat c.en (g (c.preg f.s1.toNat))] 0 s } s := by
  simp [pred2]

/-- The values of a two-bit selector. -/
theorem selector_cases (m : BitVec 2) : m = 0 ∨ m = 1 ∨ m = 2 ∨ m = 3 := by
  revert m; decide

@[simp] theorem advance_cnts (g : Group) (r : Run) (n : Nat) : (g.advance r n).cnts = g.cnts := by
  unfold Group.advance Group.setPcs; dsimp only; split <;> rfl

/-- An instruction without a counter leaves the counters as they were when it issued (R60). -/
theorem onward_countersZero (c : Cx) (h : Hdr) (hc : h.cnt = 15) (m : BitVec 12) :
    countersZero (c.onward h).cur m = countersZero c.g m := by
  simp only [Cx.onward, Group.claim, hc, countersZero, Group.counter]
  simp

/-- A WAIT by a group that waits on nothing is the shared issue (R43). -/
theorem execWait_free (m : BitVec 12) (s : State) (hf : s.cur.hold = .free) :
    execWait m s = issue (hdr16 (m ++ 0x2#4) .c false true) (waitPlan m) s := by
  simp only [execWait, hf]

theorem clears_hold {s : State} {h : Hdr} {p : Plan} {r : Run} (hc : s.clears h p r = true) : s.cur.hold = .free := by
  simp only [State.clears, Bool.and_eq_true] at hc
  obtain ⟨⟨⟨⟨⟨⟨⟨⟨ht, -⟩, -⟩, -⟩, -⟩, -⟩, -⟩, -⟩, -⟩ := hc
  exact ((tries_iff ..).mp ht).1

end Sys2Proof.Machine

namespace Sys2Proof.Proofs
open Sys2Proof.Machine

/-! ## Lane instructions -/

/-- Settles O1. -/
theorem twoAddressForms : Obligations.TwoAddressForms := by
  intro vd vs
  refine ⟨?mov, ?iadd, ?isub, ?imul, ?and, ?or, ?xor, ?shl, ?shr, ?sar, ?imin, ?imax, ?fadd, ?fsub, ?fmul, ?fmax⟩ <;>
    exact completes_of_exec_eq_issue fun _ => rfl

/-- Settles O2. -/
theorem integerForms32 : Obligations.IntegerForms32 := by
  intro f
  refine ⟨?iadd, ?isub, ?imul, ?imulh, ?imad, ?imin, ?imax, ?iabs, ?and, ?or, ?xor, ?andn, ?not, ?shl, ?shr, ?sar, ?rotl, ?popc, ?clz,
    ?ctz, ?brev, ?lea, ?mov⟩ <;> exact completes_of_exec_eq_issue fun _ => rfl

/-- Settles O3. -/
theorem floatForms32 : Obligations.FloatForms32 := by
  intro f
  refine ⟨?fadd, ?fsub, ?fmul, ?ffma, ?fmin, ?fmax, ?fscale, ?fadd64, ?fsub64, ?fmul64, ?ffma64, ?fmin64, ?fmax64, ?faddX2, ?fsubX2,
    ?fmulX2, ?ffmaX2, ?fminX2, ?fmaxX2⟩ <;> exact completes_of_exec_eq_issue fun _ => rfl

/-- Settles O4, for each width on its own, since the width chooses the major. -/
theorem integerArithmetic : Obligations.IntegerArithmetic := by
  intro w f
  refine ⟨?iadd, ?isub, ?imul, ?imulh, ?imad, ?idiv, ?irem, ?imin, ?imax, ?iabs, ?and, ?or, ?xor, ?andn, ?not, ?mov⟩ <;>
    cases w <;> exact completes_of_exec_eq_issue fun _ => rfl

/-- Settles O5, for each width on its own. -/
theorem integerBits : Obligations.IntegerBits := by
  intro w f
  refine ⟨?shl, ?shr, ?sar, ?rotl, ?bfx, ?bfi, ?popc, ?clz, ?ctz, ?brev, ?lea, ?icmp, ?sel⟩ <;>
    cases w <;> exact completes_of_exec_eq_issue fun _ => rfl

/-- Settles O6. -/
theorem immediateForms : Obligations.ImmediateForms := by
  intro f
  refine ⟨?iadd, ?imul, ?imin, ?imax, ?and, ?or, ?xor, ?shl, ?shr, ?sar, ?rotl, ?bfx, ?bfi, ?icmp, ?movi, ?moviHi⟩ <;>
    exact completes_of_exec_eq_issue fun _ => rfl

/-- Settles O7, for each width on its own. -/
theorem floatArithmetic : Obligations.FloatArithmetic := by
  intro w f
  refine ⟨?fadd, ?fsub, ?fmul, ?ffma, ?fmin, ?fmax, ?fcmp, ?fclass, ?faddX2, ?fsubX2, ?fmulX2, ?ffmaX2, ?fminX2, ?fmaxX2, ?fcmpX2⟩ <;>
    cases w <;> exact completes_of_exec_eq_issue fun _ => rfl

/-- Settles O8, for each width on its own. -/
theorem floatFunctions : Obligations.FloatFunctions := by
  intro w f
  refine ⟨?frcp, ?frsq, ?fsqrt, ?fdiv, ?fexp2, ?flog2, ?fsin, ?fcos, ?frnd, ?fscale, ?fgetexp⟩ <;>
    cases w <;> exact completes_of_exec_eq_issue fun _ => rfl

/-- Settles O9. -/
theorem conversions : Obligations.Conversions := by
  intro f
  refine ⟨?cvt, ?pack, ?unpack, ?amax, ?quant⟩ <;> exact completes_of_exec_eq_issue fun _ => rfl

/-- Settles O10: the selector of VOTE chooses among its plans, and the others have one. -/
theorem laneExchange : Obligations.LaneExchange := by
  intro f
  refine ⟨?shfl, ?any, ?all, ?ballot, ?equal, ?redux, ?scan, ?matchLanes⟩
  case any | all | ballot | equal =>
    intro hm
    refine completes_of_exec_eq_issue fun s => ?_
    show execVote f s = _
    simp only [execVote, hm]
    rfl
  all_goals exact completes_of_exec_eq_issue fun _ => rfl

/-! ## Predicates, scalars and walkers -/

/-- Settles O11: the selector of PMOV chooses its direction. -/
theorem predicateForms : Obligations.PredicateForms := by
  intro f
  refine ⟨?pand, ?por, ?pxor, ?pnot, ?pmov, ?pmovFrom, ?pmovTo, ?elect⟩
  case pnot => exact completes_of_exec_eq_issue fun s => pred2_one_eq_issue 0x03 f (~~~·) s
  case pmov =>
    intro hm
    refine completes_of_exec_eq_issue fun s => ?_
    show execPmov f s = _
    simp only [execPmov, hm]
    exact pred2_one_eq_issue 0x04 f id s
  case pmovFrom | pmovTo =>
    intro hm
    refine completes_of_exec_eq_issue fun s => ?_
    show execPmov f s = _
    simp only [execPmov, hm]
    rfl
  all_goals exact completes_of_exec_eq_issue fun _ => rfl

/-- Settles O12. -/
theorem scalarForms : Obligations.ScalarForms := by
  intro f
  refine ⟨?sadd, ?ssub, ?smul, ?sand, ?sor, ?sxor, ?sshl, ?sshr, ?scmp, ?ssel, ?smov, ?bcast, ?rdlane⟩ <;>
    exact completes_of_exec_eq_issue fun _ => rfl

/-- Settles O13. -/
theorem scalarImmediates : Obligations.ScalarImmediates := by
  intro f
  refine ⟨?sadd, ?ssub, ?smul, ?sand, ?sor, ?sxor, ?sshl, ?sshr, ?scmp, ?smovi, ?smoviMid, ?smoviTop⟩ <;>
    exact completes_of_exec_eq_issue fun _ => rfl

/-- Settles O14: WSET reads the registers below its number of dimensions. -/
theorem walkerForms : Obligations.WalkerForms := by
  intro f
  refine ⟨?wset, ?wstat, ?wrew⟩
  case wset =>
    refine completes_of_exec_eq_issue fun s => ?_
    show execWset f s = _
    simp only [execWset, wsetPlan, Nat.lt_succ_iff]
  all_goals exact completes_of_exec_eq_issue fun _ => rfl

/-! ## Memory, scopes, fabric and matrix engines -/

/-- Settles O15. -/
theorem loadsAndStores : Obligations.LoadsAndStores := by
  intro f
  refine ⟨?ldg, ?stg, ?ldl, ?stl, ?sld, ?sst⟩ <;> exact completes_of_exec_eq_issue fun _ => rfl

/-- Settles O16. -/
theorem atomicsAndPlanes : Obligations.AtomicsAndPlanes := by
  intro f
  refine ⟨?atomg, ?redg, ?atoml, ?pref, ?plpack, ?plunpack⟩ <;> exact completes_of_exec_eq_issue fun _ => rfl

/-- Settles O17. -/
theorem fencesAndBarriers : Obligations.FencesAndBarriers := by
  intro f
  refine ⟨?fence, ?bar, ?bara⟩ <;> exact completes_of_exec_eq_issue fun _ => rfl

/-- Settles O18: the statement asks the scalar sources of the queries as a list, the model one by one. -/
theorem scopeAndVaultInstructions : Obligations.ScopeAndVaultInstructions := by
  intro f
  refine ⟨?locid, ?scopeof, ?scopecost, ?vmap, ?vunmap, ?sjoin, ?sleave, ?feset, ?feclr⟩
  case scopeof =>
    refine completes_of_exec_eq_issue fun s => ?_
    show execScopeof f s = _
    simp [execScopeof, Bool.and_assoc]
  case scopecost =>
    refine completes_of_exec_eq_issue fun s => ?_
    show execScopecost f s = _
    simp [execScopecost]
  all_goals exact completes_of_exec_eq_issue fun _ => rfl

/-- Settles O19. -/
theorem fabricInstructions : Obligations.FabricInstructions := by
  intro f
  refine ⟨?put, ?get, ?wcnt, ?nmo⟩ <;> exact completes_of_exec_eq_issue fun _ => rfl

/-- Settles O21. -/
theorem matrixInstructions : Obligations.MatrixInstructions := by
  intro f
  refine ⟨?mxalloc, ?mxfree, ?mxwload, ?mxrun, ?mxdrain, ?mxfill, ?mxzero, ?mxfence, ?mxstat, ?mxcancel⟩ <;>
    exact completes_of_exec_eq_issue fun _ => rfl

/-! ## Control, system, worlds and snapshots -/

/-- Settles O23: a WAIT finds the counters as they were before its own advance, and one that waits already is passed or waits on. -/
theorem exitsAndWaits : Obligations.ExitsAndWaits := by
  intro f f32 minor m imm
  refine ⟨?exit, ?exit16, ?sleep, ?wait, ?waiting, ?yield, ?nop16, ?nop32, ?nop64⟩
  case wait =>
    intro s r hc
    show execWait m s = _
    rw [execWait_free m s (clears_hold hc), issue_completes _ _ s r hc]
    simp only [waitPlan]
    rw [onward_countersZero _ _ rfl]
    rfl
  case waiting =>
    intro s r hw hr hd
    show execWait m s = _
    simp only [execWait, hw, hr, hd]
    split <;> rfl
  all_goals exact completes_of_exec_eq_issue fun _ => rfl

/-- Settles O24. -/
theorem workAndRegisters : Obligations.WorkAndRegisters := by
  intro f
  refine ⟨?spawn, ?fetchw, ?reggrow, ?regshrink⟩ <;> exact completes_of_exec_eq_issue fun _ => rfl

/-- Settles O25. -/
theorem systemRegisters : Obligations.SystemRegisters := by
  intro f
  refine ⟨?mfx, ?mtx, ?xpc, ?vbudget, ?vpsize, ?vpbase⟩ <;> exact completes_of_exec_eq_issue fun _ => rfl

/-- Settles O26: the selector of TLBINV gives its base and length. -/
theorem systemActions : Obligations.SystemActions := by
  intro f
  refine ⟨?xret, ?tlbinv, ?icinv⟩
  case tlbinv =>
    refine completes_of_exec_eq_issue fun s => ?_
    show execTlbinv f s = _
    obtain hm | hm | hm | hm := selector_cases f.modLow <;> simp only [execTlbinv, tlbinvPlan, hm] <;> rfl
  all_goals exact completes_of_exec_eq_issue fun _ => rfl

/-- Settles O28. -/
theorem worldInstructions : Obligations.WorldInstructions := by
  intro f
  refine ⟨?forkw, ?choose, ?world, ?abandon⟩ <;> exact completes_of_exec_eq_issue fun _ => rfl

/-- Settles O29. -/
theorem snapshotInstructions : Obligations.SnapshotInstructions := by
  intro f
  refine ⟨?snap, ?snapst⟩ <;> exact completes_of_exec_eq_issue fun _ => rfl

end Sys2Proof.Proofs
end

section
/-! Snapshots (R446): what the last act of a step leaves of what colours hold unpreserved. -/

namespace Sys2Proof.Machine

/-- The rows of a group that stay unpreserved after a step: its registers' rows, and those of its other state that read as before it. -/
def State.keptRows (old s : State) (g : Group) : BitVec 149 :=
  if g.unpres.toList.all (· == 0) then 0
  else match old.group? g.block g.gidx with
    | none => 0
    | some o =>
      if !s.isResident g.block then 0
      else (List.range 21).foldl (fun (m : BitVec 149) k => if o.stateRow k == g.stateRow k then m ||| (1#149 <<< (128 + k)) else m)
        ((1#149 <<< min g.alloc 128) - 1#149)

/-- A group with the bits of a mask left of what colours hold of it. -/
def Group.keepUnpres (g : Group) (m : BitVec 149) : Group := { g with unpres := g.unpres.map (· &&& m) }

/-- Where no colour is in use, a step preserves nothing. -/
theorem preserveChanged_free (old s : State) (h : s.colours.all (fun c => c.st == .free) = true) : State.preserveChanged old s = s := by
  unfold State.preserveChanged
  exact if_pos h

/-- R446, in fields: the groups keep the rows that are left, and blocks off their cores hold no segment. -/
theorem preserveChanged_used (old s : State) (h : s.colours.all (fun c => c.st == .free) = false) :
    let t := State.preserveChanged old s
    t.cur = s.cur.keepUnpres (State.keptRows old s s.cur) ∧
    t.others = s.others.map (fun g => g.keepUnpres (State.keptRows old s g)) ∧
    t.blocks = s.blocks.map (fun b => if b.resident then b else { b with vault := { b.vault with unpres0 := [], unpres1 := [] } }) := by
  have hno : ¬ s.colours.all (fun c => c.st == .free) = true := by simp [h]
  unfold State.preserveChanged
  rw [if_neg hno]
  exact ⟨rfl, rfl, rfl⟩

/-- What a colour lists by name after a step: the matrix units that are as they were before it. -/
def State.keptUnits (old s : State) (c : Colour) : Colour :=
  { c with unpres := c.unpres.filter fun r => match r with
    | .matrix cl u => (match s.matrixUnit cl u, old.matrixUnit cl u with | some x, some y => x == y | _, _ => false)
    | _ => false }

/-- R446, of the colours: each lists what stays unpreserved, and takes the state that follows; the matrix units are as they were. -/
theorem preserveChanged_colours (old s : State) (h : s.colours.all (fun c => c.st == .free) = false) :
    let t := State.preserveChanged old s
    (∃ v : State, t.colours = (s.colours.map (State.keptUnits old s)).map v.settleColour) ∧
    ∀ cl u, t.matrixUnit cl u = s.matrixUnit cl u := by
  have hno : ¬ s.colours.all (fun c => c.st == .free) = true := by simp [h]
  unfold State.preserveChanged
  rw [if_neg hno]
  exact ⟨⟨_, rfl⟩, fun _ _ => rfl⟩

/-- What a colour lists after a step are matrix units that exist. -/
theorem mem_keptUnits {old s : State} {c : Colour} {r : SnapRef} (h : r ∈ (State.keptUnits old s c).unpres) :
    ∃ cl u, r = .matrix cl u ∧ (s.matrixUnit cl u).isSome = true := by
  obtain ⟨-, hr⟩ := List.mem_filter.1 h
  split at hr
  · next cl u =>
    refine ⟨cl, u, rfl, ?_⟩
    split at hr
    · next hx _ => simp [hx]
    · simp at hr
  · simp at hr

/-- The last act of a step makes the snapshots sound, whatever the state before it. -/
theorem preserveChanged_sound (old s : State) : (State.preserveChanged old s).snapshotsSound := by
  cases h : s.colours.all (fun c => c.st == .free) with
  | true =>
    rw [preserveChanged_free old s h]
    exact Or.inl fun c hc => eq_of_beq (List.all_eq_true.1 h c hc)
  | false =>
    obtain ⟨-, -, hblocks⟩ := preserveChanged_used old s h
    obtain ⟨⟨v, hcol⟩, hunit⟩ := preserveChanged_colours old s h
    refine Or.inr ⟨fun b hb hres => ?_, fun c hc r hr => ?_⟩
    · rw [hblocks] at hb
      obtain ⟨a, -, rfl⟩ := List.mem_map.1 hb
      cases ha : a.resident with
      | true => simp [ha] at hres
      | false => simp
    · rw [hcol] at hc
      obtain ⟨d, hd, rfl⟩ := List.mem_map.1 hc
      obtain ⟨e, -, rfl⟩ := List.mem_map.1 hd
      rw [settleColour_unpres] at hr
      obtain ⟨cl, u, rfl, hu⟩ := mem_keptUnits hr
      exact ⟨cl, u, rfl, (hunit cl u).symm ▸ hu⟩

/-- The low bits, as many as there are rows, hold no bit of the other state. -/
theorem rowBits_high (n k : Nat) : ((1#149 <<< min n 128) - 1#149).getLsbD (128 + k) = false := by
  have hpow : 2 ^ min n 128 ≤ 2 ^ 128 := Nat.pow_le_pow_right (by decide) (by omega)
  have hone : 0 < 2 ^ min n 128 := Nat.two_pow_pos _
  have hval : ((1#149 <<< min n 128) - 1#149).toNat = 2 ^ min n 128 - 1 := by
    rw [BitVec.toNat_sub, BitVec.toNat_shiftLeft, Nat.shiftLeft_eq]
    simp only [BitVec.toNat_ofNat]
    omega
  rw [BitVec.getLsbD, hval]
  apply Nat.testBit_lt_two_pow
  have : 2 ^ 128 ≤ 2 ^ (128 + k) := Nat.pow_le_pow_right (by decide) (by omega)
  omega

/-- A fold that sets the bits of the rows that pass a test sets no other. -/
theorem foldl_rowBits (p : Nat → Bool) (l : List Nat) (m : BitVec 149) (k : Nat)
    (h : (l.foldl (fun (m : BitVec 149) j => if p j then m ||| (1#149 <<< (128 + j)) else m) m).getLsbD (128 + k) = true) :
    m.getLsbD (128 + k) = true ∨ p k = true := by
  induction l generalizing m with
  | nil => exact Or.inl h
  | cons j l ih =>
    obtain hm | hp := ih _ h
    · cases hj : p j with
      | false => exact Or.inl (by simpa [hj] using hm)
      | true =>
        simp only [hj, if_true, BitVec.getLsbD_or, Bool.or_eq_true] at hm
        obtain hm | hm := hm
        · exact Or.inl hm
        · have hjk : j = k := by
            simp at hm
            omega
          exact Or.inr (hjk ▸ hj)
    · exact Or.inr hp

/-- A row of a group's other state that is kept unpreserved reads as before the step. -/
theorem keptRows_row {old s : State} {g : Group} {k : Nat} (h : (State.keptRows old s g).getLsbD (128 + k) = true) :
    ∃ o, old.group? g.block g.gidx = some o ∧ o.stateRow k = g.stateRow k := by
  unfold State.keptRows at h
  split at h
  · simp at h
  · split at h
    · simp at h
    · next o ho =>
      split at h
      · simp at h
      · obtain hm | hp := foldl_rowBits _ _ _ k h
        · rw [rowBits_high] at hm
          cases hm
        · exact ⟨o, ho, eq_of_beq hp⟩

/-- The write of a row within the allocation clears its bit in both colours (R446). -/
theorem setRow_unpres {g : Group} {r : Nat} (m : DWord) (v : Lanes Word) (ha : r < g.alloc) (hr : r < 128) :
    ∀ u ∈ (g.setRow r m v).unpres.toList, u.getLsbD r = false := by
  intro u hu
  rw [Group.setRow, if_pos ha] at hu
  simp only [Vector.toList_map, List.mem_map] at hu
  obtain ⟨b, -, rfl⟩ := hu
  simp [show r < 149 by omega]

/-- After the last act of a step, a row of other state that a colour in use holds unpreserved reads as before the step (R446). -/
theorem preserveChanged_row {old s : State} (hused : ∃ c ∈ (State.preserveChanged old s).colours, c.st ≠ .free) {g : Group}
    (hg : g ∈ (State.preserveChanged old s).cur :: (State.preserveChanged old s).others) {u : BitVec 149} (hu : u ∈ g.unpres.toList)
    {k : Nat} (hbit : u.getLsbD (128 + k) = true) :
    ∃ o, old.group? g.block g.gidx = some o ∧ o.stateRow k = g.stateRow k := by
  cases h : s.colours.all (fun c => c.st == .free) with
  | true =>
    obtain ⟨c, hc, hne⟩ := hused
    rw [preserveChanged_free old s h] at hc
    exact absurd (eq_of_beq (List.all_eq_true.1 h c hc)) hne
  | false =>
    obtain ⟨hcur, hothers, -⟩ := preserveChanged_used old s h
    obtain ⟨a, rfl⟩ : ∃ a : Group, g = a.keepUnpres (State.keptRows old s a) := by
      rw [hcur, hothers, List.mem_cons] at hg
      obtain rfl | hg := hg
      · exact ⟨_, rfl⟩
      · obtain ⟨a, -, rfl⟩ := List.mem_map.1 hg
        exact ⟨a, rfl⟩
    rw [Group.keepUnpres, Vector.toList_map, List.mem_map] at hu
    obtain ⟨b, -, rfl⟩ := hu
    rw [BitVec.getLsbD_and, Bool.and_eq_true] at hbit
    obtain ⟨o, ho, hrow⟩ := keptRows_row hbit.2
    exact ⟨o, ho, hrow.trans (stateRow_unpres a _ k).symm⟩

end Sys2Proof.Machine

namespace Sys2Proof.Proofs
open Sys2Proof.Machine

/-- Settles O47: the last act of every step makes the snapshots sound (R446). -/
theorem snapshotsStaySound : Obligations.SnapshotsStaySound := by
  intro s t _ h
  obtain ⟨u, rfl⟩ := step_settles h
  exact preserveChanged_sound _ _

/-- Settles O48: after reset there is no colour. -/
theorem snapshotsSoundAtReset : Obligations.SnapshotsSoundAtReset :=
  Or.inl fun c hc => absurd hc (List.not_mem_nil (a := c))

/-- Settles O49: the last act of a step keeps a row's bit only where the row reads as before the step. -/
theorem unpreservedRowsUnwritten : Obligations.UnpreservedRowsUnwritten := by
  refine ⟨fun s t h hused g hg u hu k _ hbit => ?_, fun g r m v ha hr => setRow_unpres m v ha hr⟩
  obtain ⟨w, rfl⟩ := step_settles h
  exact preserveChanged_row hused hg hu hbit

end Sys2Proof.Proofs
end

section
/-! Events: vault banks, segments and copy engines. -/

namespace Sys2Proof.Machine

/-- A lane of a plain load or store in a vault that nothing holds off is performed at its bank. -/
theorem runLocal_plain {s : State} {r : FRef} {g : Group} {f : Flight} {a : Access} {l : LaneAcc} (hkind : a.kind = .load ∨ a.kind = .store)
    (hqual : a.qual = .plain) (htransit : s.localTransit l.blk l.off = false) (hres : s.isResident l.blk = true)
    (hwaits : a.kind = .store → s.segmentWaits l.blk l.off = false) :
    s.runLocal r g f a l = (s.bankLane r a l l.blk l.off).served l.blk (granOf l.off) (s.isFull l.blk (granOf l.off)) := by
  have hfree : (s.localTransit l.blk l.off || !s.isResident l.blk || (a.kind != .load && s.segmentWaits l.blk l.off)) = false := by
    rw [htransit, hres]
    obtain h | h := hkind
    · simp [h]
    · simp [hwaits h]
  have hgoes : (!a.qual.goes (s.isFull l.blk (granOf l.off)) || s.laneQueues g f a l) = false := by
    simp [State.laneQueues, hqual, Qual.goes]
  rw [State.runLocal]
  simp only [hfree, hgoes, Bool.false_eq_true, if_false]
  obtain h | h := hkind <;> simp only [h]

/-- A todo lane in a vault, of a group that does not differ from its replay, runs there. -/
theorem runLane_local {s : State} {r : FRef} {g : Group} {f : Flight} {a : Access} {l : LaneAcc} (hacc : s.access? r = some (g, f, a))
    (hfind : (a.lanes.find? (·.lane == l.lane)) = some l) (htodo : l.st = .todo) (hheld : s.laneHeld g f a l = false)
    (hsame : g.differs = none) (hloc : a.loc = true) : State.runLane r s l.lane = s.runLocal r g f a l := by
  rw [State.runLane]
  simp only [hacc, hfind, htodo, hheld, hsame, State.runPlace, hloc]
  rfl

/-- An access without release of one todo lane performs that lane. -/
theorem perform_oneLane {s : State} {r : FRef} {g : Group} {f : Flight} {a : Access} {l : LaneAcc} (hacc : s.access? r = some (g, f, a))
    (hord : a.ord = 0) (hlanes : a.lanes = [l]) (htodo : l.st = .todo) :
    s.perform r [] = (State.runLane r s l.lane).settleLog r := by
  rw [State.perform]
  simp only [hacc, hord, hlanes]
  simp [htodo]

end Sys2Proof.Machine

namespace Sys2Proof.Proofs
open Sys2Proof.Machine

/-- Settles O33: each event's own branch, with what its premises say of the state. -/
theorem vaultAndCopyEvents : Obligations.VaultAndCopyEvents := by
  intro s
  have hbank (g : Group) (f : Flight) (a : Access) (hacc : s.access? ⟨s.cue.block, s.cue.gidx, s.cue.key⟩ = some (g, f, a))
      (hloc : a.loc = true) :
      exec .vaultBankAccess s = .next (s.perform ⟨s.cue.block, s.cue.gidx, s.cue.key⟩ s.cue.nums).wake := by
    show execVaultBankAccess s = _
    simp only [execVaultBankAccess, hacc, hloc]
    rfl
  refine ⟨hbank, ?_, rfl, fun g hg => ⟨fun hl => ?_, ?_⟩, fun it hit => rfl, ?_, fun it hit hover hkind => ?_,
    fun it k hit hover hkind => ?_, fun hn => ?_, ?_, rfl, ?_⟩
  · intro g f a l r hacc hloc hkind hord hqual hlanes htodo hsel hheld hsame htransit hres hwaits
    have hfind : (a.lanes.find? (·.lane == l.lane)) = some l := by simp [hlanes]
    rw [hbank g f a hacc hloc, hsel, perform_oneLane hacc hord hlanes htodo, runLane_local hacc hfind htodo hheld hsame hloc,
      runLocal_plain hkind hqual htransit hres hwaits]
  · show Host.Outcome.next (s.endTransit s.cue.key).wake = _
    rw [State.endTransit, hg]
    show Host.Outcome.next (State.wake (if g.leaving = true then _ else _)) = _
    rw [if_pos hl]
  · intro hl inPage t1 t2 t3 gone
    show Host.Outcome.next (s.endTransit s.cue.key).wake = _
    rw [State.endTransit, hg]
    show Host.Outcome.next (State.wake (if g.leaving = true then _ else _)) = _
    rw [if_neg (by simp [hl])]
  · intro it rows t hit hkind hblocked hwait hbehind hstate hit' hindex n u x hx htake hsel
    show Host.Outcome.next (s.copyTurn s.cue.key s.cue.nums).wake = _
    have hfree : (it.blocked || it.ended || it.waitva != 0 || s.behind it) = false := by
      simp [CopyItem.ended, hstate, hblocked, hwait, hbehind]
    rw [State.copyTurn, hit]
    simp only [hkind, hfree, hstate, Bool.false_eq_true, if_false, Nat.one_ne_zero, hit', hindex, Option.getD_some]
    split
    · next hnone => exact absurd (hnone.symm.trans hx) (Option.some_ne_none x).symm
    · next y hy =>
      obtain rfl : y = x := Option.some.inj (hy.symm.trans hx)
      simp only [htake, hsel, Bool.false_and]
      rfl
  · show execCopyItemCompletion s = _
    simp only [execCopyItemCompletion, hit, hover, hkind]
    rfl
  · show execCopyItemCompletion s = _
    simp only [execCopyItemCompletion, hit, hover, hkind]
    rfl
  · show execTierEntryStart s = _
    simp only [execTierEntryStart, hn]
  · intro ctx hd es e t hn hctx hhd reader hes hfind hvalid hlayer hstarted hcheck hblocked
    show execTierEntryStart s = _
    simp only [execTierEntryStart, hn]
    rw [State.startTier, hctx, hhd]
    simp only [reader] at hes hcheck
    simp only [hes, hfind, hcheck, hvalid, hstarted, hblocked]
    rw [if_neg (by simpa using hlayer)]
  · intro e unit d o r j reader pasid hst hentry hdt hfl hup hunit hd ho hr hf hp dst src ms gs into it it2 t hj hnp hall hreason t2 hclean u
    show Host.Outcome.next (s.refetch s.cue.gidx s.cue.key).wake = _
    have h4 : (e.dtier == 4) = false := beq_eq_false_iff_ne.2 (by omega)
    have h5 : (e.dtier == 5) = false := beq_eq_false_iff_ne.2 (by omega)
    have h4' : ¬ e.dtier = 4 := by omega
    have h5' : ¬ e.dtier = 5 := by omega
    have hflag : ¬ (e.flags / 2 % 2 = 0 ∨ s.updating = true) := by simp [hfl, hup]
    have hfault : (((Tensor.parse r).fault 1).isSome || (copyPairFault (Tensor.parse d) (Tensor.parse r)).isSome) = false := by simp [hf, hp]
    simp only [pasid, reader] at hst hentry hunit hd ho hr
    simp only [t2, t, it2, it, into, gs, ms, src, dst, pasid] at hj hall hclean
    rw [State.refetch]
    simp only [hst, hentry, if_true, if_neg h4', if_neg h5', hflag, if_false, hunit, hd, ho, hr, hfault, Bool.false_eq_true, State.fresh,
      bne, h4, h5, Bool.false_and, hj, hall, hnp, hreason, BEq.rfl, Bool.not_false, Bool.true_and, hclean, decide_true]
    rfl

end Sys2Proof.Proofs
end

section
/-! What reads and writes of memory, walks and releases leave alone: the cue and the removals in progress. -/

namespace Sys2Proof.Machine

/-- Two states that have the same cue and the same removals in progress. -/
structure SameControl (s t : State) : Prop where
  cue : t.cue = s.cue
  leaving : t.leaving = s.leaving

theorem SameControl.refl (s : State) : SameControl s s := ⟨rfl, rfl⟩

theorem SameControl.trans {s t u : State} (h : SameControl s t) (k : SameControl t u) : SameControl s u :=
  ⟨k.cue.trans h.cue, k.leaving.trans h.leaving⟩

theorem SameControl.ite {s t u : State} {p : Prop} [Decidable p] (ht : SameControl s t) (hu : SameControl s u) :
    SameControl s (if p then t else u) := by split <;> assumption

theorem SameControl.withL1 {s t : State} (h : SameControl s t) (l : List CByte) (m : List (Nat × Nat)) :
    SameControl s { t with l1 := l, mended := m } := h.trans ⟨rfl, rfl⟩

theorem SameControl.withL2 {s t : State} (h : SameControl s t) (l : List CByte) : SameControl s { t with l2 := l } := h.trans ⟨rfl, rfl⟩

theorem SameControl.withMended {s t : State} (h : SameControl s t) (m : List (Nat × Nat)) : SameControl s { t with mended := m } :=
  h.trans ⟨rfl, rfl⟩

/-- What every step of a fold keeps, the fold keeps. -/
theorem SameControl.foldl {α : Type} {step : State → α → State} (hstep : ∀ s a, SameControl s (step s a)) (l : List α) (s : State) :
    SameControl s (l.foldl step s) := by
  induction l generalizing s with
  | nil => exact .refl s
  | cons a l ih => exact (hstep s a).trans (ih _)

/-! ## Memory and caches -/

theorem preserve_control (s : State) (pa : Nat) : SameControl s (s.preserve pa) := .ite (.refl s) ⟨rfl, rfl⟩

theorem preserveLine_control (s : State) (unit pa : Nat) : SameControl s (s.preserveLine unit pa) := .ite (.refl s) ⟨rfl, rfl⟩

theorem preserveRoot_control (s : State) (pa : Nat) : SameControl s (s.preserveRoot pa) := by
  unfold State.preserveRoot
  split
  · exact (preserve_control s pa).trans ⟨rfl, rfl⟩
  · exact preserve_control s pa

theorem dramWrite_control (s : State) (pa : Nat) (bs : List Byte) : SameControl s (s.dramWrite pa bs) := by
  have hmem (t : State) : SameControl t { (t.preserve pa) with mem := t.mem.write pa bs } := (preserve_control t pa).trans ⟨rfl, rfl⟩
  unfold State.dramWrite
  split
  · next g _ =>
    have hvault : SameControl s (if g.inVault then s.onVault g.block fun a => a.write (g.lpage + pa % 4096) bs else s) :=
      .ite ⟨rfl, rfl⟩ (.refl s)
    exact .ite (hvault.trans (hmem _)) hvault
  · exact hmem s

theorem setPoison_control (s : State) (pa : Nat) (on : Bool) : SameControl s (s.setPoison pa on) := by
  unfold State.setPoison
  cases s.segAt pa with
  | none => exact ⟨rfl, rfl⟩
  | some g =>
    have hvault : SameControl s (if g.inVault then s.poisonVault g.block (granOf (g.lpage + pa % 4096)) on else s) :=
      .ite ⟨rfl, rfl⟩ (.refl s)
    exact .ite (hvault.trans ⟨rfl, rfl⟩) hvault

theorem noteMended_control (s : State) (place pa : Nat) : SameControl s (s.noteMended place pa) := .ite (.refl s) ⟨rfl, rfl⟩

theorem sinkL2_control (s : State) (p : CByte → Bool) : SameControl s (s.sinkL2 p) := by
  unfold State.sinkL2
  refine SameControl.trans ?_ (.foldl (fun t m => setPoison_control t _ _) _ _)
  refine SameControl.withMended ?_ _
  refine SameControl.trans ?_ (.foldl (fun t c => dramWrite_control t _ _) _ _)
  exact .foldl (fun t c => preserveLine_control t _ _) _ s

theorem nodeCut_control (s : State) (c : Colour) (node : Nat) : SameControl s (s.nodeCut c node) := ⟨rfl, rfl⟩

theorem nodeTakes_control (s : State) (pasid pa port : Nat) (own : Bool) (xs : List Nat) (bytes : List Byte) :
    SameControl s (s.nodeTakes pasid pa port own xs bytes) := by
  unfold State.nodeTakes
  split
  · exact .refl s
  · cases own with
    | false => exact ⟨rfl, rfl⟩
    | true => exact (SameControl.foldl (fun t c => nodeCut_control t c _) _ s).trans ⟨rfl, rfl⟩

theorem returnHomes_control (s : State) (p : CByte → Bool) : SameControl s (s.returnHomes p) :=
  (SameControl.foldl (fun t _ => (nodeTakes_control t _ _ _ _ _ _).trans ((preserve_control _ _).trans (preserveLine_control _ _ _))) _ s).trans
    ⟨rfl, rfl⟩

theorem evictL2_control (s : State) (chip pa : Nat) : SameControl s (s.evictL2 chip pa) :=
  (sinkL2_control s _).trans ((returnHomes_control _ _).trans ⟨rfl, rfl⟩)

theorem roomL2_control (s : State) (chip pa : Nat) : SameControl s (s.roomL2 chip pa) := by
  unfold State.roomL2
  refine .ite (.refl s) ?_
  split
  · exact evictL2_control s chip _
  · exact .refl s

theorem homeRead_control (s : State) (pasid pa n : Nat) : SameControl s (s.homeRead pasid pa n).2 := by
  unfold State.homeRead
  split
  · exact .refl s
  · split
    · exact .refl s
    · exact (roomL2_control s _ _).trans ⟨rfl, rfl⟩

theorem homeWrite_control (s : State) (pasid pa : Nat) (bs : List Byte) : SameControl s (s.homeWrite pasid pa bs) :=
  (roomL2_control s _ _).trans ((preserveLine_control _ _ _).trans ⟨rfl, rfl⟩)

theorem rootRead_control (s : State) (pasid pa n : Nat) : SameControl s (s.rootRead pasid pa n).2 := by
  unfold State.rootRead
  split
  · exact .refl s
  · exact homeRead_control s pasid pa n

theorem rootWrite_control (s : State) (pasid pa : Nat) (bs : List Byte) : SameControl s (s.rootWrite pasid pa bs) :=
  .ite (dramWrite_control s pa bs) (homeWrite_control s pasid pa bs)

theorem viewWrite_control (s : State) (pasid view pa : Nat) (bs : List Byte) : SameControl s (s.viewWrite pasid view pa bs) :=
  (preserveRoot_control s pa).trans ⟨rfl, rfl⟩

theorem l2Write_control (s : State) (chip pasid view pa : Nat) (bs : List Byte) : SameControl s (s.l2Write chip pasid view pa bs) :=
  .ite (viewWrite_control s pasid view pa bs) (.ite
    ((sinkL2_control s _).trans ((roomL2_control _ _ _).trans ((preserveLine_control _ _ _).trans ⟨rfl, rfl⟩)))
    (rootWrite_control s pasid pa bs))

theorem mendL2_control (s : State) (chip pa : Nat) : SameControl s (s.mendL2 chip pa) :=
  .ite (.refl s) (.ite (noteMended_control s _ _) (setPoison_control s _ _))

theorem sinkL1_control (s : State) (p : CByte → Bool) : SameControl s (s.sinkL1 p) := by
  unfold State.sinkL1
  refine SameControl.trans ?_ (.foldl (fun t m => mendL2_control t _ _) _ _)
  refine SameControl.withL1 ?_ _ _
  refine SameControl.trans ?_ (.foldl (fun t c => l2Write_control t _ _ _ _ _) _ _)
  exact .foldl (fun t c => .ite (preserveLine_control t _ _) (.refl t)) _ s

/-! ## Releases -/

theorem flushShared_control (s : State) (pasid : Nat) : SameControl s (s.flushShared pasid) := by
  unfold State.flushShared
  refine SameControl.foldl (fun t g => ?_) _ s
  split
  · exact (preserve_control t g.pa).trans ⟨rfl, rfl⟩
  · exact .refl t

theorem cleanL2_control (s : State) (chip pasid : Nat) (p : Nat → Bool) : SameControl s (s.cleanL2 chip pasid p) :=
  (sinkL2_control s _).withL2 _

theorem cleanL1_control (s : State) (core pasid : Nat) (p : Nat → Bool) : SameControl s (s.cleanL1 core pasid p) := sinkL1_control s _

theorem cleanHomes_control (s : State) : SameControl s s.cleanHomes := returnHomes_control s _

theorem release_control (s : State) (core pasid view scope : Nat) : SameControl s (s.release core pasid view scope) := by
  have hl1 : SameControl s (if worldScope view scope ≥ 2 then (s.cleanL1 core pasid everyLine).flushShared pasid else s) :=
    .ite ((cleanL1_control s _ _ _).trans (flushShared_control _ _)) (.refl s)
  have hl2 (t : State) : SameControl t (if worldScope view scope ≥ 4 then t.cleanL2 (chipOfCore core) pasid everyLine else t) :=
    .ite (cleanL2_control t _ _ _) (.refl t)
  have hhomes (t : State) : SameControl t (if worldScope view scope ≥ 6 then t.cleanHomes else t) :=
    .ite (cleanHomes_control t) (.refl t)
  exact (hl1.trans (hl2 _)).trans (hhomes _)

/-- Releases by a list of cores, and a drop of translations, leave the removals in progress as they were. -/
theorem releases_control (s : State) (cores : List Nat) (pasid view scope : Nat) :
    SameControl s (cores.foldl (fun (s : State) core => s.release core pasid view scope) s) :=
  .foldl (fun t core => release_control t core pasid view scope) cores s

theorem tlbDrop_control (s : State) (p : Nat → Bool) (pasid lo len : Nat) : SameControl s (s.tlbDrop p pasid lo len) := ⟨rfl, rfl⟩

/-! ## Walks -/

theorem readPte_control (s : State) (pasid pa : Nat) : SameControl s (s.readPte pasid pa).2 := rootRead_control s pasid pa 8

theorem setPteBits_control (s : State) (pasid pa : Nat) (dirty : Bool) : SameControl s (s.setPteBits pasid pa dirty) :=
  (readPte_control s pasid pa).trans (.ite (.refl _) (rootWrite_control _ _ _ _))

theorem pteLine_control (s : State) (pasid pa n : Nat) : SameControl s (s.pteLine pasid pa n).2 := by
  induction n with
  | zero => exact .refl s
  | succ n ih => exact ih.trans (readPte_control _ _ _)

theorem tlbPut_control (s : State) (e : TlbEntry) : SameControl s (s.tlbPut e) := ⟨rfl, rfl⟩

theorem tlbFill_control (s : State) (e : TlbEntry) : SameControl s (s.tlbFill e) :=
  .ite ⟨rfl, rfl⟩ (.ite ⟨rfl, rfl⟩ (.refl s))

theorem walkFrom_control (s : State) (unit pasid va : Nat) (ls : List Level) (node : Nat) :
    SameControl s (s.walkFrom unit pasid va ls node).2 := by
  induction ls generalizing s node with
  | nil => exact .refl s
  | cons l ls ih =>
    unfold State.walkFrom
    have hread := readPte_control s pasid (node + 8 * natBits va l.shift l.bits)
    dsimp only
    split
    · exact hread.trans (.ite ⟨rfl, rfl⟩ (.refl _))
    · split
      · exact hread.trans ⟨rfl, rfl⟩
      · split
        · split
          · exact hread.trans (pteLine_control _ _ _ _)
          · exact hread
        · refine hread.trans (SameControl.trans ?_ (ih _ _))
          exact .ite ⟨rfl, rfl⟩ (.refl _)

theorem setAllPteBits_control (s : State) (pasid : Nat) (ptes : List Nat) (dirty : Bool) :
    SameControl s (ptes.foldl (fun (s : State) p => s.setPteBits pasid p dirty) s) :=
  .foldl (fun t p => setPteBits_control t pasid p dirty) ptes s

theorem walk_control (s : State) (unit pasid va : Nat) (w : Way) : SameControl s (s.walk unit pasid va w).2 := by
  unfold State.walk
  dsimp only
  have hwalk (ls : List Level) (node : Nat) := walkFrom_control s unit pasid va ls node
  split
  · next hfound => exact (congrArg (fun x => SameControl s x.2) hfound).mp (hwalk _ _)
  · next e ptes n t hfound =>
    have hpre : SameControl s t := (congrArg (fun x => SameControl s x.2) hfound).mp (hwalk _ _)
    have hbits := hpre.trans (setAllPteBits_control t pasid ptes w.write)
    split
    · split
      · exact hpre
      · split
        · exact hpre
        · split
          · exact hpre.trans ⟨rfl, rfl⟩
          · split
            · split
              · exact hpre
              · exact hbits
            · exact hbits
    · split
      · exact hpre
      · exact hbits.trans (tlbFill_control _ _)

theorem translate_control (s : State) (unit pasid : Nat) (addr : DWord) (w : Way) : SameControl s (s.translate unit pasid addr w).2 := by
  unfold State.translate
  split
  · exact .refl s
  · dsimp only
    split
    · split
      · exact tlbFill_control s _
      · exact walk_control s _ _ _ _
    · exact walk_control s _ _ _ _

theorem askHost_control (s : State) (e : TlbEntry) : SameControl s (s.askHost e) := .ite (.refl s) ⟨rfl, rfl⟩

/-- A read in pieces keeps what each piece's read keeps. -/
theorem readVirt_control {rd : State → Nat → BitVec 2 → State × Except Xlated (List Byte)}
    (hrd : ∀ s pa attr, SameControl s (rd s pa attr).1) (unit pasid : Nat) (w : Way) (c n : Nat) (va : DWord) (s : State) :
    SameControl s (readVirt unit pasid w rd c n va s).2 := by
  induction n generalizing va s with
  | zero => exact .refl s
  | succ n ih =>
    have htr := translate_control s unit pasid va w
    unfold readVirt
    split
    · next pa attr leaf size t heq =>
      rw [heq] at htr
      have hpiece := hrd t pa attr
      split
      · next u bs hu =>
        rw [hu] at hpiece
        have hrest := ih (va + BitVec.ofNat 64 c) u
        split
        · next l v hv => rw [hv] at hrest; exact (htr.trans hpiece).trans hrest
        · next hv => rw [hv] at hrest; exact (htr.trans hpiece).trans hrest
      · next u e hu => rw [hu] at hpiece; exact htr.trans hpiece
    · next e t heq => rw [heq] at htr; exact htr.trans (askHost_control t e)
    · next heq => rw [heq] at htr; exact htr

/-- What the device reads leaves the cue as it was. -/
theorem deviceRead_control (s : State) (pasid va n : Nat) (yes : Bool) : SameControl s (s.deviceRead pasid va n yes).2 := by
  unfold State.deviceRead State.deviceReadIn
  have hread := readVirt_control (rd := fun s pa _ =>
      let (bs, s') := s.rootRead pasid pa 8
      (s', if s.unreachable pa 8 false then .error (.fault 0x0C 0 false)
        else if s.readsPoison deviceUnit pasid 0 pa 8 then .error (.fault 0x0B 0 false) else .ok (s.overView pasid 0 pa bs)))
    (fun t pa _ => rootRead_control t pasid pa 8) deviceUnit pasid .engineRead 8 (n / 8) (BitVec.ofNat 64 va) s
  split
  · next heq => rw [heq] at hread; exact hread
  · next heq => rw [heq] at hread; exact hread.trans (askHost_control _ _)
  · next heq => rw [heq] at hread; exact hread
  · next heq => rw [heq] at hread; exact hread

end Sys2Proof.Machine
end

section
/-! Events: time, completion, waits and translation. -/

namespace Sys2Proof.Machine

/-- A saved block whose mates all wait comes back as `restoreBlock` leaves it, where its places are free. -/
theorem tryRestore_alone {s t : State} {b : Block} (hoff : s.heldOff b = false) (hawaits : s.awaits b = false) (hsaved : b.res = .saved)
    (hmates : (s.blocks.filter fun x => (s.together [b.key]).contains x.key && !s.awaits x) = [b])
    (hback : s.restoreBlock b.key = some t) : s.tryRestore b = some t := by
  unfold State.tryRestore
  simp only [hmates]
  simp [hsaved, hoff, hawaits, hback]

/-- The first of those that are ready to come back does, where its own places are free. -/
theorem restoreAll_first {s t : State} {b : Block} (hfirst : s.returns.head? = some b.key) (htry : s.tryRestore b = some t) :
    s.restoreAll b = t := by
  have hnone : s.returns.takeWhile (· != b.key) = [] := by
    cases hr : s.returns with
    | nil => rfl
    | cons k ks =>
      obtain rfl : k = b.key := by simpa [hr] using hfirst
      simp
  rw [State.restoreAll, hnone, htry]
  rfl

/-- The answer to a pending entry of the log resolves it, or makes it fatal, and the group's entries that may replay do. -/
theorem answerLog_pending {s : State} {r : FRef} {yes : Bool} {e : LogEntry} {f : Flight} {l : LaneAcc}
    (he : (s.olog.find? fun x => x.block == r.block && x.gidx == r.gidx && x.flight == r.flight && x.state == .pending) = some e)
    (hl : s.loggedLane r = some (f, l)) :
    s.answerLog r yes =
      (if yes then s.putLog r { e with state := .resolved } else s.makeFatal r f e l.lane l.addr).replayAll r.block r.gidx := by
  have he' : (s.olog.find? fun x => x.is r && x.state == .pending) = some e := he
  rw [State.answerLog, he', hl]

end Sys2Proof.Machine

namespace Sys2Proof.Proofs
open Sys2Proof.Machine

/-- Settles O30: each event's own branch, with what its premises say of the state. -/
theorem timeAndCompletion : Obligations.TimeAndCompletion := by
  intro s
  refine ⟨fun h => ⟨_, ?_, rfl⟩, fun g f n hres hg hf hdue hready => ?_, fun g f hres hg hf hdue => ?_,
    fun g r va pa attr leaf size t hg hr hres hcode htr hin => ?_⟩
  · show execHeartbeatTick s = _
    have htick : Config.tick = 256 := rfl
    rw [execHeartbeatTick, htick, h, if_neg Bool.false_ne_true, State.tick, htick]
  · show execResultWriteback s = _
    simp only [execResultWriteback, hg, hf, hdue, hres, hready, Option.bind_some]
    rfl
  · show execInstructionCompletion s = _
    simp only [execInstructionCompletion, hg, hf, hdue, hres]
    rfl
  · show execInstructionFetchFill s = _
    simp only [execInstructionFetchFill, hg, hr, hcode, hres, htr, hin]
    rfl

/-- Settles O31: each event's own branch, with what its premises say of the state. -/
theorem waitsEnd : Obligations.WaitsEnd := by
  intro s
  refine ⟨fun g t hres hhold htick hg => ?_, fun b t hb hoff hch hsus hsaved hret htog hback => ?_, fun b hb hch hsus => ?_,
    fun m l lin hm hl hlin hblock => ?_, fun m hm htr hw hres hfull hq => ?_, rfl,
    fun b g n dst spots occ hb hg hhold hready hbusy hcode hplace hlive => ?_, rfl⟩
  · show execSleepWake s = _
    rw [execSleepWake]
    exact congrArg (fun t => Host.Outcome.next (State.wake t)) (if_pos hres)
  · show execSpawnResume s = _
    have hawaits : s.awaits b = false := by simp [State.awaits, hch]
    have hall := restoreAll_first hret (tryRestore_alone hoff hawaits hsaved htog hback)
    simp only [execSpawnResume, hb, hch, hsus, hall]
    rfl
  · show execSpawnResume s = _
    simp only [execSpawnResume, hb, hch, hsus]
    rfl
  · show execFetchwService s = _
    have hno : ((s.withdraw l.key lin m.by_).block? m.block).isNone = false := by simpa using hblock
    simp only [execFetchwService, hm, hl, hlin, hno]
    rfl
  · show execMailboxWrite s = _
    obtain ⟨b, hb, hq⟩ := Option.map_eq_some_iff.1 hq
    simp only [execMailboxWrite, hm, htr, hw, hres, hfull, hb, hq]
    rfl
  · show execForkwCopyPlacement s = _
    simp only [execForkwCopyPlacement, hb, hg, hhold, hready, hbusy, hcode, hplace]
    rw [if_pos hlive]
    rfl

/-- Settles O32: each event's own branch, with what its premises say of the state. -/
theorem translationEvents : Obligations.TranslationEvents := by
  intro s
  refine ⟨fun unit pasid va k hn hc hw => ?_, fun hn => ?_, fun hup hn => ?_, ?_,
    fun a hpa more ha hy hn hu => ?_, fun a ha hy => ?_,
    ?_, fun p va len hn hlen hleave => ?_, fun c hc hd => ?_⟩
  · show execPageWalk s = _
    have hsome : (s.ctx? pasid).isNone = false := by simpa using hc
    simp only [execPageWalk, hn, hsome, hw]
    rfl
  · show execPageWalk s = _
    simp only [execPageWalk, hn]
  · show execPageFaultAnswer s = _
    simp only [execPageFaultAnswer, hn, hup]
    rfl
  · intro e f l hup hn r he hl
    have hans : exec .pageFaultAnswer s = .next (s.answerLog r s.cue.yes).wake := by
      show execPageFaultAnswer s = _
      simp only [execPageFaultAnswer, hn, hup]
      rfl
    rw [hans, answerLog_pending he hl]
    exact ⟨fun hy => by rw [if_pos hy], fun hy => by rw [if_neg (by simp [hy])]⟩
  · show execAtsTranslationCompletion s = _
    simp only [execAtsTranslationCompletion, ha, hy, hn]
    rw [if_pos trivial, if_pos hu]
  · show execAtsTranslationCompletion s = _
    simp only [execAtsTranslationCompletion, ha, hy]
    rfl
  · intro a ha all ls t
    have hexec : exec .pageRequestGroupResponse s = execPageRequestGroupResponse s := rfl
    rw [hexec, execPageRequestGroupResponse, ha]
    refine ⟨fun hy hall => ?_, fun hy hall => ?_, fun hy => ?_⟩
    · show Host.Outcome.next (State.wake (if s.cue.yes = true then _ else _)) = _
      rw [if_neg (by simp [hy]), if_neg hall]
    · show Host.Outcome.next (State.wake (if s.cue.yes = true then _ else _)) = _
      rw [if_neg (by simp [hy]), if_pos hall]
      have hls : s.hostLanes a true = [] := hall
      rw [hls]
      rfl
    · show Host.Outcome.next (State.wake (if s.cue.yes = true then _ else _)) = _
      exact congrArg (fun t => Host.Outcome.next (State.wake t)) (if_pos hy)
  · show execAtsInvalidation s = _
    have hkeep (u : State) (hu : u.leaving = s.leaving) : (u.leaving.find? fun x => x.1 == p) = none := by rw [hu, hleave]
    simp only [execAtsInvalidation, hn, if_neg hlen]
    rw [hkeep _ ((releases_control s (List.range 128) p 0 5).trans (tlbDrop_control _ _ _ _ _)).leaving]
  · show execPasidTeardown s = _
    simp only [execPasidTeardown, hc, hd]

end Sys2Proof.Proofs
end

section
/-! Events: the matrix engines and the fabric. -/

namespace Sys2Proof.Machine

/-- A filter that passes all of a list passes it whole, and its complement nothing. -/
theorem filter_split_of_all {α : Type} {p : α → Bool} {l : List α} (h : ∀ a ∈ l, p a = true) :
    l.filter p = l ∧ (l.filter fun a => !p a) = [] :=
  ⟨List.filter_eq_self.2 h, List.filter_eq_nil_iff.2 fun a ha => by simp [h a ha]⟩

/-- A chunk of a PUT whose window is of this package, or the host's, is written where the window takes it. -/
theorem moveChunk_local {s t u v : State} {r : FabReq} {o port : Nat} {ps : List (Nat × List Byte × Bool)} {w : Window}
    (hread : readPieces r.own r.addr r.off (r.chunk o) s = (.ok ps, t)) (hown : (r.host || t.isOwn r.pasid r.target) = true)
    (hwin : t.window? r.pasid r.win r.refused = (some w, u)) (htakes : w.refuses true r.off r.n = none)
    (hwrite : writePieces r.far w.base 0 ps u = (none, v)) :
    s.moveChunk r o port = v.onReq r.key fun q => { q with todo := q.todo.filter (· != o) } := by
  rw [State.moveChunk]
  simp only [hread, hown, hwin, htakes, hwrite]
  rfl

/-- A chunk that is still to be moved, with a route that no port holds up, moves. -/
theorem putChunk_moves {s : State} {key o port : Nat} {r : FabReq} (hr : s.fabReq? key = some r) (hcode : r.code = 0)
    (htodo : r.todo.contains o = true) (hroute : s.route o = some port)
    (hgo : (r.host || s.isOwn r.pasid r.target || !s.portWaits port 1) = true) : State.putChunk key s o = s.moveChunk r o port := by
  have hno : ¬ (r.code ≠ 0 ∨ ¬ r.todo.contains o = true) := not_or.2 ⟨not_not_intro hcode, not_not_intro htodo⟩
  rw [State.putChunk]
  simp only [hr, hroute]
  rw [if_neg hno, if_pos hgo]

/-- A chunk of a GET from a window of this package is read. -/
theorem getChunk_reads {s t u : State} {key o port : Nat} {r : FabReq} {ps : List (Nat × List Byte × Bool)} {w : Window}
    (hr : s.fabReq? key = some r) (hcode : r.code = 0) (htodo : r.todo.contains o = true) (hhost : r.host = false)
    (hroute : s.route o = some port) (hown : s.isOwn r.pasid r.target = true) (hwin : s.window? r.pasid r.win r.refused = (some w, t))
    (htakes : w.refuses false r.off r.n = none) (hread : readPieces r.far w.base 0 (r.chunk o) t = (.ok ps, u)) :
    State.getChunk key s o = u.onReq key fun q =>
      { q with
        todo := q.todo.filter (· != o), left := q.left ++ [o]
        data := q.data ++ [⟨o, ps.flatMap fun p => p.2.1, (ps.filter fun p => p.2.2).map fun p => p.1 / 16 - o / 16⟩] } := by
  have hno : ¬ (r.code ≠ 0 ∨ ¬ r.todo.contains o = true) := not_or.2 ⟨not_not_intro hcode, not_not_intro htodo⟩
  rw [State.getChunk]
  simp only [hr]
  rw [if_neg hno]
  simp only [hhost, hroute, hown, hwin, htakes, Bool.false_eq_true, if_false, hread]
  rfl

/-- A packet that finds a request buffer, at a port whose log is not full, waits in it and is handled. -/
theorem arrive_room {s : State} {a : Arrival} (hroom : (s.inbox.filter fun x => x.port == a.port).length < 4096)
    (hstop : s.logStops a.port = false) :
    let t := s.logPacket a.pasid a.port
      (flits ([if a.put then 0 else 1, a.sender, a.tag, a.win, a.off, a.n, a.at_, a.port] ++ a.bad) a.bytes)
    s.arrive a = (({ t with inbox := t.inbox ++ [a] } : State).setStop a.port).deliverAll := by
  have hfree : ¬ (Config.requestBuffers ≤ (s.inbox.filter fun x => x.port == a.port).length || s.logStops a.port) = true := by
    have : Config.requestBuffers = 4096 := rfl
    simp only [hstop, this]
    simpa using hroom
  rw [State.arrive, if_neg hfree]

/-- What lies below 2 ^ 39 the host reaches. -/
theorem hostReaches_low {s : State} {pa n : Nat} (h : pa + n ≤ 2 ^ 39) : s.hostReaches pa n = true := by
  simp only [State.hostReaches, h, decide_true, Bool.true_or]

end Sys2Proof.Machine

namespace Sys2Proof.Proofs
open Sys2Proof.Machine

/-- Settles O34: each event's own branch, with what its premises say of the state. -/
theorem matrixEvents : Obligations.MatrixEvents := by
  intro s
  refine ⟨?_, ?_, ?_⟩
  · intro r hr himage hfree g f n m dst hg hf hop a
    show execMxAllocGrant s = _
    simp only [execMxAllocGrant, hr, himage, hfree, Bool.false_eq_true, if_false]
    show Host.Outcome.next (State.wake (match (s.group? r.block r.gidx).bind fun g => g.flight? r.flight with
      | none => _
      | some f => _)) = _
    rw [hg, Option.bind_some, hf]
    simp only [hop]
    rfl
  · intro e he g t
    show execMxEntryGrant s = _
    simp only [execMxEntryGrant, he]
    rfl
  · intro e he hgranted hended hdone hup hstuck hnums hvoid hheld
    show execMxEntryCompletion s = _
    have hrun : (e.granted.isNone || e.ended != 0 || decide (s.planeCycle < e.streamDone) || (e.emu && s.updating) ||
        s.releaseStuck (s.mxView e) e.scope) = false := by
      have hg : e.granted.isNone = false := by simpa using hgranted
      simp [hended, hup, hstuck, hdone, hg]
    have hall : ∀ o ∈ e.outs.zipIdx, (false || ((s.cue.nums == [] || s.cue.nums.contains o.2) && !s.mxOutHeld e o.1)) = true := by
      intro o ho
      simp [hnums, hheld o.1 (List.fst_mem_of_mem_zipIdx ho)]
    obtain ⟨hnow, hleft⟩ := filter_split_of_all hall
    simp only [execMxEntryCompletion, he, hrun, hvoid, hnow, hleft]
    simp only [hnums, List.map_nil, Bool.false_eq_true, if_false, and_self, if_true]

/-- Settles O35: each event's own branch, with what its premises say of the state. -/
theorem fabricEvents : Obligations.FabricEvents := by
  intro s
  refine ⟨fun hy hk => ?_, fun hy => ?_, fun r hr hkind hy hn => ?_, ?_, fun a hy ha => ?_, ?_, fun r hr hkind hcode => ?_,
    fun r hr hkind hy hn => ?_, ?_, fun a hy ha => ?_, fun r hr hkind hhost hdata htodo hleft => ?_, ?_, fun r hr hkind hcode => ?_,
    ?_, ?_, ?_, fun it hit hkind hy => ?_, ?_, ?_, ?_⟩
  · show execLinkReplay s = _
    simp only [execLinkReplay, hy, hk]
    rfl
  · show execLinkReplay s = _
    simp only [execLinkReplay, hy]
    rfl
  · show execPutDelivery s = _
    simp only [execPutDelivery, hy, hr, hkind, hn]
    rfl
  · intro r o port ps w t u v hr hkind hy hn hcode htodo hroute hread hown hgo hwin htakes hwrite
    show execPutDelivery s = _
    simp only [execPutDelivery, hy, hr, hkind, hn, List.foldl_cons, List.foldl_nil, List.cons_ne_nil, if_false,
      putChunk_moves hr hcode htodo hroute hgo, moveChunk_local hread hown hwin htakes hwrite]
    rfl
  · show execPutDelivery s = _
    simp only [execPutDelivery, hy, ha]
    rfl
  · intro a hy ha hroom hstop t
    show execPutDelivery s = _
    simp only [execPutDelivery, hy, ha, if_true]
    rw [arrive_room hroom hstop]
  · show execPutAcknowledgement s = _
    simp only [execPutAcknowledgement, hr, hkind]
    rw [if_neg (by simp [hcode]), if_pos hcode, if_pos hcode]
  · show execGetRequest s = _
    simp only [execGetRequest, hy, hr, hkind, hn]
    rfl
  · intro r o port ps w t u hr hkind hy hn hcode htodo hhost hroute hown hwin htakes hread
    show execGetRequest s = _
    simp only [execGetRequest, hy, hr, hkind, hn, List.foldl_cons, List.foldl_nil, List.cons_ne_nil, if_false,
      getChunk_reads hr hcode htodo hhost hroute hown hwin htakes hread]
    rfl
  · show execGetRequest s = _
    simp only [execGetRequest, hy, ha]
    rfl
  · show execGetResponse s = _
    simp only [execGetResponse, hr, hkind, hhost, hdata]
    rw [if_neg (not_not_intro rfl)]
    simp only [Bool.true_or, Bool.not_true, Bool.false_and, Bool.false_eq_true, if_false, List.foldl_nil, hr]
    rw [if_pos (Or.inr ⟨htodo, hleft⟩)]
  · intro q r t hq hkind hres hcode hy hplace hlost hwait x
    show execNmoRequest s = _
    simp only [execNmoRequest, hy, hq, hkind, hres, hcode, hplace, hlost, hwait]
    rfl
  · show execNmoResponse s = _
    simp only [execNmoResponse, hr, hkind]
    rw [if_neg (not_not_intro rfl), if_pos hcode]
  · intro r res st b off hr hkind hcode hres hnores hord hloc htr hw t
    show execNmoResponse s = _
    simp only [execNmoResponse, hr, hkind, hcode, hres, hnores, hord, hloc, htr, hw]
    rfl
  · intro port tag pasid pa wide data e hy hn hfull t
    show execPoolAtomicRequest s = _
    simp only [execPoolAtomicRequest, hy, hn, hfull]
    rfl
  · intro c hc hsince
    show execWindowOfArrivalEnd s = _
    simp only [execWindowOfArrivalEnd, hc]
    rw [if_neg]
    cases hreqs : c.reqs with
    | nil => exact Bool.false_ne_true
    | cons r rs => simpa [hreqs] using hsince
  · show execCollectiveChunk s = _
    simp only [execCollectiveChunk, hy, hit, hkind]
    rfl
  · intro pasid seq chunk member digest bad hy hn hstop t
    show execCollectiveChunk s = _
    simp only [execCollectiveChunk, hy, hn, hstop]
    rfl
  · intro pa hy hn hpa hlen
    show execHostMemoryAccess s = _
    simp only [execHostMemoryAccess, hy, hn, hostReaches_low hlen]
    rw [if_neg (by decide), if_neg (by omega)]
  · intro hk hport t u
    show execPortFailure s = _
    have hno : ¬ (32 ≤ s.cue.key ∨ s.ports.contains s.cue.key = true) :=
      not_or.2 ⟨by omega, by rw [hport]; exact Bool.false_ne_true⟩
    rw [execPortFailure, if_neg hno]

end Sys2Proof.Proofs
end

section
/-! Events: queues and their packets. -/

namespace Sys2Proof.Machine

/-- The pseudo-block of a prologue that begins. -/
def prologueBlock (key : Nat) (q : Queue) : Block :=
  { key := key, launch := 0, pasid := q.pasid, lin := 0, bx := 0, byy := 0, bz := 0, ngroups := 1, home := 0, spread := false
    res := .running, vault := Alloc.empty, issued := 0, wide := false, children := 0, share := none, bcells := [], xcells := [], view := 0
    worldIdx := 0, why := 0 }

/-- Its one group, on the packet's batten core. -/
def State.prologueGroup (s : State) (p : Packet) : Group :=
  let g := Group.start s.nextKey 0 (BitVec.ofNat 32 p.core) 0 (BitVec.ofNat 57 p.prologue) (BitVec.ofNat 64 p.record) (BitVec.ofNat 64 p.runs)
    s.nextAge
  { g with front := true, act := 1, lastRun := 1, sregs := g.sregs.set 2 (BitVec.ofNat 64 p.value) }

/-- The state in which the prologue of a packet has begun. -/
def State.withPrologue (s : State) (q : Queue) (p : Packet) : State :=
  let t := (State.acquire { s with nextKey := s.nextKey + 1 } (battenUnit p.core) q.pasid 0 6)
  { t with blocks := t.blocks ++ [prologueBlock s.nextKey q], others := t.others ++ [s.prologueGroup p] }

/-- A read of a queue's write index that finds what the ring may hold reads the packets up to it. -/
theorem scanned_within {s : State} {q : Queue} {j limit : Nat} {yes : Bool} (hstop : q.stopped = false) (hlo : q.rd ≤ j)
    (hhi : j ≤ q.rd + 2 ^ q.log2n) (hlimit : j - q.rd ≤ limit) :
    s.scanned q j limit yes =
      let k := if q.rd < j then 0 else min 10 (q.k + 1)
      State.readPackets q.pasid q.num yes (j - q.rd)
        (s.onQueue q.pasid q.num fun x => { x with k := k, due := s.cycle + min 800000 (800 * 2 ^ k), asked := false }) := by
  rw [State.scanned]
  simp only [hstop, Bool.false_eq_true, if_false]
  rw [if_neg (by omega), Nat.min_eq_left hlimit]

/-- The end of a prologue whose code is selected: the release is made, and the prologue leaves its core once its act is done. -/
theorem prologueEnd_selected {ok : Nat → Nat → Bool} {act : State → Queue → Packet → Bool × State} {s : State} {q : Queue} {p : Packet}
    {g : Group} {k n : Nat} (hp : s.packet? s.cue.nums = some (q, p)) (hpro : p.pro = some k) (hcode : s.prologueCode p = some n)
    (hg : s.group? k 0 = some g) (hok : ok n p.runs = true) :
    let r := act (s.release (s.coreOfGroup g) q.pasid 0 5) q p
    prologueEnd ok act s = .next (if r.1 then (r.2.forget g.block).arbitrate else r.2).wake := by
  intro r
  simp only [prologueEnd, hp, hcode, hpro, Option.bind_some, hg, hok]
  show Host.Outcome.next (State.wake (match r with | (true, s) => (s.forget g.block).arbitrate | (false, s) => s)) = _
  obtain ⟨done, t⟩ := r
  cases done <;> rfl

end Sys2Proof.Machine

namespace Sys2Proof.Proofs
open Sys2Proof.Machine

/-- Settles O36: each event's own branch, with what its premises say of the state. -/
theorem queueEvents : Obligations.QueueEvents := by
  intro s
  refine ⟨fun c t hc hdue hbase hbegun htab => ?_, fun pasid num more q t hn hq hmay hasked hvalid hread => ?_, ?_,
    fun q p hp htype hst => ?_, fun q p hp hst hnext => ?_, ?_, ?_, fun q p b hp hb hbudget => ?_,
    fun q p pa attr leaf size t hp htype hst htr => ?_, ?_, fun hempty => ?_, ?_, fun pasid num idx q hn hq hserv => ?_⟩
  · show execQueueTableRead s = _
    have hno : ¬ (s.cycle < c.qdue ∨ c.qbase = 0 ∨ (!c.begun) = true) :=
      not_or.2 ⟨Nat.not_lt.2 hdue, not_or.2 ⟨hbase, by simp [hbegun]⟩⟩
    simp only [execQueueTableRead, hc]
    rw [if_neg hno, htab]
    rfl
  · show execScannerRead s = _
    simp only [execScannerRead, hn, hq, hmay, hasked, hvalid]
    simp only [Bool.not_true, Bool.false_eq_true, if_false, if_true, hread]
  · intro pasid num q bs t hn hq hmay hasked hvalid hstop hpasid hnum n hread hlo hhi hlim k u
    show execScannerRead s = _
    simp only [n] at hread
    simp only [execScannerRead, hn, hq, hmay, hasked, hvalid]
    simp only [Bool.not_true, Bool.false_eq_true, if_false, hread]
    have hall := scanned_within (s := t) (yes := s.cue.yes) hstop hlo hhi hlim
    rw [hpasid, hnum] at hall
    have hcue : t.cue = s.cue := by
      have hkeep := (deviceRead_control (State.podAcquire { s with scans := (s.cycle, n) }) pasid q.widx 8 s.cue.yes).cue
      simp only [n] at hkeep
      rw [hread] at hkeep
      exact hkeep
    rw [hcue]
    exact congrArg (fun x => Host.Outcome.next (State.wake (State.arbitrate x))) hall
  · show execNop s = _
    simp only [execNop, hp, htype, hst]
    rfl
  · show execLaunch s = _
    simp only [execLaunch, hp, hst, hnext, BEq.rfl, Bool.and_true, if_true]
  · intro q p hp hst htype hpro hlaunch hup hcore
    have hno : (!p.started || p.type != 2 || p.pro.isSome || p.launch.isSome || s.updating ||
        s.groups.any fun g => g.front && g.locid.toNat == p.core) = false := by
      simp only [hst, htype, hpro, hlaunch, hup, hcore]
      rfl
    refine ⟨s.withPrologue q p, prologueBlock s.nextKey q, s.prologueGroup p, ?_, rfl, ?_, rfl, rfl, ?_, rfl, rfl, rfl, ?_⟩
    · show execIndirect s = _
      simp only [execIndirect, hp, hno]
      rfl
    · exact List.mem_append_right _ (List.mem_singleton.2 rfl)
    · exact List.mem_append_right _ (List.mem_singleton.2 rfl)
    · exact Vector.getElem_set_self _
  · intro q p g k n act hp hpro hcode hg hact t
    subst hact
    refine ⟨fun h => ?_, fun h => ?_, fun h hr => ?_⟩
    · have hok : (n == 0 || (n == 2 && p.runs == 65535)) = true := by
        obtain rfl | ⟨rfl, hr⟩ := h
        · rfl
        · simp [hr]
      exact prologueEnd_selected (ok := fun k r => k == 0 || (k == 2 && r == 65535)) (act := fun s q p => s.submit q p false)
        hp hpro hcode hg hok
    · exact prologueEnd_selected (ok := fun k _ => k == 1) (act := fun s q p => (true, s.dropPacket q.pasid q.num p.idx))
        hp hpro hcode hg (beq_iff_eq.2 h)
    · have hok : (n == 2 && p.runs != 65535) = true := by simp [h, hr]
      exact prologueEnd_selected (ok := fun k r => k == 2 && r != 65535) (act := fun s q p => s.submit q p true) hp hpro hcode hg hok
  · show execPrologueBudgetExceeded s = _
    have hover : s.overBudget p = true := by simp [State.overBudget, hb, hbudget]
    simp only [execPrologueBudgetExceeded, hp, hover]
    rfl
  · show execSignal s = _
    simp only [execSignal, hp, htype, hst, htr]
    rfl
  · intro q p hp htype hst t
    have hexec : exec .waitge s = .next (match t.deviceRead q.pasid p.addr 8 true with
        | (.lost, u) => if s.cue.yes then (u.stopQueue q.pasid q.num 0x03 p.idx).arbitrate else t
        | _ => t).wake := by
      show execWaitge s = _
      simp only [execWaitge, hp, htype, hst]
      rfl
    rw [hexec]
    refine ⟨fun h => ?_, fun u hu hy => by rw [hu]; simp only [hy, if_true]⟩
    split
    · next u hu => exact absurd hu (h u)
    · rfl
  · show execArbiterVisit s = _
    simp only [execArbiterVisit, hempty]
    rfl
  · intro pasid num t u v ht
    have hexec : exec .arbiterVisit s = .next (State.wake (State.arbitrate
        (if (match v.queue? pasid num with | some q => v.activeQueue q | none => false) then { v with arbAt := t.arbAt % t.arbiter.length + 1 }
        else { (v.onQueue pasid num fun q => { q with deficit := 0 }) with
          arbiter := v.arbiter.filter (· != (pasid, num)), arbAt := t.arbAt % t.arbiter.length }))) := by
      show execArbiterVisit s = _
      rw [execArbiterVisit]
      simp only [t] at ht
      simp only [ht]
      rfl
    rw [hexec]
    cases hq : v.queue? pasid num with
    | none => exact ⟨fun _ h => absurd h (by simp), fun _ => rfl⟩
    | some q =>
      refine ⟨fun h _ => ?_, fun h => ?_⟩
      · rw [if_pos (h q rfl)]
      · rw [if_neg (by simpa using h q rfl)]
  · show execQueueRestart s = _
    simp only [execQueueRestart, hn, hq, hserv]
    rfl

end Sys2Proof.Proofs
end

section
/-! Events: placement, pre-emption and snapshots. -/

namespace Sys2Proof.Machine

/-- A launch at the front that is not held off and whose first unit finds its places is the next to be placed. -/
theorem placeNext_first {s : State} {l : Launch} {ls : List Launch} {spots : List (Nat × Spot)} {occ : Occ} (hheld : s.launchHeld l = false)
    (hunit : l.unit ≠ [])
    (hplace : placeUnit (s.site l.pasid) (s.clusters l.pasid) (l.unit.map l.want) (s.setKeys l) s.occ = some (spots, occ)) :
    s.placeNext [] (l :: ls) = some (spots.foldl (fun (u : State) x => u.installBlock ((u.launch? l.key).getD l) x.1 x.2) s) := by
  unfold State.placeNext
  simp only [List.any_nil, hheld, hunit, hplace, Bool.false_or, decide_false, Bool.false_eq_true, if_false, Option.map_some]

/-- Where firmware serves it does not update itself. -/
theorem updating_of_serving {s : State} (h : s.serving = true) : s.updating = false := by
  simp only [State.serving, Bool.and_eq_true, Bool.not_eq_true'] at h
  obtain ⟨⟨hup, -⟩, -⟩ := h
  exact hup

/-- A block that completes, or whose context takes a cut, is not saved. -/
theorem blockSave_waits {s : State} {b : Block} (hb : s.block? s.cue.key = some b)
    (h : s.completing s.cue.key = true ∨ s.cutHolds b.pasid = true) : execBlockSave s = .next s.wake := by
  have hwaits : (s.completing s.cue.key || (((s.block? s.cue.key).map fun b => s.cutHolds b.pasid).getD false ||
      s.holdsGranules s.cue.key)) = true := by
    rw [hb]
    obtain h | h := h <;> simp [h]
  rw [execBlockSave]
  simp only [hwaits, if_true]

end Sys2Proof.Machine

namespace Sys2Proof.Proofs
open Sys2Proof.Machine

/-- Settles O37: each event's own branch, with what its premises say of the state. -/
theorem placementAndPreemption : Obligations.PlacementAndPreemption := by
  intro s
  refine ⟨fun h => ?_, fun l ls spots occ hret hl hheld hunit hplace => ?_, fun g l hg hres hfront hlaunch => ?_,
    fun pasid c hy hserv hn hc => ?_, fun b k hb hres hcomp => ?_, fun b n k hb hres hlate hcomp => ?_,
    fun b n k hb hres hcomp => ⟨?_, ?_⟩, fun b hy hp hlast => ?_, fun b hb hcomp hcut hgran => ⟨fun hres hr => ?_, fun hres hr => ?_, fun hres hr => ?_⟩,
    fun b hb h => blockSave_waits hb h, fun b hb hy => ?_, fun b t hb hy hoff hch hres hret hmates hback => ?_⟩
  · show execBlockPlacement s = _
    simp only [execBlockPlacement, h]
    rfl
  · show execBlockPlacement s = _
    simp only [execBlockPlacement, hret, hl, List.any_nil, placeNext_first hheld hunit hplace]
    rfl
  · show execGroupCompletion s = _
    simp only [execGroupCompletion, hg, hres, hfront, hlaunch]
    rfl
  · show execPreemptionRequest s = _
    simp only [execPreemptionRequest, hy, hn, hserv, hc]
    rfl
  · show execDrainExhausted s = _
    simp only [execDrainExhausted, hb, Option.map_some, hres, hcomp]
    rfl
  · show execDrainTimeout s = _
    have hno : (decide (s.hbeat.toNat < k + 4096) || s.completing s.cue.key) = false := by
      rw [hcomp, decide_eq_false (by omega)]
      rfl
    simp only [execDrainTimeout, hb, Option.map_some, hres, hno, Bool.false_eq_true, if_false]
  · show execDrainExhausted s = _
    simp only [execDrainExhausted, hb, Option.map_some, hres, hcomp]
    cases n <;> rfl
  · show execDrainTimeout s = _
    simp only [execDrainTimeout, hb, Option.map_some, hres, hcomp, Bool.or_true, if_true]
  · show execPreemptionRequest s = _
    simp only [execPreemptionRequest, hy, hp, hlast]
    rfl
  · show execBlockSave s = _
    simp only [execBlockSave, hb, hcomp, hcut, hgran, hres, hr, Option.map_some]
    rfl
  · show execBlockSave s = _
    simp only [execBlockSave, hb, hcomp, hcut, hgran, hres, hr, Option.map_some]
    rfl
  · show execBlockSave s = _
    simp only [execBlockSave, hb, hcomp, hcut, hgran, hres, hr, Option.map_some]
    rfl
  · show execBlockRestore s = _
    simp only [execBlockRestore, hb, hy]
    rfl
  · show execBlockRestore s = _
    have hawaits : s.awaits b = false := by simp [State.awaits, hch]
    have hall := restoreAll_first hret (tryRestore_alone hoff hawaits hres hmates hback)
    simp only [execBlockRestore, hb, hy]
    exact congrArg (fun u => Host.Outcome.next (State.wake u)) hall

/-- Settles O38: each event's own branch, with what its premises say of the state. -/
theorem snapshotEvents : Obligations.SnapshotEvents := by
  intro s
  refine ⟨fun pasid k t hserv hkey hn hown hdesc hclaim => ?_, fun pasid num n c hn hc hst hcut hdue hle hready => ?_,
    fun pasid num p at_ c x hn hnum hx hc hst => ?_, ?_, fun pasid num c r hn hc hr hy hroom => ?_,
    fun pasid num c r hn hc hst hcut hup hy hr hout hun hfree hown => ?_, fun pasid num c hn hc hst hall hfree hup hy hown => ?_,
    fun pasid num code hn hlo hhi => ?_⟩
  · show execSnapshotClaim s = _
    have hup : s.updating = false := updating_of_serving hserv
    simp only [execSnapshotClaim, hup, hkey, hn, hserv, hown, hdesc]
    show Host.Outcome.next (State.wake (match s.claim pasid s.cue.bytes none true with | some (k, s) => _ | none => _)) = _
    rw [hclaim]
  · show execSnapshotCut s = _
    simp only [execSnapshotCut, hn, hc, hst, hcut, hdue, hle, hready]
    rfl
  · show execMarkerArrival s = _
    have hgo : (decide (2 ≤ num) || (s.ctx? pasid).isNone) = false := by
      rw [hx, decide_eq_false (by omega)]
      rfl
    have hsame : s.markBegins pasid num c.seq = s := by
      rw [State.markBegins, hc]
      exact if_neg (Nat.lt_irrefl _)
    have hlive : (c.st == .free || c.seq != c.seq) = false := by simp [hst]
    simp only [execMarkerArrival, hn, hgo, Bool.false_eq_true, if_false, hsame, ite_self, hc, hlive]
  · intro pasid num seq p c d x hn hnum hx hc hlt t hd hst hseq
    show execMarkerArrival s = _
    have hgo : (decide (2 ≤ num) || (s.ctx? pasid).isNone) = false := by
      rw [hx, decide_eq_false (by omega)]
      rfl
    have hbegins : s.markBegins pasid num seq = t := by
      rw [State.markBegins, hc]
      exact if_pos hlt
    have hlive : (d.st == .free || d.seq != seq) = false := by simp [hst, hseq]
    simp only [execMarkerArrival, hn, hgo, Bool.false_eq_true, if_false, true_or, if_true, hbegins, hd, hlive]
  · show execEaveSweep s = _
    have hfits : (((s.stager r).map fun k => s.stageFull k r.size).getD false) = false := by
      cases hs : s.stager r with
      | none => rfl
      | some k => exact hroom k hs
    simp only [execEaveSweep, hn, hc, hr, hy, hfits, Bool.false_eq_true, if_false]
  · show execStreamerWrite s = _
    have hlive : (c.st == .free || !c.cut || s.updating) = false := by simp [hst, hcut, hup]
    simp only [execStreamerWrite, hn, hc, hlive, hy, hr, hout, hun, hfree, hown]
    rfl
  · show execColourClosing s = _
    simp only [execColourClosing, hn, hc, hst, hall, hfree, hup, hy, hown, Bool.or_true]
    rfl
  · show execSnapshotFailure s = _
    simp only [execSnapshotFailure, hn]
    rw [if_pos ⟨hlo, hhi⟩]

end Sys2Proof.Proofs
end

section
/-! Events: reliability. -/

namespace Sys2Proof.Machine

/-- With no colour nothing is lost to one. -/
theorem lostToColours_none {s : State} (h : s.colours = []) (hit : SnapRef → Bool) : s.lostToColours hit = s := by
  rw [State.lostToColours, h]
  rfl

/-- The state in which a mismatch of the Ridge pair has been noted and the pair reloaded. -/
def State.ridgeNoted (s : State) : State :=
  let t := s.logError ErrKind.ridge 0 [s.hbeat.toNat]
  { t with mgmt := { t.mgmt with ridge := some s.hbeat.toNat, pair := (s.mgmt.pair.1, s.mgmt.pair.1) } }

/-- A mismatch within 2^22 ticks of the last one. -/
def State.ridgeAgain (s : State) : Bool := match s.mgmt.ridge with | some x => decide (s.hbeat.toNat ≤ x + 2 ^ 22) | none => false

theorem ridgeAgain_false {s : State} (h : ∀ x ∈ s.mgmt.ridge, x + 2 ^ 22 < s.hbeat.toNat) : s.ridgeAgain = false := by
  unfold State.ridgeAgain
  split
  · next x hx => exact decide_eq_false (Nat.not_le.2 (h x hx))
  · rfl

theorem ridgeAgain_true {s : State} {x : Nat} (hx : s.mgmt.ridge = some x) (h : s.hbeat.toNat ≤ x + 2 ^ 22) : s.ridgeAgain = true := by
  rw [State.ridgeAgain, hx]
  exact decide_eq_true h

/-- A mismatch of the Ridge pair while no update is tried. -/
theorem ridgeMismatch_idle {s : State} (h : s.mgmt.update = .idle) :
    s.ridgeMismatch = if s.ridgeAgain then s.ridgeNoted.containEvery.reply "RIDGE_MISMATCH" 1 [] else s.ridgeNoted := by
  have hidle : ¬ (s.ridgeNoted.mgmt.update == UpdateState.trial) = true := by
    rw [show s.ridgeNoted.mgmt.update = s.mgmt.update from rfl, h]
    decide
  rw [State.ridgeMismatch]
  show (if s.ridgeAgain = true then
      (State.containEvery (if (s.ridgeNoted.mgmt.update == UpdateState.trial) = true then s.ridgeNoted.rollBack else s.ridgeNoted)).reply
        "RIDGE_MISMATCH" 1 []
    else if (s.ridgeNoted.mgmt.update == UpdateState.trial) = true then s.ridgeNoted.rollBack else s.ridgeNoted) = _
  rw [if_neg hidle]

/-- A core's L1 without the bytes of a granule. -/
def State.withoutL1 (s : State) (core pasid view pa : Nat) : State :=
  { s with
    l1 := s.l1.filter fun c => !(c.unit == core && (c.pasid == pasid && c.view == view && c.pa / 16 == pa / 16))
    mended := s.mended.filter (· != (core, granOf pa)) }

/-- An uncorrectable error in clean bytes of an L1, with no snapshot in progress, drops them. -/
theorem loseL1_clean {s : State} {core pasid view pa : Nat} (hcol : s.colours = [])
    (hclean : ∀ c ∈ s.l1, c.unit = core → c.pasid = pasid → c.view = view → c.pa / 16 = pa / 16 → c.dirty = false) :
    s.loseL1 core pasid view pa = s.withoutL1 core pasid view pa := by
  have hnone : (s.l1.any fun c => (c.unit == core && c.inGranule pasid view pa) && c.dirty) = false := by
    rw [List.any_eq_false]
    intro c hc
    simp only [CByte.inGranule, Bool.and_eq_true, beq_iff_eq, not_and, Bool.not_eq_true]
    rintro ⟨hu, ⟨hp, hv⟩, ha⟩
    exact hclean c hc hu hp hv ha
  rw [State.loseL1]
  simp only [hnone]
  exact lostToColours_none (s := s.withoutL1 core pasid view pa) hcol _

end Sys2Proof.Machine

namespace Sys2Proof.Proofs
open Sys2Proof.Machine

/-- Settles O39: each event's own branch, with what its premises say of the state. -/
theorem reliabilityEvents : Obligations.ReliabilityEvents := by
  intro s
  refine ⟨rfl, rfl, fun hq hheld hy hlow => ?_, fun hy => ?_, ?_, ?_, ?_, ?_,
    ⟨_, rfl, rfl, rfl, rfl, rfl, rfl, rfl, rfl, rfl, rfl, rfl⟩, rfl, fun c hc => ?_, rfl, rfl, rfl⟩
  · show execPageScrub s = _
    have hgo : (!s.mgmt.quarantine.contains s.cue.key || s.pageHeld s.cue.key) = false := by rw [hq, hheld]; rfl
    simp only [execPageScrub, hgo, hy, Bool.false_eq_true, if_false, if_pos hlow]
    rfl
  · show execOpportunisticReplay s = _
    simp only [execOpportunisticReplay, hy]
  · intro x n hy hx hn t u on
    have hexec : exec .opportunisticReplay s = .next (State.wake (if n < 8 ∨ u.mgmt.retired.contains s.cue.key = true then u
        else on.foldl (fun (v : State) k => v.saveTogether k (some 0)) { u with mgmt := { u.mgmt with retired := u.mgmt.retired ++ [s.cue.key] } })) := by
      show execOpportunisticReplay s = _
      simp only [execOpportunisticReplay, hy, hx, hn]
      rfl
    rw [hexec]
    refine ⟨fun h => by rw [if_pos (show n < 8 ∨ u.mgmt.retired.contains s.cue.key = true from h)], fun hlo hret => ?_⟩
    have hno : ¬ (n < 8 ∨ u.mgmt.retired.contains s.cue.key = true) :=
      not_or.2 ⟨by omega, by rw [show u.mgmt.retired = s.mgmt.retired from rfl, hret]; exact Bool.false_ne_true⟩
    rw [if_neg hno]
    rfl
  · intro hidle t u
    have hexec : exec .ridgeMismatch s = .next s.ridgeMismatch.wake := rfl
    rw [hexec, ridgeMismatch_idle hidle]
    refine ⟨fun h => ?_, fun x hx hle => ?_⟩
    · rw [ridgeAgain_false h]
      rfl
    · rw [ridgeAgain_true hx hle]
      rfl
  · rintro a core pasid view pa hn rfl hclean hcol
    show execUncorrectableError s = _
    rw [execUncorrectableError, hn, State.storageError, loseL1_clean hcol hclean]
    rfl
  · intro r hn hr t
    show execUncorrectableError s = _
    rw [execUncorrectableError, hn, State.storageError, Nat.mod_eq_of_lt hr]
    simp only [State.loseRegister, State.lostToColours, List.any_beq']
    rfl
  · show execFunctionLevelReset s = _
    simp only [execFunctionLevelReset, hc]

end Sys2Proof.Proofs
end

section
/-! Events: SPDM, updates and the management commands. -/

namespace Sys2Proof.Machine

theorem spdmWaits_iff (s : State) : s.spdmWaits = true ↔ s.updating = true ∨ s.mgmt.tripped = true := by
  simp [State.spdmWaits]

/-- A request whose stage of the exchange has been reached acts. -/
theorem spdmAt_reached {n : Nat} {act : State → State} {name : String} {s : State} (hwaits : s.spdmWaits = false) (hstage : n ≤ s.mgmt.spdm) :
    spdmAt n act name s = .next (act s).wake := by
  rw [spdmAt, hwaits, if_neg Bool.false_ne_true, if_neg (by omega)]

/-- None acts while firmware updates itself or a trip holds. -/
theorem spdmAt_waits {n : Nat} {act : State → State} {name : String} {s : State} (hwaits : s.spdmWaits = true) :
    spdmAt n act name s = .next s.wake := by
  rw [spdmAt, hwaits, if_pos rfl]

/-- A block of its own index is measured. -/
theorem measured_block {m : Management} {k : Nat} (hlo : 1 ≤ k) (hhi : k ≤ 5) : m.measured k = some (natBytes 1 k ++ m.block k) := by
  rw [Management.measured, if_neg (by omega), if_neg (by omega), if_pos hhi]

/-- A command acts, on the state in which the Ridge pair has been compared, where firmware serves it. -/
theorem command_served {s : State} {act : State → State} (h : s.serving = true) : s.command act = .next (act s.compared).wake := by
  rw [State.command, if_pos h]

theorem command_unserved {s : State} {act : State → State} (h : s.serving = false) : s.command act = .next s.wake := by
  rw [State.command, h, if_neg Bool.false_ne_true]

/-- Where the pair agrees a command acts on the state as it is. -/
theorem command_agrees {s : State} {act : State → State} (h : s.serving = true) (hagree : s.agrees = true) :
    s.command act = .next (act s).wake := by
  rw [command_served h, State.compared, if_pos hagree]

/-- A new emulation comes into force only where every block is saved. -/
theorem adoptFormats_same {s : State} (h : s.mgmt.newEmu = s.mxemu ∨ ∃ b ∈ s.blocks, b.resident = true) : s.adoptFormats = s := by
  have hno : (s.mgmt.newEmu == s.mxemu || s.mgmt.update == UpdateState.trial || !s.allSaved) = true := by
    obtain h | ⟨b, hb, hres⟩ := h
    · simp [h]
    · have hall : s.allSaved = false := List.all_eq_false.2 ⟨b, hb, by simp [hres]⟩
      simp [hall]
  rw [State.adoptFormats, if_pos hno]

theorem adoptFormats_saved {s : State} (hnew : s.mgmt.newEmu ≠ s.mxemu) (hidle : s.mgmt.update = .idle)
    (hsaved : ∀ b ∈ s.blocks, b.resident = false) :
    let u : State := { s with mxemu := s.mgmt.newEmu, mgmt := { s.mgmt with page := s.mgmt.newPage } }
    s.adoptFormats = u.ctxs.foldl (fun (v : State) c => v.writeFormats c) u := by
  have hall : s.allSaved = true := List.all_eq_true.2 fun b hb => by simp [hsaved b hb]
  have hno : ¬ (s.mgmt.newEmu == s.mxemu || s.mgmt.update == UpdateState.trial || !s.allSaved) = true := by
    simp [hnew, hidle, hall]
  rw [State.adoptFormats, if_neg hno]

end Sys2Proof.Machine

namespace Sys2Proof.Proofs
open Sys2Proof.Machine

/-- Settles O40: each request's own stage of the exchange. -/
theorem spdmEvents : Obligations.SpdmEvents := by
  intro s at_
  refine ⟨fun h i hi => ?_, fun hup htrip => ?_⟩
  · have hwaits : s.spdmWaits = true := (spdmWaits_iff s).2 h
    simp only [List.mem_cons, List.not_mem_nil, or_false] at hi
    obtain rfl | rfl | rfl | rfl | rfl | rfl | rfl := hi
    · show execGetVersion s = _
      rw [execGetVersion, if_pos hwaits]
    · show execGetCapabilities s = _
      exact spdmAt_waits hwaits
    · show execNegotiateAlgorithms s = _
      exact spdmAt_waits hwaits
    · show execGetDigests s = _
      exact spdmAt_waits hwaits
    · show execGetCertificate s = _
      exact spdmAt_waits hwaits
    · show execChallenge s = _
      exact spdmAt_waits hwaits
    · show execGetMeasurements s = _
      exact spdmAt_waits hwaits
  · have hwaits : s.spdmWaits = false := by rw [State.spdmWaits, hup, htrip]; rfl
    refine ⟨?_, fun h => ?_, fun h => ?_, fun h => ⟨?_, ?_, ?_, fun blocks hblocks => ?_⟩, ⟨rfl, fun k hlo hhi => measured_block hlo hhi⟩, rfl⟩
    · show execGetVersion s = _
      rw [execGetVersion, hwaits, if_neg Bool.false_ne_true]
    · show execGetCapabilities s = _
      exact spdmAt_reached hwaits h
    · show execNegotiateAlgorithms s = _
      exact spdmAt_reached hwaits h
    · show execGetDigests s = _
      exact spdmAt_reached hwaits h
    · show execGetCertificate s = _
      exact spdmAt_reached hwaits h
    · show execChallenge s = _
      exact spdmAt_reached hwaits h
    · show execGetMeasurements s = _
      refine (spdmAt_reached hwaits h).trans ?_
      simp only [hblocks]

/-- Settles O41: each event's own branch, with what its premises say of the state. -/
theorem updateEvents : Obligations.UpdateEvents := by
  intro s
  refine ⟨?_, fun h => ⟨?_, ?_⟩, fun htrip =>
    have hnotrip : ¬ s.mgmt.tripped = true := by simp [htrip]
    ⟨fun hst hb => ?_, fun emu page hst hy hn => ?_, fun hst hy => ?_⟩,
    ?_, fun hst h => ?_⟩
  · intro hserv t put
    have hstage : exec .imageStage s = .next (State.wake { t with
        mgmt := put (if t.mgmt.active = 0 then { t.mgmt with image1 := t.cue.bytes } else { t.mgmt with image0 := t.cue.bytes }) }) := by
      show execImageStage s = _
      exact command_served hserv
    have hupdate : exec .firmwareUpdate s = .next (State.wake
        (if (t.mgmt.update == .staged) = true then t.onMgmt fun m => { m with update := .quiescing } else t)) := by
      show execFirmwareUpdate s = _
      exact command_served hserv
    exact ⟨fun h => by rw [hstage, if_pos h], fun h => by rw [hstage, if_neg h], fun h => by rw [hupdate, h]; rfl⟩
  · show execImageStage s = _
    exact command_unserved h
  · show execFirmwareUpdate s = _
    exact command_unserved h
  · show execHandover s = _
    rw [execHandover, if_neg hnotrip, hst]
    simp only [hb, if_true]
    rfl
  · show execHandover s = _
    rw [execHandover, if_neg hnotrip, hst]
    simp only [hy, hn, Bool.false_eq_true, if_false]
    rfl
  · show execHandover s = _
    rw [execHandover, if_neg hnotrip, hst]
    simp only [hy, if_true]
    rfl
  · intro hst hle t
    have hgo : (s.mgmt.update != UpdateState.trial || decide (s.mgmt.trial + 65536 < s.hbeat.toNat)) = false := by
      rw [hst, decide_eq_false (by omega)]
      rfl
    have hexec : exec .trialHeartbeat s = .next t.adoptFormats.wake := by
      show execTrialHeartbeat s = _
      simp only [execTrialHeartbeat, hgo, Bool.false_eq_true, if_false]
      rfl
    rw [hexec]
    refine ⟨fun h => ?_, fun hnew hsaved => ?_⟩
    · rw [adoptFormats_same (s := t) h]
    · rw [adoptFormats_saved (s := t) hnew rfl hsaved]
      rfl
  · show execUpdateRollback s = _
    have hgo : (s.mgmt.update == UpdateState.trial && (s.cue.yes || decide (s.mgmt.trial + 65536 < s.hbeat.toNat))) = true := by
      rw [hst]
      obtain h | h := h <;> simp [h]
    rw [execUpdateRollback, if_pos hgo]
    rfl

end Sys2Proof.Proofs
end

section
/-! Events: the management commands. -/

namespace Sys2Proof.Proofs
open Sys2Proof.Machine

/-- Settles O42: each command's own branch, with what its premises say of the state. -/
theorem managementCommands : Obligations.ManagementCommands := by
  intro s
  refine ⟨rfl, fun h i hi => ?_, fun hserv hagree => ⟨fun w hn hlo hhi hstep => ?_, ?_, ?_, ?_, fun pasid off n c hn hc hle => ?_,
    fun hn hy hd => ?_, ?_, fun c hc => ?_, fun hc => ?_, ?_, ?_⟩⟩
  · simp only [List.mem_cons, List.not_mem_nil, or_false] at hi
    obtain rfl | rfl | rfl | rfl | rfl | rfl | rfl | rfl := hi
    · show execPowerCap s = _
      exact command_unserved h
    · show execTelemetry s = _
      exact command_unserved h
    · show execErrorLog s = _
      exact command_unserved h
    · show execQuarantineList s = _
      exact command_unserved h
    · show execImageTransfer s = _
      exact command_unserved h
    · show execCreate s = _
      exact command_unserved h
    · show execDestroy s = _
      exact command_unserved h
    · show execRestore s = _
      exact command_unserved h
  · show execPowerCap s = _
    refine (command_agrees hserv hagree).trans ?_
    have hw : nth s.cue.nums 0 = w := by rw [hn]; rfl
    simp only [hw]
    rw [if_pos ⟨hlo, hhi, hstep⟩]
    rfl
  · show execTelemetry s = _
    exact command_agrees hserv hagree
  · show execErrorLog s = _
    exact command_agrees hserv hagree
  · show execQuarantineList s = _
    exact command_agrees hserv hagree
  · show execImageTransfer s = _
    refine (command_agrees hserv hagree).trans ?_
    simp only [hn, hc]
    rw [if_pos hle]
  · show execCreate s = _
    refine (command_agrees hserv hagree).trans ?_
    simp only [hn, hy]
    rw [if_pos (by simp [hd])]
  · intro a hn hctxs bs place c
    show execCreate s = _
    refine (command_agrees hserv hagree).trans ?_
    simp only [hn, if_true, if_neg hctxs]
    rfl
  · show execDestroy s = _
    refine (command_agrees hserv hagree).trans ?_
    simp only [hc]
  · show execDestroy s = _
    refine (command_agrees hserv hagree).trans ?_
    simp only [hc]
  · intro pasid off c hn hc hplace image t
    show (_ → execRestore s = _) ∧ (_ → _ → execRestore s = _) ∧ (_ → _ → _ → _ → execRestore s = _)
    have hexec : execRestore s = _ := command_agrees hserv hagree
    simp only [hn, hc, hplace, Bool.false_eq_true, if_false] at hexec
    rw [hexec]
    refine ⟨fun h => by rw [if_pos h], fun h hb => ?_, fun h hl hb hfit => ?_⟩
    · obtain ⟨b, hb, hp, hres⟩ := hb
      have hown : (s.blocks.any fun b => b.pasid == pasid) = true := List.any_eq_true.2 ⟨b, hb, by simp [hp]⟩
      have hout : (s.blocks.any fun b => b.pasid == pasid && b.res != .saved) = true := List.any_eq_true.2 ⟨b, hb, by simp [hp, hres]⟩
      rw [if_neg (not_not_intro h), if_neg (by simp [hown]), if_pos hout]
    · have hnol : (s.launches.any fun l => l.pasid == pasid) = false := List.any_eq_false.2 fun l hm => by simp [hl l hm]
      have hnob : (s.blocks.any fun b => b.pasid == pasid) = false := List.any_eq_false.2 fun b hm => by simp [hb b hm]
      rw [if_neg (not_not_intro h), if_pos (by simp [hnol, hnob]), if_pos hfit]
  · intro pasid off table c place hn hc hplace hgood himage hb hsaved
    obtain ⟨b, hb, hp⟩ := hb
    have hown : (s.blocks.any fun b => b.pasid == pasid) = true := List.any_eq_true.2 ⟨b, hb, by simp [hp]⟩
    have hall : (s.blocks.any fun b => b.pasid == pasid && b.res != .saved) = false := List.any_eq_false.2 fun b hm => by
      simpa using fun h => hsaved b hm h
    show execRestore s = _
    refine (command_agrees hserv hagree).trans ?_
    simp only [hn, hc, ← hplace, hgood, himage, hown, hall, Bool.or_true]
    rfl

end Sys2Proof.Proofs
end

section
/-! Steps: every one answers a next state, and runs what the word at the PC decodes to. -/

namespace Sys2Proof.Machine

theorem execWait_next (m : BitVec 12) (s : State) : ∃ t, execWait m s = .next t := by
  unfold execWait
  split
  · split
    · exact ⟨_, rfl⟩
    · split
      · exact ⟨_, rfl⟩
      · exact ⟨_, rfl⟩
  · exact issue_next _ _ _

theorem execVote_next (f : F64) (s : State) : ∃ t, execVote f s = .next t := by
  unfold execVote
  split <;> exact issue_next _ _ _

theorem execPmov_next (f : F64) (s : State) : ∃ t, execPmov f s = .next t := by
  unfold execPmov
  split <;> exact issue_next _ _ _

/-- Every instruction and event answers a next state: an instruction by `issue`, an event by its own definition. -/
theorem exec_next (i : Instr) (s : State) : ∃ t, exec i s = .next t := by
  cases i
  case wait m => exact execWait_next m s
  case vote f => exact execVote_next f s
  case pmov f => exact execPmov_next f s
  all_goals try exact issue_next _ _ _
  all_goals exact ⟨_, rfl⟩

/-- A group's turn answers a next state. -/
theorem issueTurn_next (s : State) (block gidx : Nat) : ∃ t, s.issueTurn block gidx = .next t := by
  unfold State.issueTurn
  split
  · exact ⟨_, rfl⟩
  · split
    · split
      · rw [execWord_eq]
        exact exec_next _ _
      · exact ⟨_, rfl⟩
    · split
      · exact ⟨_, rfl⟩
      · exact ⟨_, rfl⟩

/-- So does every turn. -/
theorem take_next (s : State) (u : Turn) : ∃ t, s.take u = .next t := by
  cases u with
  | event i c =>
    show ∃ t, (if i.isWord = true then Host.Outcome.next s else exec i { s with cue := c }) = .next t
    split
    · exact ⟨_, rfl⟩
    · exact exec_next _ _
  | issue b g => exact issueTurn_next s b g
  | evict c unit pasid a => exact ⟨_, rfl⟩

/-- A step takes the turn at the head of the agenda, and is settled. -/
theorem step_of_agenda {s t : State} {u : Turn} {ts : List Turn} (hag : s.agenda = u :: ts) (h : State.take { s with agenda := ts } u = .next t) :
    step s = .next (State.settleStep s t) := by
  simp only [step, hag, h]

/-- With an empty agenda it takes the turn of the default order. -/
theorem step_of_default {s t : State} (hag : s.agenda = []) (h : State.take { s with turn := s.turn + 1 } s.defaultTurn = .next t) :
    step s = .next (State.settleStep s t) := by
  simp only [hag] at h
  simp only [step, hag, h]

/-- A group that may issue the word at its PC runs the instruction that the word's bytes decode to. -/
theorem issueTurn_runs {s : State} {b k : Nat} {g : Group} {w : DWord} {i : Instr} {rest : List Byte} (hg : s.group? b k = some g)
    (hw : s.nextWord g = some w) (hissues : s.issues g w = true) (hdec : decode (leBytes 8 w) = .ok (i, rest)) :
    s.issueTurn b k = exec i (s.seat g) := by
  have hi : i = decodeWord w := by
    simp only [decode] at hdec
    rw [List.take_of_length_le (Nat.le_of_eq (leBytes_length 8 w)), leWord_leBytes] at hdec
    split at hdec
    · cases hdec
    · injection hdec with hdec
      exact (congrArg Prod.fst hdec).symm
  unfold State.issueTurn
  rw [hg]
  simp only [hw]
  rw [if_pos hissues, execWord_eq, hi]
  rfl

end Sys2Proof.Machine

namespace Sys2Proof.Proofs
open Sys2Proof.Machine

/-- Settles O46: the turn that a step takes answers a next state. -/
theorem stepNeverStops : Obligations.StepNeverStops := by
  intro s
  cases hag : s.agenda with
  | nil =>
    obtain ⟨t, ht⟩ := take_next { s with turn := s.turn + 1 } s.defaultTurn
    exact ⟨_, step_of_default hag ht⟩
  | cons u ts =>
    obtain ⟨t, ht⟩ := take_next { s with agenda := ts } u
    exact ⟨_, step_of_agenda hag ht⟩

/-- Settles O45: the group's turn, or the event's, is the instruction's own exec. -/
theorem stepRuns : Obligations.StepRuns := by
  intro s
  refine ⟨fun b k ts g w i rest t hag hg hw hissues hdec ht => ?_, fun b k g w i rest t hag hturn hg hw hissues hdec ht => ?_,
    fun i c ts t hag hi ht => ?_⟩
  · exact step_of_agenda hag ((issueTurn_runs hg hw hissues hdec).trans ht)
  · refine step_of_default hag ?_
    rw [hturn]
    exact (issueTurn_runs hg hw hissues hdec).trans ht
  · refine step_of_agenda hag ?_
    rw [State.take, hi, if_neg Bool.false_ne_true]
    exact ht

/-- Settles O44: each word by its own decoding. -/
theorem decodedWords : Obligations.DecodedWords := by
  refine ⟨?_, ?_, ?_, ?_, ?_, ?_, ?_, ?_, ?_, ?_, ?_, ?_⟩ <;> rfl

end Sys2Proof.Proofs
end

section
/-! Traps: entry (R381, R384, R386), return (R382, R389) and the order of the checks of an issue (R65). -/

namespace Sys2Proof.Machine

/-- R386: ending a block's launch leaves its launch torn, and the issuing group as it is. -/
theorem endLaunch_torn {s : State} {k : Nat} {b : Block} (hb : s.block? k = some b) :
    ∀ l ∈ (s.endLaunch k).launches, l.key = b.launch → l.torn = true := by
  intro l hl hkey
  rw [State.endLaunch, hb] at hl
  obtain ⟨m, -, rfl⟩ := List.mem_map.1 hl
  by_cases hm : m.key = b.launch
  · simp [hm]
  · simp [hm] at hkey

theorem endLaunch_cur (s : State) (k : Nat) : (s.endLaunch k).cur = s.cur := by
  unfold State.endLaunch
  split <;> rfl

/-- R381: a trap that is handled. -/
theorem takeTrap_handled {s : State} {tr : Trap} {r : Run} {n : Nat} (hfront : s.cur.front = false) (hpriv : s.cur.priv = false)
    (hvec : ((s.ctxOf s.cur).map (·.xvec)).getD 0 ≠ 0) :
    s.takeTrap tr r n = { s with cur := s.cur.enterTrap tr r n ((((s.ctxOf s.cur).map fun (x : Context) => x.xvec).getD 0).setWidth 57) } := by
  rw [State.takeTrap]
  simp only [hfront, hpriv, hvec, Bool.false_eq_true, if_false]

/-- R386: a trap without a handler. -/
theorem takeTrap_unhandled {s : State} {tr : Trap} {r : Run} {n : Nat} (hfront : s.cur.front = false) (hpriv : s.cur.priv = false)
    (hvec : ((s.ctxOf s.cur).map (·.xvec)).getD 0 = 0) :
    let x := trapRegs tr r (s.cur.run.pos != 0)
    s.takeTrap tr r n = State.endLaunch { s with
      cur := { s.cur with x := x, etrap := some x, last := some n, banked := s.cur.run.bank n, run := HoldRun.none } } s.cur.block := by
  intro x
  rw [State.takeTrap]
  simp only [hfront, hvec, Bool.false_eq_true, if_false, if_true]
  rw [if_neg (by simp [hpriv])]

/-- R386: a trap of a group that is privileged already. -/
theorem takeTrap_privileged {s : State} {tr : Trap} {r : Run} {n : Nat} (hfront : s.cur.front = false) (hpriv : s.cur.priv = true) :
    s.takeTrap tr r n = State.endLaunch { s with
      cur := { s.cur with etrap := some (trapRegs tr r (s.cur.run.pos != 0)), last := some n, run := HoldRun.none } } s.cur.block := by
  rw [State.takeTrap]
  simp only [hfront, Bool.false_eq_true, if_false]
  rw [if_pos hpriv]

/-- R381: every lane of the trapped run starts at the handler. -/
theorem enterTrap_handler (g : Group) (tr : Trap) (r : Run) (n : Nat) (xvec : BitVec 57) (k : Nat) (hk : k < 64)
    (hlane : lane r.mask k = true) :
    (g.enterTrap tr r n xvec).handler.pc.get k = xvec ∧ (g.enterTrap tr r n xvec).handler.depth.get k = 0 := by
  have hpc : (mergeLanes r.mask (Lanes.const xvec) g.handler.pc).get k = xvec := by
    rw [mergeLanes_get _ _ _ _ hk, if_pos hlane, Lanes.get_const]
  have hdepth : (mergeLanes r.mask (Lanes.const 0) g.handler.depth).get k = 0 := by
    rw [mergeLanes_get _ _ _ _ hk, if_pos hlane, Lanes.get_const]
  exact ⟨hpc, hdepth⟩

/-- R382: a return after which a handler entry is still active. -/
theorem returnThreads_remaining {g : Group} {m : DWord} {n : Nat} (h : g.handler.act &&& ~~~m ≠ 0) :
    g.returnThreads m n = { g with handler := { g.handler with act := g.handler.act &&& ~~~m } } := by
  rw [Group.returnThreads]
  exact if_neg h

/-- R389: the return of the last ends the handler. -/
theorem returnThreads_last {g : Group} {m : DWord} {n : Nat} (h : g.handler.act &&& ~~~m = 0) :
    g.returnThreads m n = Group.endHandler { g with handler := { g.handler with act := g.handler.act &&& ~~~m } } n := by
  rw [Group.returnThreads]
  exact if_pos h

end Sys2Proof.Machine

namespace Sys2Proof.Proofs
open Sys2Proof.Machine

/-- Settles O51: the three cases of taking a trap. -/
theorem trapEntry : Obligations.TrapEntry := by
  intro s tr r n hfront g xvec x t
  refine ⟨fun hpriv hvec => ?_, fun hpriv hvec => ?_, fun hpriv => ?_, fun h b hb => ?_⟩
  · have ht : t = { s with cur := g.enterTrap tr r n (xvec.setWidth 57) } := takeTrap_handled hfront hpriv hvec
    rw [ht]
    exact ⟨rfl, rfl, rfl, rfl, rfl, rfl, rfl, rfl, rfl, rfl, rfl, rfl, rfl, rfl,
      fun k hk hlane => enterTrap_handler g tr r n (xvec.setWidth 57) k hk hlane, sameRegisters_refl _, rfl, rfl, rfl, rfl, rfl⟩
  · have ht : t.cur = { g with x := x, etrap := some x, last := some n, banked := g.run.bank n, run := HoldRun.none } :=
      (congrArg State.cur (takeTrap_unhandled hfront hpriv hvec)).trans (endLaunch_cur _ _)
    rw [ht]
    exact ⟨rfl, rfl, sameRegisters_refl _, hpriv, rfl⟩
  · have ht : t.cur = { g with etrap := some x, last := some n, run := HoldRun.none } :=
      (congrArg State.cur (takeTrap_privileged hfront hpriv)).trans (endLaunch_cur _ _)
    rw [ht]
    exact ⟨rfl, rfl, sameRegisters_refl _, rfl, rfl⟩
  · cases hpriv : g.priv with
    | true =>
      have ht : t = _ := takeTrap_privileged hfront hpriv
      rw [ht]
      exact endLaunch_torn hb
    | false =>
      have hvec : xvec = 0 := by simpa [hpriv] using h
      have ht : t = _ := takeTrap_unhandled hfront hpriv hvec
      rw [ht]
      exact endLaunch_torn hb

/-- Settles O52: a return ends the handler with its last entry, and otherwise changes its active mask alone. -/
theorem trapReturn : Obligations.TrapReturn := by
  intro g m n
  refine ⟨returnThreads_remaining, fun h => ?_⟩
  intro t live
  have ht : t = Group.endHandler { g with handler := { g.handler with act := g.handler.act &&& ~~~m } } n := returnThreads_last h
  rw [ht]
  exact ⟨rfl, rfl, rfl, sameRegisters_refl _, rfl, rfl, rfl, rfl, rfl, rfl, rfl, rfl, fun hpos => if_pos hpos, fun hpos => if_neg hpos⟩

end Sys2Proof.Proofs
end

section
/-! The order of the checks of an issue (R65, R131, R385). -/

namespace Sys2Proof.Machine

/-- R131: a deferred fault that is due is delivered before any other check. -/
theorem issue_due_delivers (h : Hdr) (p : Plan) (s : State) (r : Run) (d : Deferred) (hfree : s.cur.hold = .free) (hrun : s.cur.nextRun = some r)
    (hdue : (s.issuing h r).g.dueDeferred p = some d) :
    issue h p s = .next ((s.issuing h r).s.deliver d r (s.issueCycle h.dist)) := by
  have hgo : (s.cur.hold != Hold.free) = false := by simp [hfree]
  simp only [State.issuing, Cx.g] at hdue ⊢
  simp only [issue, hgo, hrun, hdue, Bool.false_eq_true, if_false]

/-- R65 step 1, for a word that the group's profile does not have. -/
theorem issue_offProfile_traps (h : Hdr) (p : Plan) (s : State) (r : Run) (ht : s.tries h p r = true)
    (hf : ((s.issuing h r).g.front && !h.front) = true) :
    issue h p s = .next ((s.issuing h r).s.takeTrap (.precise Cause.illegalInstr 0 h.word) r (s.issueCycle h.dist)) := by
  obtain ⟨hfree, hrun, hdue⟩ := (tries_iff ..).mp ht
  have hgo : (s.cur.hold != Hold.free) = false := by simp [hfree]
  simp only [State.issuing, Cx.g] at hdue hf ⊢
  simp only [issue, hgo, hrun, hdue, hf, Bool.or_true, Bool.false_eq_true, if_false, if_true]

/-- R65 step 3: operands that the instruction does not accept. -/
theorem issue_badOperands_traps (h : Hdr) (p : Plan) (s : State) (r : Run) (ht : s.tries h p r = true)
    (hl : (s.issuing h r).lawful h p = true) (ho : p.ops (s.issuing h r) = false) :
    issue h p s = .next ((s.issuing h r).s.takeTrap (.precise Cause.illegalOperand 0 h.word) r (s.issueCycle h.dist)) := by
  obtain ⟨hfree, hrun, hdue⟩ := (tries_iff ..).mp ht
  obtain ⟨hword, hpriv⟩ := (lawful_iff ..).mp hl
  have hgo : (s.cur.hold != Hold.free) = false := by simp [hfree]
  simp only [State.issuing, Cx.g] at hdue hword hpriv ho ⊢
  simp only [issue, hgo, hrun, hdue, hword, hpriv, ho, Cx.g, Bool.not_false, Bool.false_eq_true, if_false, if_true]

/-- R65 step 4: a latch that holds nothing. -/
theorem issue_badLatch_traps (h : Hdr) (p : Plan) (s : State) (r : Run) (k : Nat) (ht : s.tries h p r = true)
    (hl : (s.issuing h r).lawful h p = true) (ho : p.ops (s.issuing h r) = true) (hk : (s.issuing h r).badLatch p.uses = some k) :
    issue h p s = .next ((s.issuing h r).s.takeTrap (.precise Cause.latchInvalid 0 (BitVec.ofNat 64 k)) r (s.issueCycle h.dist)) := by
  obtain ⟨hfree, hrun, hdue⟩ := (tries_iff ..).mp ht
  obtain ⟨hword, hpriv⟩ := (lawful_iff ..).mp hl
  have hgo : (s.cur.hold != Hold.free) = false := by simp [hfree]
  simp only [State.issuing, Cx.g] at hdue hword hpriv ho hk ⊢
  simp only [issue, hgo, hrun, hdue, hword, hpriv, ho, hk, Bool.not_true, Bool.false_eq_true, if_false]

end Sys2Proof.Machine

namespace Sys2Proof.Proofs
open Sys2Proof.Machine

/-- Settles O53: the issue makes its tests in the order of R65, and each conclusion is the branch that the first failing test takes. -/
theorem faultOrder : Obligations.FaultOrder := by
  intro h p s r hfree hrun c traps
  refine ⟨fun d hdue => issue_due_delivers h p s r d hfree hrun hdue, fun hdue => ?_⟩
  have ht : s.tries h p r = true := (tries_iff ..).mpr ⟨hfree, hrun, hdue⟩
  refine ⟨?undefined, fun hb hf => ⟨fun hs hg => issue_unprivileged_traps h p s r ht hb hs hg hf, fun hs => ?lawful⟩⟩
  case undefined =>
    rintro (hb | ⟨hg, hh⟩)
    · exact issue_undefined_traps h p s r ht hb
    · exact issue_offProfile_traps h p s r ht (by simpa using ⟨hg, hh⟩)
  case lawful =>
    have hl : c.lawful h p = true := by
      refine (lawful_iff ..).mpr ⟨?_, ?_⟩
      · rcases hf with hf | hf <;> simp [hb, hf]
      · rcases hs with hs | hs <;> simp [hs]
    exact ⟨fun ho => issue_badOperands_traps h p s r ht hl ho, fun ho =>
      ⟨fun k hk => issue_badLatch_traps h p s r k ht hl ho hk,
       fun hgood hen hpoison hreading tr hown => issue_own_traps h p s r tr ht hl hgood hen hpoison hreading hown⟩⟩

end Sys2Proof.Proofs
end

section
/-! Results: when they are due, how they land, and what one register write changes (R53, R54, R58, R60, R364). -/

namespace Sys2Proof.Machine

/-! ## A result in flight -/

/-- R58: a class F result joins the flights, due its latency after the issue. -/
theorem finish_flights (c : Cx) (h : Hdr) (ws : List RegWrite) (flags : BitVec 5) (s : State) (hlat : h.lat ≠ .v) :
    ∃ f : Flight, (c.finish h ws flags s).cur.flights = s.cur.flights ++ [f] ∧ f.writes = (if h.nowb then [] else ws) ∧ f.flags = flags ∧
      f.cnt = h.cnt ∧ f.due = some (c.t + latencyCycles h.lat) := by
  have hlatch (l : Latch) : (s.cur.pushLatch l).flights = s.cur.flights := by
    unfold Group.pushLatch
    split <;> rfl
  rw [Cx.finish, if_neg hlat]
  let ws' := if h.nowb then [] else ws
  refine ⟨⟨s.nextKey, h.word, c.run.pc, some (c.t + latencyCycles h.lat), h.cnt, ws', ws'.flatMap RegWrite.refs, flags, [], .result⟩,
    ?_, rfl, rfl, rfl, rfl⟩
  simp only [Cx.result]
  split
  · rw [hlatch]
  · rfl

/-- What lands with no younger write noted is what was written. -/
theorem landing_of_none_late (s : State) {f : Flight} (h : f.late = []) : f.landing s = f.writes := by
  simp [Flight.landing, h]

theorem dueFlights_single {g : Group} {f : Flight} {n : Nat} (hg : g.flights = [f]) (hdue : f.due = some n) : g.dueFlights n = [f] := by
  simp [Group.dueFlights, Group.timed, hg, hdue]

/-- A single flight completes with its writes, and none is left. -/
theorem complete_single {g : Group} {s : State} {f : Flight} (hg : g.flights = [f]) (hlate : f.late = []) :
    g.complete s f = (({ f.writes.foldl Group.writeReg g with flights := [] } : Group).raise f.flags).release f.cnt := by
  have hwrites : g.landWrites s f = { f.writes.foldl Group.writeReg g with flights := [f] } := by
    simp [Group.landWrites, landing_of_none_late s hlate, hg]
  rw [Group.complete, hwrites]
  simp

/-! ## One write of a vector register, or a pair -/

theorem writeReg_vec_vrow (g : Group) (r q : Nat) (pair : Bool) (m : DWord) (v : Lanes DWord) (hr : r + 1 < 128) :
    (g.writeReg (.vec r pair m v)).vrow q =
      if q = r ∧ r < g.alloc then mergeLanes m (v.map (·.setWidth 32)) (g.vrow r)
      else if q = r + 1 ∧ r + 1 < g.alloc ∧ pair = true then
        mergeLanes m (v.map fun (x : DWord) => BitVec.setWidth 32 (x >>> 32)) (g.vrow (r + 1))
      else g.vrow q := by
  have hr' : r < 128 := by omega
  rw [writeReg_vrow]
  cases pair with
  | false => simp [Group.putReg, setRow_vrow, hr', eq_comm]
  | true =>
    simp only [Group.putReg, if_true, setRow_vrow, setRow_alloc, hr, hr', true_and, and_true]
    by_cases hq : q = r
    · subst hq
      simp
    · by_cases hq' : q = r + 1
      · subst hq'
        simp
      · have e : r ≠ q := Ne.symm hq
        have e' : r + 1 ≠ q := Ne.symm hq'
        simp [hq, hq', e, e']

/-- R364: a row past the allocation takes nothing, and neither does the pair that starts there. -/
theorem writeReg_vec_unallocated {g : Group} {r : Nat} (pair : Bool) (m : DWord) (v : Lanes DWord) (h : g.alloc ≤ r) :
    (g.writeReg (.vec r pair m v)).vregs = g.vregs := by
  have h0 : ¬ r < g.alloc := by omega
  have h1 : ¬ r + 1 < g.alloc := by omega
  show (g.putReg (.vec r pair m v)).vregs = g.vregs
  simp [Group.putReg, Group.setRow, h0, h1]

theorem merged_lane {α : Type} (f : DWord → α) {m : DWord} {k : Nat} (v : Lanes DWord) (old : Lanes α) (hk : k < 64) (hm : lane m k = true) :
    (mergeLanes m (v.map f) old).get k = f (v.get k) := by
  rw [mergeLanes_get _ _ _ _ hk, if_pos hm, Lanes.get_map]

/-- R53: a write to p0 is ignored. -/
theorem writeReg_p0 (g : Group) (m v : DWord) : (g.writeReg (.prd 0 m v)).preds = g.preds := rfl

end Sys2Proof.Machine

namespace Sys2Proof.Proofs
open Sys2Proof.Machine

/-- Settles O55: the flight that a result becomes, its completion, and the rows, scalars and predicates that one write reaches. -/
theorem resultsLand : Obligations.ResultsLand := by
  refine ⟨fun c h ws flags s hlat => ?due, fun g s f n hg hlate hdue => ?lands, fun g r k pair m v hr hk hm => ?vector,
    fun g r v hr => ?scalar, fun g r m v h0 hr => ?predicate, fun g m v => ⟨writeReg_p0 g m v, rfl⟩⟩
  case due =>
    obtain ⟨f, hflights, hwrites, hflags, hcnt, hat⟩ := finish_flights c h ws flags s hlat
    refine ⟨f, hflights, hwrites, hflags, hcnt, hat.trans ?_⟩
    cases h.lat <;> rfl
  case lands =>
    simp only [Group.land, dueFlights_single hg hdue, List.foldl_cons, List.foldl_nil]
    exact complete_single hg hlate
  case vector =>
    refine ⟨fun ha => ?_, fun hp ha => ?_, fun q hq hq' => ?_, writeReg_vec_unallocated pair m v⟩
    · rw [writeReg_vec_vrow _ _ _ _ _ _ hr, if_pos ⟨rfl, ha⟩, merged_lane _ v _ hk hm]
    · rw [writeReg_vec_vrow _ _ _ _ _ _ hr, if_neg (by omega), if_pos ⟨rfl, ha, hp⟩, merged_lane _ v _ hk hm]
    · have hpair : ¬ (q = r + 1 ∧ r + 1 < g.alloc ∧ pair = true) := by
        rintro ⟨hq1, -, hp⟩
        rcases hq' with h | h
        · exact h hq1
        · simp [h] at hp
      rw [writeReg_vec_vrow _ _ _ _ _ _ hr, if_neg (fun h => hq h.1), if_neg hpair]
  case scalar =>
    have hread (q : Nat) : (g.writeReg (.sca r v)).sreg q = if q = r then v else g.sreg q := setSreg_sreg g r q v hr
    exact ⟨(hread r).trans (if_pos rfl), fun q hq => (hread q).trans (if_neg hq)⟩
  case predicate =>
    have hread (q : Nat) : (g.writeReg (.prd r m v)).preg q = if q = r then (v &&& m) ||| (g.preg r &&& ~~~m) else g.preg q :=
      setPred_preg g r q m v h0 hr
    exact ⟨(hread r).trans (if_pos rfl), fun q hq => (hread q).trans (if_neg hq)⟩

end Sys2Proof.Proofs
end

section
/-! Integer arithmetic at its edges (R78), and the issue of a lane instruction that raises no flag. -/

namespace Sys2Proof.Machine

/-! ## Values of a width -/

/-- The low bits of an integer, taken at the width itself. -/
theorem ofInt_eq (w : Bool) (n : Int) : ofInt w n = if w then BitVec.ofInt 64 n else (BitVec.ofInt 32 n).setWidth 64 := by
  cases w with
  | true => rfl
  | false =>
    have hlow : (BitVec.ofInt 64 n).setWidth 32 = BitVec.ofInt 32 n := by
      apply BitVec.eq_of_toNat_eq
      simp only [BitVec.toNat_setWidth, BitVec.toNat_ofInt]
      omega
    show ((BitVec.ofInt 64 n).setWidth 32).setWidth 64 = _
    rw [hlow]
    rfl

/-- An integer that stands for a word in both widths gives the low bits that each width takes. -/
theorem narrow_eq_ofInt_sval {x : DWord} {v : Bool → Int} (hwide : x = BitVec.ofInt 64 (v true))
    (hlow : x.setWidth 32 = BitVec.ofInt 32 (v false)) (w : Bool) : narrow w x = ofInt w (v w) := by
  rw [ofInt_eq]
  cases w with
  | true => exact hwide
  | false => exact congrArg (BitVec.setWidth 64) hlow

/-- A word's low bits are those of its signed value. -/
theorem narrow_eq_ofInt (w : Bool) (x : DWord) : narrow w x = ofInt w (sval w x) :=
  narrow_eq_ofInt_sval (v := fun w => sval w x) BitVec.ofInt_toInt.symm BitVec.ofInt_toInt.symm w

theorem ofInt_toInt_add {n : Nat} (x y : BitVec n) : x + y = BitVec.ofInt n (x.toInt + y.toInt) := by
  rw [BitVec.ofInt_add, BitVec.ofInt_toInt, BitVec.ofInt_toInt]

theorem ofInt_toInt_sub {n : Nat} (x y : BitVec n) : x - y = BitVec.ofInt n (x.toInt - y.toInt) := by
  rw [Int.sub_eq_add_neg, BitVec.ofInt_add, BitVec.ofInt_neg, BitVec.ofInt_toInt, BitVec.ofInt_toInt, BitVec.sub_eq_add_neg]

theorem ofInt_toInt_mul {n : Nat} (x y : BitVec n) : x * y = BitVec.ofInt n (x.toInt * y.toInt) := by
  rw [BitVec.ofInt_mul, BitVec.ofInt_toInt, BitVec.ofInt_toInt]

theorem setWidth_sub_low (x y : DWord) : (x - y).setWidth 32 = x.setWidth 32 - y.setWidth 32 := by
  rw [BitVec.sub_eq_add_neg, BitVec.sub_eq_add_neg, BitVec.setWidth_add _ _ (by decide), BitVec.setWidth_neg_of_le (by decide)]

theorem narrow_add (w : Bool) (x y : DWord) : narrow w (x + y) = ofInt w (sval w x + sval w y) :=
  narrow_eq_ofInt_sval (v := fun w => sval w x + sval w y) (ofInt_toInt_add x y)
    ((BitVec.setWidth_add x y (by decide)).trans (ofInt_toInt_add _ _)) w

theorem narrow_sub (w : Bool) (x y : DWord) : narrow w (x - y) = ofInt w (sval w x - sval w y) :=
  narrow_eq_ofInt_sval (v := fun w => sval w x - sval w y) (ofInt_toInt_sub x y) ((setWidth_sub_low x y).trans (ofInt_toInt_sub _ _)) w

theorem narrow_mul (w : Bool) (x y : DWord) : narrow w (x * y) = ofInt w (sval w x * sval w y) :=
  narrow_eq_ofInt_sval (v := fun w => sval w x * sval w y) (ofInt_toInt_mul x y)
    ((BitVec.setWidth_mul x y (by decide)).trans (ofInt_toInt_mul _ _)) w

/-! ## Division -/

theorem divInt_by_zero {w : Bool} {y : DWord} (h : uval w y = 0) (u : Bool) (x : DWord) : divInt w u x y = ofInt w (-1) := if_pos h

theorem remInt_by_zero {w : Bool} {y : DWord} (h : uval w y = 0) (u : Bool) (x : DWord) : remInt w u x y = ofInt w (sval w x) :=
  (if_pos h).trans (narrow_eq_ofInt w x)

theorem divInt_signed {w : Bool} {y : DWord} (h : uval w y ≠ 0) (x : DWord) : divInt w false x y = ofInt w ((sval w x).tdiv (sval w y)) := by
  rw [divInt, if_neg h]
  exact if_neg (by decide)

theorem remInt_signed {w : Bool} {y : DWord} (h : uval w y ≠ 0) (x : DWord) : remInt w false x y = ofInt w ((sval w x).tmod (sval w y)) := by
  rw [remInt, if_neg h]
  exact if_neg (by decide)

theorem divInt_unsigned {w : Bool} {y : DWord} (h : uval w y ≠ 0) (x : DWord) :
    divInt w true x y = ofInt w ((uval w x : Int) / (uval w y : Int)) := by
  rw [divInt, if_neg h]
  exact if_pos rfl

theorem remInt_unsigned {w : Bool} {y : DWord} (h : uval w y ≠ 0) (x : DWord) :
    remInt w true x y = ofInt w ((uval w x : Int) % (uval w y : Int)) := by
  rw [remInt, if_neg h]
  exact if_pos rfl

/-- A divisor of signed value -1 is not zero. -/
theorem uval_ne_zero_of_sval {w : Bool} {y : DWord} (h : sval w y = -1) : uval w y ≠ 0 := by
  cases w with
  | true =>
    simp only [sval, uval, if_true] at h ⊢
    intro h0
    rw [BitVec.toInt_eq_toNat_cond, h0] at h
    simp at h
  | false =>
    simp only [sval, uval, Bool.false_eq_true, if_false] at h ⊢
    intro h0
    rw [BitVec.toInt_eq_toNat_cond, h0] at h
    simp at h

/-- The signed minimum is its own negative in its width. -/
theorem ofInt_neg_smin (w : Bool) : ofInt w (-smin w) = ofInt w (smin w) := by cases w <;> decide

theorem divInt_smin {w : Bool} {x y : DWord} (hx : sval w x = smin w) (hy : sval w y = -1) : divInt w false x y = ofInt w (smin w) := by
  rw [divInt_signed (uval_ne_zero_of_sval hy), hx, hy, Int.tdiv_neg, Int.tdiv_one, ofInt_neg_smin]

theorem remInt_minus_one {w : Bool} {x y : DWord} (hy : sval w y = -1) : remInt w false x y = 0 := by
  rw [remInt_signed (uval_ne_zero_of_sval hy), hy, Int.tmod_neg, Int.tmod_one]
  cases w <;> rfl

/-! ## Shift counts past the width -/

theorem shlInt_past {w : Bool} {y : DWord} (h : widthOf w ≤ (y.setWidth 32).toNat) (x : DWord) : shlInt w x y = 0 := if_pos h

theorem shrInt_past {w : Bool} {y : DWord} (h : widthOf w ≤ (y.setWidth 32).toNat) (x : DWord) : shrInt w x y = 0 := if_pos h

theorem sval_range (w : Bool) (x : DWord) : -(2 ^ widthOf w : Nat) ≤ sval w x ∧ sval w x < (2 ^ widthOf w : Nat) := by
  cases w with
  | true =>
    have := x.toInt_lt
    have := x.le_toInt
    simp only [sval, widthOf, if_true]
    omega
  | false =>
    have := (x.setWidth 32).toInt_lt
    have := (x.setWidth 32).le_toInt
    simp only [sval, widthOf, Bool.false_eq_true, if_false]
    omega

/-- Past the width every bit is the sign. -/
theorem sarInt_past {w : Bool} {y : DWord} (h : widthOf w ≤ (y.setWidth 32).toNat) (x : DWord) :
    sarInt w x y = if sval w x < 0 then ofInt w (-1) else 0 := by
  obtain ⟨hlo, hhi⟩ := sval_range w x
  rw [sarInt, Nat.min_eq_right h]
  split
  next hneg => rw [Int.ediv_eq_neg_one_of_neg_of_le hneg (by omega)]
  next hpos =>
    rw [Int.ediv_eq_zero_of_lt (by omega) hhi]
    cases w <;> rfl

/-- The count of a rotation is taken modulo the width. -/
theorem rotlInt_mod (w : Bool) (x y : DWord) : rotlInt w x y = rotlInt w x (BitVec.ofNat 64 (y.toNat % widthOf w)) := by
  have hcount : (y.setWidth 32).toNat % widthOf w = ((BitVec.ofNat 64 (y.toNat % widthOf w)).setWidth 32).toNat % widthOf w := by
    cases w
    · simp only [widthOf, BitVec.toNat_setWidth, BitVec.toNat_ofNat, Bool.false_eq_true, if_false]
      omega
    · simp only [widthOf, BitVec.toNat_setWidth, BitVec.toNat_ofNat, if_true]
      omega
  simp only [rotlInt, hcount]

/-! ## Landing leaves what is no result -/

/-- What holds of a group through each single write, and does not look at flights, flags and counters, holds of it after results land. -/
theorem land_keeps {P : Group → Prop} (hwrite : ∀ g w, P g → P (g.writeReg w)) (hflights : ∀ (g : Group) fs, P g → P { g with flights := fs })
    (hraise : ∀ g f, P g → P (g.raise f)) (hrelease : ∀ g c, P g → P (g.release c)) (g : Group) (s : State) (t : Nat) (h : P g) :
    P (g.land s t) := by
  have hwrites (ws : List RegWrite) (g : Group) (h : P g) : P (ws.foldl Group.writeReg g) := by
    induction ws generalizing g with
    | nil => exact h
    | cons w ws ih => exact ih _ (hwrite g w h)
  have hcomplete (g : Group) (f : Flight) (h : P g) : P (g.complete s f) :=
    hrelease _ _ (hraise _ _ (hflights _ _ (hflights _ _ (hwrites _ _ h))))
  have hall (fs : List Flight) (g : Group) (h : P g) : P (fs.foldl (fun g f => g.complete s f) g) := by
    induction fs generalizing g with
    | nil => exact h
    | cons f fs ih => exact ih _ (hcomplete g f h)
  unfold Group.land
  split
  · exact h
  · exact hall _ _ h

theorem setRow_mode (g : Group) (r : Nat) (m : DWord) (v : Lanes Word) : (g.setRow r m v).priv = g.priv ∧ (g.setRow r m v).x = g.x := by
  unfold Group.setRow
  split <;> exact ⟨rfl, rfl⟩

/-- A register write leaves the mode of the group and its trap registers. -/
theorem putReg_mode (g : Group) (w : RegWrite) : (g.putReg w).priv = g.priv ∧ (g.putReg w).x = g.x := by
  cases w with
  | vec r pair m v =>
    cases pair with
    | false => exact setRow_mode ..
    | true => exact ⟨(setRow_mode ..).1.trans (setRow_mode ..).1, (setRow_mode ..).2.trans (setRow_mode ..).2⟩
  | sca r v => exact ⟨rfl, rfl⟩
  | prd r m v =>
    simp only [Group.putReg, Group.setPred]
    split <;> exact ⟨rfl, rfl⟩
  | wlk r v => exact ⟨rfl, rfl⟩

theorem release_mode (g : Group) (c : BitVec 4) : (g.release c).priv = g.priv ∧ (g.release c).x = g.x := by
  unfold Group.release
  split <;> exact ⟨rfl, rfl⟩

theorem land_mode (g : Group) (s : State) (t : Nat) : (g.land s t).priv = g.priv ∧ (g.land s t).x = g.x :=
  land_keeps (P := fun a => a.priv = g.priv ∧ a.x = g.x)
    (fun a w h => ⟨(putReg_mode a w).1.trans h.1, (putReg_mode a w).2.trans h.2⟩) (fun _ _ h => h) (fun _ _ h => h)
    (fun a c h => ⟨(release_mode a c).1.trans h.1, (release_mode a c).2.trans h.2⟩) g s t ⟨rfl, rfl⟩

theorem clearYields_mode (g : Group) : g.clearYields.priv = g.priv ∧ g.clearYields.x = g.x := by
  unfold Group.clearYields
  split <;> exact ⟨rfl, rfl⟩

/-- The issue, up to its effect, leaves the mode of the group and its trap registers; it lands what is due and no more. -/
theorem onward_mode (s : State) (h : Hdr) (r : Run) :
    ((s.issuing h r).onward h).cur.priv = s.cur.priv ∧ ((s.issuing h r).onward h).cur.x = s.cur.x ∧
      ((s.issuing h r).onward h).cur.fpst = (s.issuing h r).g.fpst ∧ ((s.issuing h r).onward h).cur.flights = (s.issuing h r).g.flights := by
  have hclaim (g : Group) (c : BitVec 4) : (g.claim c).priv = g.priv ∧ (g.claim c).x = g.x ∧ (g.claim c).fpst = g.fpst ∧ (g.claim c).flights = g.flights := by
    unfold Group.claim
    split <;> exact ⟨rfl, rfl, rfl, rfl⟩
  have hadvance (g : Group) (n : Nat) : (g.advance r n).priv = g.priv ∧ (g.advance r n).x = g.x ∧ (g.advance r n).fpst = g.fpst ∧
      (g.advance r n).flights = g.flights := by
    unfold Group.advance Group.setPcs
    dsimp only
    split <;> exact ⟨rfl, rfl, rfl, rfl⟩
  obtain ⟨cpriv, cx, cfpst, cflights⟩ := hclaim { ((s.issuing h r).g.advance r h.len) with
    last := some (s.issuing h r).t, lastPc := r.pc, lastRun := r.mask, run := (s.issuing h r).g.run.after h } h.cnt
  obtain ⟨apriv, ax, afpst, aflights⟩ := hadvance (s.issuing h r).g h.len
  obtain ⟨lpriv, lx⟩ := land_mode s.cur.clearYields s (s.issueCycle h.dist)
  obtain ⟨ypriv, yx⟩ := clearYields_mode s.cur
  exact ⟨cpriv.trans (apriv.trans (lpriv.trans ypriv)), cx.trans (ax.trans (lx.trans yx)), cfpst.trans afpst, cflights.trans aflights⟩

/-! ## A lane instruction that raises no flag -/

/-- A result that goes into flight leaves the group's mode, trap registers and flags; its flight is the last. -/
theorem finish_quiet (c : Cx) (h : Hdr) (ws : List RegWrite) (flags : BitVec 5) (s : State) :
    ∃ f : Flight, (c.finish h ws flags s).cur.flights = s.cur.flights ++ [f] ∧ f.flags = flags ∧
      (c.finish h ws flags s).cur.priv = s.cur.priv ∧ (c.finish h ws flags s).cur.x = s.cur.x ∧ (c.finish h ws flags s).cur.fpst = s.cur.fpst := by
  have hlatch (l : Latch) : (s.cur.pushLatch l).flights = s.cur.flights ∧ (s.cur.pushLatch l).priv = s.cur.priv ∧
      (s.cur.pushLatch l).x = s.cur.x ∧ (s.cur.pushLatch l).fpst = s.cur.fpst := by
    unfold Group.pushLatch
    split <;> exact ⟨rfl, rfl, rfl, rfl⟩
  rw [Cx.finish]
  split
  · exact ⟨_, rfl, rfl, rfl, rfl, rfl⟩
  · simp only [Cx.result]
    split
    · exact ⟨_, congrArg (· ++ _) (hlatch _).1, rfl, (hlatch _).2.1, (hlatch _).2.2.1, (hlatch _).2.2.2⟩
    · exact ⟨_, rfl, rfl, rfl, rfl, rfl⟩

theorem flagsOf_zero (en : DWord) (f : Nat → BitVec 5) (h : ∀ i, f i = 0) : flagsOf en f = 0 := by
  have hfold (l : List Nat) : l.foldl (fun a i => a ||| f i) 0 = 0 := by
    induction l with
    | nil => rfl
    | cons i l ih => rw [List.foldl_cons, h i]; exact ih
  exact hfold _

/-- Where its checks pass, a lane instruction whose values raise no flag takes no trap and leaves FPST. -/
theorem laneResult_quiet {h : Hdr} {pair : Bool} {dst : BitVec 8} {uses : List Use} {val : Cx → Nat → DWord × BitVec 5} {s : State} {r : Run}
    (hval : ∀ c i, (val c i).2 = 0) (hc : s.clears h (lanePlan h pair dst uses fun _ _ => (0, 0)) r = true) :
    ∃ (t : State) (fl : Flight), laneResult h pair dst uses val s = .next t ∧ t.cur.priv = s.cur.priv ∧ t.cur.x = s.cur.x ∧
      t.cur.fpst = (s.issuing h r).g.fpst ∧ t.cur.flights = (s.issuing h r).g.flights ++ [fl] ∧ fl.flags = 0 := by
  let c := s.issuing h r
  let rs : Lanes (DWord × BitVec 5) := Lanes.ofFn fun i => if lane c.en i then val c i else (0, 0)
  have hflags : flagsOf c.en (fun i => (rs.get i).2) = 0 := flagsOf_zero _ _ fun i => by
    simp only [rs, Lanes.get_ofFn]
    split
    · exact hval c _
    · rfl
  obtain ⟨f, hflights, hf, hpriv, hx, hfpst⟩ :=
    finish_quiet c h [.vec dst.toNat pair c.en (rs.map (·.1))] (flagsOf c.en fun i => (rs.get i).2) (c.onward h)
  obtain ⟨opriv, ox, ofpst, oflights⟩ := onward_mode s h r
  refine ⟨_, f, issue_completes h (lanePlan h pair dst uses val) s r ((clears_lanes s h h pair dst uses _ _ r).trans hc),
    hpriv.trans opriv, hx.trans ox, hfpst.trans ofpst, hflights.trans ?_, hf.trans hflags⟩
  rw [oflights]

end Sys2Proof.Machine

namespace Sys2Proof.Proofs
open Sys2Proof.Machine

/-- Settles O56: each function's value in terms of the integers of its width, and the issue of an instruction whose values carry no flag. -/
theorem integerEdges : Obligations.IntegerEdges := by
  intro w x y n cut sg un near lo hi
  have hcut (v : Int) : ofInt w v = cut v := ofInt_eq w v
  have hn : widthOf w = n := rfl
  have hun (v : DWord) : (uval w v : Int) = un v := by
    cases w <;> rfl
  have hlo : smin w = lo := by cases w <;> rfl
  have hhi : smax w = hi := by cases w <;> rfl
  have hmax : umax w = 2 ^ n - 1 := by cases w <;> rfl
  have hmod : (y.setWidth 32).toNat = y.toNat % 2 ^ 32 := BitVec.toNat_setWidth ..
  have hzero : un y = 0 ↔ uval w y = 0 := by rw [← hun]; exact Int.natCast_eq_zero
  refine ⟨?add, ?sub, ?mul, ?addSigned, ?addUnsigned, ?subSigned, ?subUnsigned, ?divZero, ?div, ?divMin, ?shift, ?quiet⟩
  case add => exact (narrow_add w x y).trans (hcut _)
  case sub => exact (narrow_sub w x y).trans (hcut _)
  case mul => exact (narrow_mul w x y).trans (hcut _)
  case addSigned => rw [← hlo, ← hhi]; exact hcut _
  case addUnsigned => rw [← hmax, ← hun, ← hun]; exact hcut _
  case subSigned => rw [← hlo, ← hhi]; exact hcut _
  case subUnsigned => rw [← hmax, ← hun, ← hun]; exact hcut _
  case divZero =>
    intro h u
    exact ⟨(divInt_by_zero (hzero.1 h) u x).trans (hcut _), (remInt_by_zero (hzero.1 h) u x).trans (hcut _)⟩
  case div =>
    intro h
    have hy : uval w y ≠ 0 := fun e => h (hzero.2 e)
    rw [← hun, ← hun]
    exact ⟨(divInt_signed hy x).trans (hcut _), (remInt_signed hy x).trans (hcut _), (divInt_unsigned hy x).trans (hcut _),
      (remInt_unsigned hy x).trans (hcut _)⟩
  case divMin =>
    intro hx hy
    exact ⟨by rw [← hlo]; exact (divInt_smin (hx.trans hlo.symm) hy).trans (hcut _), remInt_minus_one hy⟩
  case shift =>
    intro h
    have hpast : widthOf w ≤ (y.setWidth 32).toNat := hmod ▸ h
    exact ⟨shlInt_past hpast x, shrInt_past hpast x, by rw [sarInt_past hpast x, hcut]; rfl, rotlInt_mod w x y⟩
  case quiet =>
    intro f s r i hi
    simp only [List.mem_cons, List.not_mem_nil, or_false] at hi
    rcases hi with rfl | rfl | rfl | rfl | rfl <;> cases w <;> exact laneResult_quiet fun _ _ => rfl

end Sys2Proof.Proofs
end

section
/-! Memory (R4; log 5): what is read after a write, the one form of each content, and little-endian numbers. -/

namespace Sys2Proof.Machine

/-! ## Reading after a write -/

theorem write_get {m : Memory} (w : m.wf = true) (a b : Nat) (bs : List Byte) :
    (m.write a bs).get b = if h : a ≤ b ∧ b - a < bs.length then bs[b - a]'h.2 else m.get b := by
  induction bs generalizing m a with
  | nil => simp [Memory.write]
  | cons v bs ih =>
    rw [Memory.write, ih (set_wf w a v), set_get w]
    by_cases hab : b = a
    · subst hab
      have hout : ¬ b + 1 ≤ b := by omega
      simp [hout]
    · rw [if_neg hab]
      by_cases hin : a + 1 ≤ b ∧ b - (a + 1) < bs.length
      · have hstep : b - a = b - (a + 1) + 1 := by omega
        have hin' : a ≤ b ∧ b - a < (v :: bs).length := by simp only [List.length_cons]; omega
        rw [dif_pos hin, dif_pos hin']
        simp only [hstep, List.getElem_cons_succ]
      · have hin' : ¬ (a ≤ b ∧ b - a < (v :: bs).length) := by simp only [List.length_cons]; omega
        rw [dif_neg hin, dif_neg hin']

theorem write_get_outside {m : Memory} (w : m.wf = true) {a b : Nat} {bs : List Byte} (h : b < a ∨ a + bs.length ≤ b) :
    (m.write a bs).get b = m.get b := by
  rw [write_get w, dif_neg (by omega)]

theorem write_read {m : Memory} (w : m.wf = true) (a : Nat) (bs : List Byte) : (m.write a bs).read a bs.length = bs := by
  apply List.ext_getElem
  · simp [Memory.read]
  · intro i h _
    have hi : i < bs.length := by simpa [Memory.read] using h
    simp only [Memory.read, List.getElem_map, List.getElem_range, write_get w, Nat.add_sub_cancel_left]
    exact dif_pos ⟨Nat.le_add_right a i, hi⟩

/-! ## One form of each content -/

/-- The first entry of a canonical memory is read back, and it is not what an unlisted address reads as. -/
theorem get_first (a : Nat) (b : Byte) (m : Memory) : Memory.get ((a, b) :: m) a = b := by simp [Memory.get]

theorem get_rest {a k : Nat} (b : Byte) {m : Memory} (w : Memory.wfFrom (a + 1) m = true) (h : k ≠ a) : Memory.get ((a, b) :: m) k = m.get k := by
  rw [Memory.get, if_neg h]
  split
  · exact (get_below w (by omega)).symm
  · rfl

/-- Canonical memories of the same contents are the same list. -/
theorem wfFrom_ext {m m' : Memory} {lo lo' : Nat} (w : Memory.wfFrom lo m = true) (w' : Memory.wfFrom lo' m' = true)
    (h : ∀ k, m'.get k = m.get k) : m' = m := by
  induction m generalizing m' lo lo' with
  | nil =>
    cases m' with
    | nil => rfl
    | cons p m' =>
      simp only [Memory.wfFrom, Bool.and_eq_true, decide_eq_true_eq, bne_iff_ne] at w'
      exact absurd ((get_first p.1 p.2 m').symm.trans (h p.1)) w'.1.2
  | cons p m ih =>
    obtain ⟨a, b⟩ := p
    simp only [Memory.wfFrom, Bool.and_eq_true, decide_eq_true_eq, bne_iff_ne] at w
    obtain ⟨⟨-, hb⟩, wm⟩ := w
    cases m' with
    | nil => exact absurd ((h a).trans (get_first a b m)).symm hb
    | cons q m' =>
      obtain ⟨a', b'⟩ := q
      simp only [Memory.wfFrom, Bool.and_eq_true, decide_eq_true_eq, bne_iff_ne] at w'
      obtain ⟨⟨-, hb'⟩, wm'⟩ := w'
      have hle : ¬ a' < a := fun hlt => hb' <| by
        rw [← get_first a' b' m', h, get_rest b wm (by omega), get_below wm (by omega)]
      have hge : ¬ a < a' := fun hlt => hb <| by
        rw [← get_first a b m, ← h, get_rest b' wm' (by omega), get_below wm' (by omega)]
      obtain rfl : a' = a := by omega
      have hbyte : b' = b := by rw [← get_first a' b' m', h, get_first]
      have hrest : m' = m := ih wm wm' fun k => by
        by_cases hk : k = a'
        · rw [hk, get_below wm (by omega), get_below wm' (by omega)]
        · rw [← get_rest b' wm' hk, h, get_rest b wm hk]
      rw [hbyte, hrest]

/-! ## Numbers in bytes -/

theorem natBytes_length (n x : Nat) : (natBytes n x).length = n := by
  induction n generalizing x with
  | zero => rfl
  | succ n ih => rw [natBytes, List.length_cons, ih]

theorem leNat_natBytes (n x : Nat) : leNat (natBytes n x) = x % 256 ^ n := by
  induction n generalizing x with
  | zero => exact (Nat.mod_one x).symm
  | succ n ih => rw [natBytes, leNat, ih, BitVec.toNat_ofNat, Nat.pow_succ' (m := 256), Nat.mod_mul (a := 256)]

end Sys2Proof.Machine

namespace Sys2Proof.Proofs
open Sys2Proof.Machine

/-- Settles O57: reads after a write, the canonical form, and its uniqueness by induction on the two lists. -/
theorem memoryBytes : Obligations.MemoryBytes := fun _ a _ v bs w =>
  ⟨set_wf w a v, set_get w, write_wf w a bs, write_read w a bs, write_get_outside w,
    fun n x => ⟨leNat_natBytes n x, natBytes_length n x⟩, fun _ w' h => wfFrom_ext w w' h⟩

end Sys2Proof.Proofs
end

section
/-! What an issue can answer, case by case (R65, R131, R378, R464), and the frame of the instructions on registers alone (R54, R214, R216). -/

namespace Sys2Proof.Machine

/-! ## The outcomes of an issue -/

/-- What the issue of an instruction can leave: every way in which the shared issue ends, with what it ends in. -/
inductive Issued (h : Hdr) (p : Plan) (s : State) : State → Prop
  /-- The group is held, or has no run. -/
  | idle : Issued h p s s
  | delivered (r : Run) (d : Deferred) : Issued h p s ((s.issuing h r).s.deliver d r (s.issueCycle h.dist))
  /-- A check of R65 that is no matter of the instruction's own. -/
  | trapped (r : Run) (tr : Trap) : Issued h p s ((s.issuing h r).s.takeTrap tr r (s.issueCycle h.dist))
  /-- No lane is enabled (R54). -/
  | passed (r : Run) : Issued h p s (((s.issuing h r).passed h).account (s.issueCycle h.dist))
  | stalled (r : Run) : Issued h p s (s.issuing h r).s.stall
  /-- A fault of its own. -/
  | faulted (r : Run) (tr : Trap) : Issued h p s ((p.mark (s.issuing h r) (s.issuing h r).s).takeTrap tr r (s.issueCycle h.dist))
  | held (r : Run) : Issued h p s (p.ask (s.issuing h r) (s.issuing h r).s).stall
  | strayed (r : Run) (d : Nat × Nat) :
      Issued h p s ((s.issuing h r).s.strayed ((s.issuing h r).passed h) h d r (s.issueCycle h.dist))
  | completed (r : Run) : Issued h p s ((p.eff (s.issuing h r) ((s.issuing h r).onward h)).account (s.issueCycle h.dist))

theorem issued_of_next {h : Hdr} {p : Plan} {s t u : State} (hu : Issued h p s u)
    (e : (Host.Outcome.next u : Host.Outcome State Fault Refusal) = .next t) : Issued h p s t := by
  injection e with e
  exact e ▸ hu

/-- The issue ends in one of these ways. -/
theorem issue_issued {h : Hdr} {p : Plan} {s t : State} (e : issue h p s = .next t) : Issued h p s t := by
  unfold issue at e
  split at e
  · exact issued_of_next .idle e
  split at e
  · exact issued_of_next .idle e
  next r _ =>
  dsimp only at e
  split at e
  · exact issued_of_next (.delivered r _) e
  split at e
  · exact issued_of_next (.trapped r _) e
  split at e
  · exact issued_of_next (.trapped r _) e
  split at e
  · exact issued_of_next (.trapped r _) e
  split at e
  · exact issued_of_next (.trapped r _) e
  split at e
  · exact issued_of_next (.trapped r _) e
  split at e
  · exact issued_of_next (.passed r) e
  split at e
  · exact issued_of_next (.trapped r _) e
  split at e
  · exact issued_of_next (.stalled r) e
  split at e
  · exact issued_of_next (.faulted r _) e
  split at e
  · exact issued_of_next (.held r) e
  split at e
  · exact issued_of_next (.strayed r _) e
  · exact issued_of_next (.completed r) e

/-! ## The frame of an issue -/

/-- Nothing has changed but what `sameElsewhere` sets aside, and the group has the registers of another. -/
def State.keepsBut (s t : State) (g : Group) : Prop := s.sameElsewhere t ∧ t.cur.sameRegisters g

theorem release_registers (g : Group) (c : BitVec 4) : (g.release c).sameRegisters g := by
  unfold Group.release
  split <;> exact sameRegisters_refl _

theorem passed_registers (c : Cx) (h : Hdr) : (c.passed h).cur.sameRegisters c.g := advance_registers c.g c.run h.len

theorem onward_registers (c : Cx) (h : Hdr) : (c.onward h).cur.sameRegisters c.g :=
  sameRegisters_trans (claim_registers _ _) (advance_registers c.g c.run h.len)

theorem deliver_keepsBut (s : State) (g : Group) (d : Deferred) (r : Run) (n : Nat) :
    s.keepsBut (({ s with cur := g } : State).deliver d r n) g := by
  have hdrop : (if d.dec then ((({ g with deferred := g.deferred.filter (· != d) } : Group)).release d.cnt).dropLogged d.key
      else { g with deferred := g.deferred.filter (· != d) }).sameRegisters g := by
    split
    · exact release_registers { g with deferred := g.deferred.filter (· != d) } d.cnt
    · exact sameRegisters_refl g
  obtain ⟨hframe, hregs⟩ := takeTrap_frame s _ _ List.filter_sublist _ r n
  exact ⟨hframe, sameRegisters_trans hregs hdrop⟩

theorem account_keepsBut (s : State) {g g' : Group} (k n : Nat) (h : g'.sameRegisters g) :
    s.keepsBut (({ s with cur := g', nextKey := k } : State).account n) g := by
  obtain ⟨hframe, hcur⟩ := account_frame s g' k n
  exact ⟨hframe, hcur.symm ▸ h⟩

theorem takeTrap_keepsBut (s : State) {g g' : Group} (tr : Trap) (r : Run) (n : Nat) (h : g'.sameRegisters g) :
    s.keepsBut (({ s with cur := g' } : State).takeTrap tr r n) g := by
  obtain ⟨hframe, hregs⟩ := takeTrap_frame s g' s.olog (List.Sublist.refl _) tr r n
  exact ⟨hframe, sameRegisters_trans hregs h⟩

theorem stall_keepsBut (s : State) (g : Group) : s.keepsBut ({ s with cur := g } : State).stall g :=
  ⟨⟨rfl, List.Sublist.refl _, rfl, rfl⟩, sameRegisters_refl g⟩

/-- R464: an instruction that a shadow keeps from acting traps at once, or leaves its fault to be delivered. -/
theorem strayed_keepsBut (s : State) {g g' : Group} (h : Hdr) (d : Nat × Nat) (r : Run) (n : Nat) (hg : g'.sameRegisters g) :
    s.keepsBut (({ s with cur := g } : State).strayed { s with cur := g' } h d r n) g := by
  unfold State.strayed
  dsimp only
  split
  · exact takeTrap_keepsBut s _ r n (sameRegisters_refl g)
  · exact account_keepsBut s _ n (sameRegisters_trans (claim_registers g' h.cnt) hg)

/-- The registers of the group are those it had, or those it had with the results that were due. -/
def State.registersOf (s : State) (dist : Nat) (t : State) : Prop :=
  t.cur.sameRegisters s.cur ∨ t.cur.sameRegisters ((s.cur.clearYields).land s (s.issueCycle dist))

/-- An issue that leaves nothing beside a trap or a stall keeps everything, or completes. -/
theorem issue_frame {h : Hdr} {p : Plan} {s t : State} (hmark : p.mark = fun _ s => s) (hask : p.ask = fun _ s => s)
    (e : issue h p s = .next t) :
    (s.sameElsewhere t ∧ s.registersOf h.dist t) ∨
      ∃ r, t = (p.eff (s.issuing h r) ((s.issuing h r).onward h)).account (s.issueCycle h.dist) := by
  have landed {u : State} (hu : s.keepsBut u ((s.cur.clearYields).land s (s.issueCycle h.dist))) :
      s.sameElsewhere u ∧ s.registersOf h.dist u := ⟨hu.1, .inr hu.2⟩
  cases issue_issued e with
  | idle => exact .inl ⟨⟨rfl, List.Sublist.refl _, rfl, rfl⟩, .inl (sameRegisters_refl _)⟩
  | delivered r d => exact .inl (landed (deliver_keepsBut s _ d r _))
  | trapped r tr => exact .inl (landed (takeTrap_keepsBut s tr r _ (sameRegisters_refl _)))
  | passed r => exact .inl (landed (account_keepsBut s _ _ (passed_registers (s.issuing h r) h)))
  | stalled r => exact .inl (landed (stall_keepsBut s _))
  | faulted r tr => rw [hmark]; exact .inl (landed (takeTrap_keepsBut s tr r _ (sameRegisters_refl _)))
  | held r => rw [hask]; exact .inl (landed (stall_keepsBut s _))
  | strayed r d => exact .inl (landed (strayed_keepsBut s h d r _ (passed_registers (s.issuing h r) h)))
  | completed r => exact .inr ⟨r, rfl⟩

/-- An effect on the issuing group that leaves its registers. -/
def Plan.OnGroup (p : Plan) : Prop :=
  ∀ (c : Cx) (s : State), ∃ (g : Group) (k : Nat), p.eff c s = { s with cur := g, nextKey := k } ∧ g.sameRegisters s.cur

/-- The frame of an instruction that only puts results into flight. -/
theorem issue_registers {h : Hdr} {p : Plan} {s t : State} (hmark : p.mark = fun _ s => s) (hask : p.ask = fun _ s => s)
    (heff : p.OnGroup) (e : issue h p s = .next t) : s.sameElsewhere t ∧ s.registersOf h.dist t := by
  rcases issue_frame hmark hask e with hkeeps | ⟨r, rfl⟩
  · exact hkeeps
  · obtain ⟨g, k, hnext, hg⟩ := heff (s.issuing h r) ((s.issuing h r).onward h)
    rw [hnext]
    obtain ⟨hframe, hregs⟩ := account_keepsBut s k (s.issueCycle h.dist) (sameRegisters_trans hg (onward_registers (s.issuing h r) h))
    exact ⟨hframe, .inr hregs⟩

/-- `issue_registers` for an instruction whose distance is known by another name. -/
theorem issue_registers_dist {h : Hdr} {p : Plan} {s t : State} {n : Nat} (e : issue h p s = .next t) (hn : h.dist = n)
    (hmark : p.mark = fun _ s => s) (hask : p.ask = fun _ s => s) (heff : p.OnGroup) :
    s.sameElsewhere t ∧ s.registersOf n t :=
  hn ▸ issue_registers hmark hask heff e

/-- Whichever form VOTE takes, it is one issue that puts results into flight (R236). -/
theorem vote_onGroup (f : F64) (s : State) : ∃ p : Plan, execVote f s = issue (hdr64 0x08 0x01 f) p s ∧ (p.mark = fun _ s => s) ∧
    (p.ask = fun _ s => s) ∧ p.OnGroup := by
  simp only [execVote]
  split <;> exact ⟨_, rfl, rfl, rfl, fun c u => by dsimp only; exact finish_frame c _ _ _ u⟩

/-- And so is PMOV (R240). -/
theorem pmov_onGroup (f : F64) (s : State) : ∃ p : Plan, execPmov f s = issue (hdr64 0x09 0x04 f) p s ∧ (p.mark = fun _ s => s) ∧
    (p.ask = fun _ s => s) ∧ p.OnGroup := by
  simp only [execPmov]
  split <;> exact ⟨_, rfl, rfl, rfl, fun c u => by dsimp only; exact finish_frame c _ _ _ u⟩

end Sys2Proof.Machine

namespace Sys2Proof.Proofs
open Sys2Proof.Machine

/-- Settles O58: every instruction on registers alone is an issue whose effect puts results into flight, and no other instruction is one. -/
theorem registerFrame : Obligations.RegisterFrame := by
  intro i s t hi e
  cases i with
  | mov16 vd vs | iadd16 vd vs | isub16 vd vs | imul16 vd vs | and16 vd vs | or16 vd vs | xor16 vd vs | shl16 vd vs | shr16 vd vs
    | sar16 vd vs | imin16 vd vs | imax16 vd vs | faddF32_16 vd vs | fsubF32_16 vd vs | fmulF32_16 vd vs | fmaxF32_16 vd vs | iadd32 f
    | isub32 f | imul32 f | imulh32 f | imad32 f | imin32 f | imax32 f | iabs32 f | and32 f | or32 f | xor32 f | andn32 f | not32 f
    | shl32 f | shr32 f | sar32 f | rotl32 f | popc32 f | clz32 f | ctz32 f | brev32 f | lea32 f | mov32 f | faddF32_32 f | fsubF32_32 f
    | fmulF32_32 f | ffmaF32_32 f | fminF32_32 f | fmaxF32_32 f | fscaleF32_32 f | faddF64_32 f | fsubF64_32 f | fmulF64_32 f
    | ffmaF64_32 f | fminF64_32 f | fmaxF64_32 f | faddX2_32 f | fsubX2_32 f | fmulX2_32 f | ffmaX2_32 f | fminX2_32 f | fmaxX2_32 f
    | iadd w f | isub w f | imul w f | imulh w f | imad w f | idiv w f | irem w f | imin w f | imax w f | iabs w f | and w f | or w f
    | xor w f | andn w f | not w f | shl w f | shr w f | sar w f | rotl w f | bfx w f | bfi w f | popc w f | clz w f | ctz w f
    | brev w f | lea w f | icmp w f | sel w f | mov w f | fadd w f | fsub w f | fmul w f | ffma w f | fmin w f | fmax w f | fcmp w f
    | fclass w f | frcp w f | frsq w f | fsqrt w f | fdiv w f | fexp2 w f | flog2 w f | fsin w f | fcos w f | frnd w f | fscale w f
    | fgetexp w f | iaddImm f | imulImm f | iminImm f | imaxImm f | andImm f | orImm f | xorImm f | shlImm f | shrImm f | sarImm f
    | rotlImm f | bfxImm f | bfiImm f | icmpImm f | movi f | moviHi f | faddX2 f | fsubX2 f | fmulX2 f | ffmaX2 f | fminX2 f | fmaxX2 f
    | fcmpX2 f | cvt f | pack f | unpack f | amax f | quant f | shfl f | redux f | scan f | matchLanes f | pand f | por f | pxor f
    | pnot f | sadd f | ssub f | smul f | sand f | sor f | sxor f | sshl f | sshr f | scmp f | ssel f | smov f | bcast f | rdlane f
    | saddImm f | ssubImm f | smulImm f | sandImm f | sorImm f | sxorImm f | sshlImm f | sshrImm f | scmpImm f | smovi f | smoviMid f
    | smoviTop f | wstat f | wrew f =>
    refine issue_registers_dist e rfl rfl rfl fun c u => ?_
    dsimp only
    exact finish_frame c _ _ _ u
  | wset f =>
    refine issue_registers_dist (p := wsetPlan f) e rfl rfl rfl fun c u => ?_
    dsimp only [wsetPlan]
    exact finish_frame c _ _ _ u
  | vote f =>
    obtain ⟨p, hp, hmark, hask, heff⟩ := vote_onGroup f s
    exact issue_registers_dist (hp.symm.trans e) rfl hmark hask heff
  | pmov f =>
    obtain ⟨p, hp, hmark, hask, heff⟩ := pmov_onGroup f s
    exact issue_registers_dist (hp.symm.trans e) rfl hmark hask heff
  | nop32 f => exact issue_registers rfl rfl (fun _ u => ⟨u.cur, u.nextKey, rfl, sameRegisters_refl _⟩) e
  | _ => exact absurd hi Bool.false_ne_true

end Sys2Proof.Proofs
end

section
/-! The frame of the memory accesses at their issue (R189, R199, R216, R233, R245). -/

namespace Sys2Proof.Machine

/-! ## What an access leaves at its issue -/

/-- The bytes of memory, caches and vaults, their poison, and the other groups are the same. -/
structure SameStore (s t : State) : Prop where
  mem : t.mem = s.mem
  l1 : t.l1 = s.l1
  l2 : t.l2 = s.l2
  homes : t.homes = s.homes
  vlines : t.vlines = s.vlines
  poison : t.poison = s.poison
  others : t.others = s.others
  vaults : t.blocks.map (fun b => (b.key, b.vault)) = s.blocks.map (fun b => (b.key, b.vault))

/-- Two groups hold the same registers but for one walker. -/
structure SameButWalker (w : Nat) (g h : Group) : Prop where
  vregs : h.vregs = g.vregs
  sregs : h.sregs = g.sregs
  preds : h.preds = g.preds
  fpst : h.fpst = g.fpst
  walkers : ∀ k, k ≠ w → h.walker k = g.walker k

/-- Between two states no stored byte and no register changes but one walker of the issuing group. -/
structure AccessKeeps (w : Nat) (s t : State) : Prop where
  store : SameStore s t
  group : SameButWalker w s.cur t.cur

theorem SameStore.trans {s t u : State} (h : SameStore s t) (k : SameStore t u) : SameStore s u :=
  ⟨k.mem.trans h.mem, k.l1.trans h.l1, k.l2.trans h.l2, k.homes.trans h.homes, k.vlines.trans h.vlines, k.poison.trans h.poison,
    k.others.trans h.others, k.vaults.trans h.vaults⟩

theorem SameButWalker.trans {w : Nat} {a b c : Group} (h : SameButWalker w a b) (k : SameButWalker w b c) : SameButWalker w a c :=
  ⟨k.vregs.trans h.vregs, k.sregs.trans h.sregs, k.preds.trans h.preds, k.fpst.trans h.fpst,
    fun i hi => (k.walkers i hi).trans (h.walkers i hi)⟩

theorem SameButWalker.of_sameRegisters {w : Nat} {g h : Group} (e : h.sameRegisters g) : SameButWalker w g h := by
  obtain ⟨hv, hs, hp, hw, hf⟩ := e
  exact ⟨hv, hs, hp, hf, fun k _ => by rw [Group.walker, Group.walker, hw]⟩

theorem AccessKeeps.refl (w : Nat) (s : State) : AccessKeeps w s s :=
  ⟨⟨rfl, rfl, rfl, rfl, rfl, rfl, rfl, rfl⟩, .of_sameRegisters (sameRegisters_refl _)⟩

theorem AccessKeeps.trans {w : Nat} {s t u : State} (h : AccessKeeps w s t) (k : AccessKeeps w t u) : AccessKeeps w s u :=
  ⟨h.store.trans k.store, h.group.trans k.group⟩

theorem AccessKeeps.ite {w : Nat} {s t u : State} {p : Prop} [Decidable p] (ht : AccessKeeps w s t) (hu : AccessKeeps w s u) :
    AccessKeeps w s (if p then t else u) := by
  split <;> assumption

/-- What `sameElsewhere` keeps holds every stored byte. -/
theorem SameStore.of_sameElsewhere {s t : State} (h : s.sameElsewhere t) : SameStore s t := by
  obtain ⟨hall, -, hblocks, -⟩ := h
  have hvaults : (t.blocks.map Block.still).map (fun b => (b.key, b.vault)) = (s.blocks.map Block.still).map fun b => (b.key, b.vault) :=
    congrArg _ hblocks
  rw [List.map_map, List.map_map] at hvaults
  have hkeep {α : Type} (field : State → α) := congrArg field hall
  exact ⟨hkeep State.mem, hkeep State.l1, hkeep State.l2, hkeep State.homes, hkeep State.vlines, hkeep State.poison, hkeep State.others, hvaults⟩

/-! ## The parts of an access's start -/

variable (w : Nat)

theorem account_access (s : State) (n : Nat) : AccessKeeps w s (s.account n) := by
  obtain ⟨hframe, hcur⟩ := account_frame s s.cur s.nextKey n
  exact ⟨.of_sameElsewhere hframe, .of_sameRegisters (hcur.symm ▸ sameRegisters_refl _)⟩

theorem onBlock_vaults (s : State) (k : Nat) (f : Block → Block) (hf : ∀ b, (f b).key = b.key ∧ (f b).vault = b.vault) :
    (s.onBlock k f).blocks.map (fun b => (b.key, b.vault)) = s.blocks.map fun b => (b.key, b.vault) := by
  rw [onBlock_blocks, List.map_map]
  refine List.map_congr_left fun b _ => ?_
  simp only [Function.comp]
  split
  · rw [(hf b).1, (hf b).2]
  · rfl

theorem setWide_access (s : State) : AccessKeeps w s s.setWide :=
  ⟨⟨rfl, rfl, rfl, rfl, rfl, rfl, rfl, onBlock_vaults s _ _ fun _ => ⟨rfl, rfl⟩⟩, .of_sameRegisters (sameRegisters_refl _)⟩

theorem pin_access (s : State) : AccessKeeps w s s.pin := by
  unfold State.pin
  dsimp only
  exact .ite ⟨⟨rfl, rfl, rfl, rfl, rfl, rfl, rfl, rfl⟩, .of_sameRegisters (sameRegisters_refl _)⟩
    ⟨⟨rfl, rfl, rfl, rfl, rfl, rfl, rfl, rfl⟩, .of_sameRegisters (sameRegisters_refl _)⟩

theorem launch_access (c : Cx) (h : Hdr) (op : FlightOp) (ws : List RegWrite) (dests : List RegRef) (flags : BitVec 5) (s : State) :
    AccessKeeps w s (c.launch h op ws dests flags s) :=
  ⟨⟨rfl, rfl, rfl, rfl, rfl, rfl, rfl, rfl⟩, .of_sameRegisters (sameRegisters_refl _)⟩

/-- R245: the walker that gives the address is the only register that the issue of an access writes. -/
theorem advanceWalker_access (c : Cx) (f : F64) (wlk : Bool) (s : State) : AccessKeeps f.s1.toNat s (c.advanceWalker f wlk s) := by
  unfold Cx.advanceWalker
  refine .ite ?_ (.refl _ s)
  refine ⟨⟨rfl, rfl, rfl, rfl, rfl, rfl, rfl, rfl⟩, ⟨rfl, rfl, rfl, rfl, fun k hk => ?_⟩⟩
  show vget (s.cur.walkers.setIfInBounds f.s1.toNat _) k _ = vget s.cur.walkers k _
  rw [vget_set, if_neg fun h => hk h.1.symm]

theorem start_access (m : MemForm) (h : Hdr) (f : F64) (dests : List RegRef) (irrev : Bool) (c : Cx) (s : State) :
    AccessKeeps f.s1.toNat s (m.start h f dests irrev c s) := by
  unfold MemForm.start
  dsimp only
  have hpin (p : Bool) (u : State) : AccessKeeps f.s1.toNat u (if p then u.pin else u) := .ite (pin_access _ u) (.refl _ u)
  have hwide (p : Bool) (u : State) : AccessKeeps f.s1.toNat u (if p then u.setWide else u) := .ite (setWide_access _ u) (.refl _ u)
  have hlog {u : State} (hu : AccessKeeps f.s1.toNat s u) (l : List LogEntry) : AccessKeeps f.s1.toNat s { u with olog := l } :=
    hu.trans ⟨⟨rfl, rfl, rfl, rfl, rfl, rfl, rfl, rfl⟩, .of_sameRegisters (sameRegisters_refl _)⟩
  refine AccessKeeps.ite (hlog ?_ _) ?_ <;>
    exact (((advanceWalker_access c f m.wlk s).trans (hpin _ _)).trans (hwide _ _)).trans (launch_access _ c h _ _ _ _ _)

/-! ## The issue of an access -/

/-- The conclusion of the frame: what is stored stays, and so do the registers of the group as it was, or as it was with its due results. -/
def AccessLeaves (s t : State) (dist w : Nat) : Prop :=
  SameStore s t ∧ ∃ g, (g = s.cur ∨ g = (s.cur.clearYields).land s (s.issueCycle dist)) ∧ SameButWalker w g t.cur

theorem issue_access {h : Hdr} {p : Plan} {s t : State} {n w : Nat} (e : issue h p s = .next t) (hn : h.dist = n)
    (hmark : p.mark = fun _ s => s) (hask : p.ask = fun _ s => s) (heff : ∀ c u, AccessKeeps w u (p.eff c u)) : AccessLeaves s t n w := by
  subst hn
  rcases issue_frame hmark hask e with ⟨hframe, hregs | hregs⟩ | ⟨r, rfl⟩
  · exact ⟨.of_sameElsewhere hframe, _, .inl rfl, .of_sameRegisters hregs⟩
  · exact ⟨.of_sameElsewhere hframe, _, .inr rfl, .of_sameRegisters hregs⟩
  · let c := s.issuing h r
    have honward : SameStore s (c.onward h) := ⟨rfl, rfl, rfl, rfl, rfl, rfl, rfl, rfl⟩
    have hdone := (heff c (c.onward h)).trans (account_access w _ (s.issueCycle h.dist))
    exact ⟨honward.trans hdone.store, _, .inr rfl, (SameButWalker.of_sameRegisters (onward_registers c h)).trans hdone.group⟩

theorem memAccess_leaves {h : Hdr} {f : F64} {m : MemForm} {ops : Cx → Bool} {uses : List Use} {dests : List RegRef} {irrev : Bool} {s t : State}
    {n : Nat} (e : memAccess h f m ops uses dests irrev s = .next t) (hn : h.dist = n) : AccessLeaves s t n f.s1.toNat :=
  issue_access e hn rfl rfl fun c u => start_access m h f dests irrev c u

theorem planeAccess_leaves {min : BitVec 6} {f : F64} {kind : AccKind} {s t : State} (e : planeAccess min f kind s = .next t) :
    AccessLeaves s t f.dist.toNat f.s1.toNat :=
  issue_access e rfl rfl rfl fun c u => launch_access _ c _ _ _ _ _ u

end Sys2Proof.Machine

namespace Sys2Proof.Proofs
open Sys2Proof.Machine

/-- Settles O59: each of these is one issue whose effect puts an access into flight and advances the walker of its address. -/
theorem accessFrame : Obligations.AccessFrame := by
  intro f s t i hi e
  have hleaves : AccessLeaves s t f.dist.toNat f.s1.toNat ∧ i.dist = f.dist.toNat := by
    simp only [List.mem_cons, List.not_mem_nil, or_false] at hi
    rcases hi with rfl | rfl | rfl | rfl | rfl | rfl | rfl | rfl | rfl | rfl | rfl
    case inr.inr.inr.inr.inr.inr.inr.inr.inr.inl | inr.inr.inr.inr.inr.inr.inr.inr.inr.inr => exact ⟨planeAccess_leaves e, rfl⟩
    all_goals exact ⟨memAccess_leaves e rfl, rfl⟩
  obtain ⟨⟨hstore, g, hg, hgroup⟩, hdist⟩ := hleaves
  rw [hdist]
  exact ⟨hstore.mem, hstore.l1, hstore.l2, hstore.homes, hstore.vlines, hstore.poison, hstore.others, hstore.vaults, g, hg,
    hgroup.vregs, hgroup.sregs, hgroup.preds, hgroup.fpst, hgroup.walkers⟩

end Sys2Proof.Proofs
end

section
/-! A store through a core that completes a line of its chiplet's L2 (R174): why the last clause of `StoresWriteTheirBytes` fails. -/

namespace Sys2Proof.Machine

/-- After a reset, chiplet 1 holds the first 127 bytes of line 0, which has its home elsewhere, clean and older than memory: each is 1 where
memory reads 0. An L2 that lacks a byte of a line fills the whole line anew when it is read. -/
def staleLine : State := { State.reset with l2 := (List.range 127).map fun i => (⟨1, 0, 0, i, 1, false⟩ : CByte) }

/-- Core 16, of chiplet 1, stores the one byte of the line that its L2 lacks, past its L1. -/
def completedLine : State := staleLine.coreWrite 16 0 0 1 127 [5]

/-- Before the store the L2 lacks byte 127, so that a read of the line takes memory's bytes. -/
theorem staleLine_read : (staleLine.coreRead 16 0 0 0 0 1).1 = [0] := by decide +kernel

/-- After it the L2 holds the line whole, and the read takes its bytes. -/
theorem completedLine_read : (completedLine.coreRead 16 0 0 0 0 1).1 = [1] := by decide +kernel

/-- A cache that is empty has room. -/
theorem staleLine_roomL1 : staleLine.roomL1 16 0 0 127 = staleLine := if_pos (by decide)

/-- Where a chiplet's L2 chooses no victim, it has room. -/
theorem roomL2_of_no_victim {s : State} {chip pa : Nat}
    (h : s.victim ((s.l2 ++ s.homes).filter fun c => c.unit == chip && l2Set c.pa == l2Set pa) (chip + 512) 0 0 pa = none) :
    s.roomL2 chip pa = s := by
  unfold State.roomL2
  rw [h]
  exact ite_self s

theorem staleLine_roomL2_chip : staleLine.roomL2 (chipOfCore 16) 127 = staleLine := roomL2_of_no_victim (by decide +kernel)

theorem staleLine_roomL2_home : staleLine.roomL2 (homeOf 127) 127 = staleLine := roomL2_of_no_victim (by decide +kernel)

theorem staleLine_clean : ∀ c ∈ staleLine.l1 ++ staleLine.l2, c.dirty = false := by
  intro c hc
  obtain ⟨i, -, rfl⟩ := List.mem_map.1 (show c ∈ (List.range 127).map fun i => (⟨1, 0, 0, i, 1, false⟩ : CByte) from hc)
  rfl

end Sys2Proof.Machine

namespace Sys2Proof.Proofs
open Sys2Proof.Machine

/-- Refutes O60: byte 0 of a line reads 0 while the chiplet's L2 lacks byte 127 of it, and reads 1 once a store of byte 127 alone has made the
line whole there, although every hypothesis of the clause holds. -/
theorem not_storesWriteTheirBytes : ¬ Obligations.StoresWriteTheirBytes := by
  unfold Obligations.StoresWriteTheirBytes
  rintro ⟨-, hcore⟩
  obtain ⟨-, hframe⟩ := hcore staleLine 16 0 127 1 [5] rfl rfl (by decide) (by decide) (by decide)
  have hclean : ∀ c ∈ staleLine.l1 ++ staleLine.l2, c.dirty = true → c.pasid ≠ 0 → c.pa < 127 ∨ 127 + [5].length ≤ c.pa :=
    fun c hc hdirty => absurd hdirty (by simp [staleLine_clean c hc])
  have hsame : (completedLine.coreRead 16 0 0 0 0 1).1 = (staleLine.coreRead 16 0 0 0 0 1).1 :=
    hframe staleLine_roomL1 staleLine_roomL2_chip staleLine_roomL2_home hclean 16 0 0 0 0 (.inl (by decide))
  rw [completedLine_read, staleLine_read] at hsame
  exact absurd hsame (by decide)

end Sys2Proof.Proofs
end
